-- ==== Sys2Proof/Word.lean ====
section
/-! DEFINITION. The word types of the HN-820 and the sparse table in which the model keeps sparse data.
Bit 0 is the least significant bit and multi-byte fields are little-endian (R8). -/
namespace Sys2Proof

abbrev Byte := BitVec 8
abbrev W16 := BitVec 16
abbrev W32 := BitVec 32
abbrev W64 := BitVec 64

/-- A sparse table: key and value pairs with strictly rising keys and no value equal to the key's default.
The operations over it are in Sys2Proof/Machine/Tab.lean. -/
abbrev Tab (α : Type) := List (Nat × α)

/-- Bits [lo + len - 1 : lo] of a number. -/
def bitsOf (x lo len : Nat) : Nat := (x >>> lo) % 2 ^ len

/-- The number with its bits [lo + len - 1 : lo] replaced by the low len bits of v. -/
def withBits (x lo len v : Nat) : Nat :=
  x - (bitsOf x lo len <<< lo) + ((v % 2 ^ len) <<< lo)

/-- A bit as a number. -/
def boolNat (b : Bool) : Nat := if b then 1 else 0

/-- The two's-complement reading of the low len bits of x. -/
def signedOf (x len : Nat) : Int :=
  let y := x % 2 ^ len
  if y < 2 ^ (len - 1) then (y : Int) else (y : Int) - 2 ^ len

/-- One more, or kept at the largest value of the width (the counters that saturate). -/
def satInc (x width : Nat) : Nat := if x + 1 < 2 ^ width then x + 1 else 2 ^ width - 1

end Sys2Proof
end

