-- ==== Sys2Proof/Syntax.lean ====
section
/-! DEFINITION. The commands of the block: one constructor for every row of spec/opcode_table.json, with its operands.
A command is one indivisible step of the part; what reaches it from outside the model stands in its operands. -/
namespace Sys2Proof

/-- The fields of a 128-bit engine instruction after its opcode (R56). The opcode is the constructor's. -/
structure EngW where
  opnd : BitVec 40 := 0
  wait0 : BitVec 24 := 0
  wait1 : BitVec 24 := 0
  sig0 : BitVec 16 := 0
  sig1 : BitVec 16 := 0
deriving DecidableEq, Repr

/-- Control-core format A (R79). -/
structure FmtA where
  gd : BitVec 5
  ga : BitVec 5
  gb : BitVec 5
  func : BitVec 11 := 0
deriving DecidableEq, Repr

/-- Control-core format I (R79): gd is GS for stores. -/
structure FmtI where
  gd : BitVec 5
  ga : BitVec 5
  imm : BitVec 16
deriving DecidableEq, Repr

/-- Control-core format B (R79). -/
structure FmtB where
  ga : BitVec 5
  gb : BitVec 5
  off : BitVec 16
deriving DecidableEq, Repr

/-- Control-core format J (R79). -/
structure FmtJ where
  gd : BitVec 5
  off : BitVec 21
deriving DecidableEq, Repr

/-- Control-core format Q (R79). -/
structure FmtQ where
  ga : BitVec 5
  gb : BitVec 5
  eng : BitVec 3
  rsvd : BitVec 13 := 0
deriving DecidableEq, Repr

/-- Control-core format T (R79). -/
structure FmtT where
  g : BitVec 5
  tally : BitVec 6
  imm : BitVec 15 := 0
deriving DecidableEq, Repr

/-- Control-core format P (R79): bits [24:12] are reserved. -/
structure FmtP where
  take : BitVec 1
  rsvd : BitVec 13 := 0
  peg : BitVec 12
deriving DecidableEq, Repr

/-- The three access paths of the setup space (R38). -/
inductive Path where
  | steward
  | supervisor (core : Fin 4)
  | jtag
deriving DecidableEq, Repr

/-- Who makes an access in the tier window: a stream by its slot (its next request or list piece) or by the place of its
transfer in flight, a control core's n-th load or store, or the n-th request held for another package; or another package's translation unit
for a tile of one of this package's streams, with the address there (log entry 91). -/
inductive Requester where
  | stream (c : Fin 64) (k : Nat)
  | load (c : Fin 64) (n : Nat)
  | store (c : Fin 64) (n : Nat)
  | remote (n : Nat)
  | away (c : Fin 64) (slot : Fin 16) (tile : Nat) (va : BitVec 47)
deriving DecidableEq, Repr

/-- What a translation fault suspends or holds (R262, R315, R430): a stream, a control core's accesses, a channel's send unit. -/
inductive Suspended where
  | stream (c : Fin 64) (slot : Fin 16)
  | ctl (c : Fin 64)
  | sender (ch : Fin 64)
deriving DecidableEq, Repr

/-- One Britum image of a bundle (R472): code bytes, CORE_CODE, the six CORE_ENG_START values, STR_SPLIT and CORE_LANTERN, and which
engines the job uses (R94). -/
structure Image where
  code : List Byte
  codeReg : W32
  starts : List Nat
  split : W32
  lantern : W32
  used : BitVec 6 := 63
deriving DecidableEq, Repr

/-- A channel of a bundle (R472): its registers, the place the supervisor gives its table (RED_CHAN_TABLE) and the table. -/
structure ChanDef where
  ch : Fin 64
  cfg : W64
  time : W64
  slots : W32
  place : W64
  table : List Byte
deriving DecidableEq, Repr

/-- An initial-state item (R476): job virtual range, page size, tier, cellar die, writability, ciphertext of a copied range, and
the frames the supervisor gives its pages. -/
structure InitItem where
  va : Nat
  len : Nat
  big : Bool
  tier : Fin 2
  cellar : Fin 4
  w : Bool
  src : Option (List Byte)
  frames : List Nat
deriving DecidableEq, Repr

/-- The update section (R472): the sixteen rule slots' registers, the program store, UPD_CLIP, UPD_SR_SEED and NF_STOP. -/
structure UpdDef where
  cfg : List W64
  prog : List W64
  params : List (List W32)
  store : List W64
  clip : W32
  seed : W64
  nfStop : Bool
deriving DecidableEq, Repr

/-- The serving section (R486): bubble lengths of the entry programs, request slots (count, size, virtual address), the taking
packages, the stage packages a request passes, and the extra micro-batches a step may take. -/
structure ServDef where
  programs : List Nat
  slots : Nat
  size : Nat
  va : Nat
  takers : List Nat
  passes : List Nat
  extra : Nat
deriving DecidableEq, Repr

/-- What a LOAD reads and what the supervisor chooses in it (R471 to R476, R565, R566): the 512 B header; the outcome of orders 1 to
5 of R566 (0: all pass) and the job secret by its identity; the decrypted payload; the sections whose layout the spec does not
give; the space, key slot, page tables (die and 512-byte frame of the first level, its entries; region, die and frame of each
second level), and the tier-1 offset on each cellar die of the array of update items that it builds (R352, R474). -/
structure LoadData where
  header : List Byte
  sec : Fin 6
  secret : Nat
  payload : List Byte
  images : List Image := []
  chans : List ChanDef := []
  fbCores : W64 := 0
  pegs : List (Nat × Nat × W64) := []
  init : List InitItem := []
  update : Option UpdDef := none
  serving : Option ServDef := none
  space : Fin 16
  keySlot : Fin 32
  root : Fin 4 × Nat
  count : Nat
  tables : List (Nat × Fin 4 × Nat) := []
  items : List Nat := []
deriving DecidableEq, Repr

/-- Defects that the fuses or self-test give (R505): physical cores 17 * region + slot; bad rows and columns of an array (physical
core, engine, whether a column, physical row or column); cellar vector engines (die, number); supervisor cores; and units with no
spare (class 1 attic, 2 peg memory, 3 on-die network, 4 die-to-die PHY, 5 cellar sequencer, 6 guyline router; instance). -/
structure Defects where
  cores : List Nat := []
  arrays : List (Nat × Nat × Bool × Nat) := []
  cves : List (Nat × Nat) := []
  sup : List Nat := []
  units : List (Nat × Nat) := []
deriving DecidableEq, Repr
/-- What the serial presence detect of one module says (R308, R309): its size code of MEM_T2_CFG.MODULE, its rank count and
organisation by an identity, and whether it is load-reduced. -/
structure Spd where
  size : Nat
  org : Nat := 0
  lr : Bool := false
deriving DecidableEq, Repr

/-- Where a firmware chunk comes from: read over the steward port at a bus address, or the n-th packet delivered to this package. -/
inductive ChunkFrom where
  | port (addr : BitVec 64) (bytes : List (BitVec 8))
  | packet (n : Nat)
deriving DecidableEq, Repr


/-- The fields of a cellar vector engine's instruction after its opcode (R373). -/
structure CveI where
  d : BitVec 6 := 0
  a : BitVec 6 := 0
  b : BitVec 6 := 0
  c : BitVec 6 := 0
  bp : BitVec 1 := 0
  cp : BitVec 1 := 0
  soff : BitVec 14 := 0
  xr : BitVec 1 := 0
  sub : BitVec 4 := 0
  rsvd : BitVec 11 := 0
deriving DecidableEq, Repr

/-- The commands, in the order of spec/opcode_table.json. -/
inductive Instr where
  | instructionFetch (c : Fin 64)
  | nop (c : Fin 64) (e : Fin 5) (w : EngW)
  | loop (c : Fin 64) (e : Fin 5) (w : EngW)
  | jump (c : Fin 64) (e : Fin 5) (w : EngW)
  | brq (c : Fin 64) (e : Fin 5) (w : EngW)
  | settle (c : Fin 64) (e : Fin 5) (w : EngW)
  | halt (c : Fin 64) (e : Fin 5) (w : EngW)
  | instructionComplete (c : Fin 64) (e : Fin 6) (n : Nat)
  | alu (c : Fin 64) (i : FmtA)
  | addi (c : Fin 64) (i : FmtI)
  | andi (c : Fin 64) (i : FmtI)
  | ori (c : Fin 64) (i : FmtI)
  | xori (c : Fin 64) (i : FmtI)
  | slti (c : Fin 64) (i : FmtI)
  | sltiu (c : Fin 64) (i : FmtI)
  | shi (c : Fin 64) (i : FmtI)
  | lui (c : Fin 64) (i : FmtI)
  | lih (c : Fin 64) (i : FmtI)
  | lit (c : Fin 64) (i : FmtI)
  | lb (c : Fin 64) (i : FmtI)
  | lbu (c : Fin 64) (i : FmtI)
  | lh (c : Fin 64) (i : FmtI)
  | lhu (c : Fin 64) (i : FmtI)
  | lw (c : Fin 64) (i : FmtI)
  | lwu (c : Fin 64) (i : FmtI)
  | ld (c : Fin 64) (i : FmtI)
  | sb (c : Fin 64) (i : FmtI)
  | sh (c : Fin 64) (i : FmtI)
  | sw (c : Fin 64) (i : FmtI)
  | sd (c : Fin 64) (i : FmtI)
  | loadDataReturn (c : Fin 64) (n : Nat)
  | ctlResultReady (c : Fin 64) (g : BitVec 5)
  | beq (c : Fin 64) (i : FmtB)
  | bne (c : Fin 64) (i : FmtB)
  | blt (c : Fin 64) (i : FmtB)
  | bge (c : Fin 64) (i : FmtB)
  | bltu (c : Fin 64) (i : FmtB)
  | bgeu (c : Fin 64) (i : FmtB)
  | jal (c : Fin 64) (i : FmtJ)
  | jalr (c : Fin 64) (i : FmtI)
  | ctlLoop (c : Fin 64) (i : FmtI)
  | pusha (c : Fin 64) (i : FmtQ)
  | pushp (c : Fin 64) (i : FmtQ)
  | tadd (c : Fin 64) (i : FmtT)
  | twait (c : Fin 64) (i : FmtT)
  | ttake (c : Fin 64) (i : FmtT)
  | trd (c : Fin 64) (i : FmtT)
  | pwait (c : Fin 64) (i : FmtP)
  | waitg (c : Fin 64) (i : FmtA)
  | rds (c : Fin 64) (i : FmtI)
  | ctlHalt (c : Fin 64) (rest : BitVec 26)
  | storeRetire (c : Fin 64) (n : Nat)
  | mma (c : Fin 64) (e : Fin 2) (w : EngW)
  | mmaPairBegin (c : Fin 64) (e : Fin 2)
  | mmaLastRead (c : Fin 64) (e : Fin 2)
  | swap (c : Fin 64) (e : Fin 2) (w : EngW)
  | drp (c : Fin 64) (e : Fin 2) (w : EngW)
  | bankPhaseStart (c : Fin 64) (e : Fin 2)
  | drpComplete (c : Fin 64) (e : Fin 2)
  | stg (c : Fin 64) (e : Fin 2) (w : EngW)
  | stgComplete (c : Fin 64) (e : Fin 2)
  | srs (c : Fin 64) (e : Fin 2) (w : EngW)
  | tmv (c : Fin 64) (w : EngW)
  | tmvTileBegin (c : Fin 64)
  | tldx (c : Fin 64) (w : EngW)
  | tsty (c : Fin 64) (w : EngW)
  | tzy (c : Fin 64) (w : EngW)
  | vld (c : Fin 64) (w : EngW)
  | vst (c : Fin 64) (w : EngW)
  | varith (c : Fin 64) (w : EngW)
  | vcmp (c : Fin 64) (w : EngW)
  | vsel (c : Fin 64) (w : EngW)
  | vred (c : Fin 64) (w : EngW)
  | vperm (c : Fin 64) (w : EngW)
  | vcvt (c : Fin 64) (w : EngW)
  | vsfu (c : Fin 64) (w : EngW)
  | vmovi (c : Fin 64) (w : EngW)
  | vbcq (c : Fin 64) (w : EngW)
  | vseed (c : Fin 64) (w : EngW)
  | vecResultReady (c : Fin 64) (v : BitVec 6)
  | strmWindowOpen (c : Fin 64) (w : EngW)
  | strm (c : Fin 64) (w : EngW)
  | streamRequestStart (c : Fin 64) (slot : Fin 16)
  | listPieceRead (c : Fin 64) (slot : Fin 16)
  | transferArrive (c : Fin 64) (n : Nat)
  | tileCommit (c : Fin 64) (slot : Fin 16)
  | transferRetire (c : Fin 64) (n : Nat)
  | streamComplete (c : Fin 64) (slot : Fin 16)
  | suspensionResume (who : Suspended)
  | suspensionAbort (who : Suspended) (cause : Fin 5) (pkg : BitVec 13)
  | strSplitWrite (c : Fin 64) (path : Path) (v : BitVec 32)
  | pegFill (peg : BitVec 16)
  | pegWatch (c : Fin 64) (e : Fin 6) (second : Bool)
  | pegReport (c : Fin 64) (e : Fin 6)
  | pegTakeRequest (c : Fin 64) (e : Fin 6)
  | pegGrant (c : Fin 64) (e : Fin 6)
  | pegReturn (peg : BitVec 16)
  | pegArmApply (c : Fin 64)
  | pegRead (c : Fin 64)
  | pegInit (k : Fin 16) (path : Path) (v : BitVec 32)
  | pegAbandon (k : Fin 16) (path : Path) (v : BitVec 32)
  | lanternFire (c : Fin 64)
  | run (c : Fin 64) (path : Path) (engines : BitVec 6)
  | stop (c : Fin 64) (path : Path) (engines : BitVec 6)
  | tallyClear (c : Fin 64) (path : Path)
  | queueClear (c : Fin 64) (path : Path)
  | coreFreqChange (c : Fin 64) (path : Path) (v : BitVec 32)
  | coreFreqRelockDone (c : Fin 64)
  | registerWrite (path : Path) (off : BitVec 24) (size : Nat) (v : BitVec 64)
  | translationWalk (r : Requester)
  | tierAccess (r : Requester)
  | memInval (path : Path) (v : BitVec 64)
  | memInvalDone
  | pageMove (space : Fin 16) (va : BitVec 47) (cellar : Fin 4) (tier : Fin 2) (frame : BitVec 24)
  | memRetrain (cellar : Fin 4) (path : Path) (v : BitVec 32)
  | retrainDone (cellar : Fin 4) (result : Fin 3) (heldUs : BitVec 16)
  | attZero (k : Fin 16) (path : Path) (v : BitVec 32)
  | attZeroDone (k : Fin 16)
  | updateCommand (cellar : Fin 4) (bytes : List (BitVec 8))
  | passStart (cellar : Fin 4)
  | cveRun (cellar : Fin 4) (e : Fin 16)
  | passComplete (cellar : Fin 4)
  | ruleSlotEnable (cellar : Fin 4) (slot : Fin 16) (path : Path) (v : BitVec 64)
  | cveAdd (cellar : Fin 4) (e : Fin 16) (i : CveI)
  | cveSub (cellar : Fin 4) (e : Fin 16) (i : CveI)
  | cveMul (cellar : Fin 4) (e : Fin 16) (i : CveI)
  | cveFma (cellar : Fin 4) (e : Fin 16) (i : CveI)
  | cveFnma (cellar : Fin 4) (e : Fin 16) (i : CveI)
  | cveMin (cellar : Fin 4) (e : Fin 16) (i : CveI)
  | cveMax (cellar : Fin 4) (e : Fin 16) (i : CveI)
  | cveAbs (cellar : Fin 4) (e : Fin 16) (i : CveI)
  | cveNeg (cellar : Fin 4) (e : Fin 16) (i : CveI)
  | cveSgn (cellar : Fin 4) (e : Fin 16) (i : CveI)
  | cveSqrt (cellar : Fin 4) (e : Fin 16) (i : CveI)
  | cveRsqrt (cellar : Fin 4) (e : Fin 16) (i : CveI)
  | cveRcp (cellar : Fin 4) (e : Fin 16) (i : CveI)
  | cveCmp (cellar : Fin 4) (e : Fin 16) (i : CveI)
  | cveSel (cellar : Fin 4) (e : Fin 16) (i : CveI)
  | cveSum (cellar : Fin 4) (e : Fin 16) (i : CveI)
  | cveBcast (cellar : Fin 4) (e : Fin 16) (i : CveI)
  | cveLds (cellar : Fin 4) (e : Fin 16) (i : CveI)
  | cveSts (cellar : Fin 4) (e : Fin 16) (i : CveI)
  | cveMov (cellar : Fin 4) (e : Fin 16) (i : CveI)
  | cveEnd (cellar : Fin 4) (e : Fin 16) (i : CveI)
  | frameReceive (g : Fin 8) (corrected uncorrectable : Nat) (bytes : List (BitVec 8))
  | replayTimeout (g : Fin 8)
  | packetForward (g : Fin 8)
  | write (n : Nat)
  | add (n : Nat)
  | read (n : Nat)
  | readData (n : Nat)
  | ack (n : Nat)
  | nak (n : Nat)
  | ctrl (n : Nat)
  | linkstate (n : Nat) (pkg : BitVec 13) (g : Fin 8) (down : Bool) (seq : Nat)
  | e2eTimeout (n : Nat)
  | backoffExpire (n : Nat)
  | e2eLimit (n : Nat)
  | portLossOfLock (g : Fin 8) (good : BitVec 4)
  | portNarrowDone (g : Fin 8) (width : Fin 4)
  | portNarrowTimeout (g : Fin 8)
  | portUpHoldExpire (g : Fin 8)
  | portAutoRetry (g : Fin 8)
  | portRetrain (g : Fin 8) (path : Option Path) (v : BitVec 32)
  | portRetrainDone (g : Fin 8) (lanes : BitVec 4) (width : Fin 4) (reversed : Bool) (peer : BitVec 13) (peerG : Fin 8) (shape : BitVec 16)
  | syncSend (g : Fin 8)
  | sync (n : Nat)
  | timHoldover
  | timMasterLost
  | sendUnitStart (ch : Fin 64)
  | sendRound (ch : Fin 64)
  | contrib (n : Nat)
  | redDeadline (ch : Fin 64)
  | redGrace (ch : Fin 64)
  | repeatNotice (n : Nat)
  | normContribution (ch : Fin 64)
  | scalar (n : Nat)
  | scalarResult (n : Nat)
  | distSendStart (n : Nat)
  | dist (n : Nat)
  | distDone (n : Nat)
  | channelAbort (ch : Fin 64) (path : Path)
  | channelStepSeq (ch : Fin 64) (path : Path) (v : BitVec 64)
  | jobPoll (prod0 : BitVec 64) (entries0 : List (List (BitVec 8))) (prod3 : BitVec 64) (entries3 : List (List (BitVec 8))) (cons1 cons2 : BitVec 64)
  | ringEnable (r : Fin 4) (path : Path) (v : BitVec 32)
  | load (d : LoadData)
  | start
  | pause
  | resume
  | teardown
  | teardownFinish (space : Fin 16)
  | export_
  | request (space : Fin 16) (input : List (BitVec 8))
  | stepOpen
  | reqPass
  | stepClose (space : Fin 16)
  | jobStepLate (space : Fin 16)
  | jobRootLost (space : Fin 16)
  | requestExpire (space : Fin 16) (slot : Nat)
  | mailboxArrival (space : Fin 16)
  | bubbleAt (space : Fin 16)
  | reqOut (space : Fin 16)
  | place (space : Fin 16) (frames : List (Fin 4 × BitVec 24))
  | mailboxNote (space : Fin 16)
  | powerAndClocks (path : Path) (rail : Option (BitVec 32)) (pll : Option (Fin 7 × BitVec 32))
  | fuseRead (path : Path) (bad : Option (BitVec 32)) (d : Defects)
  | selfTest (path : Path) (d : Defects) (tests : List (BitVec 31))
  | yieldMap (path : Path)
  | spares (path : Path)
  | islandClocks (path : Path) (bad : Option (Fin 7 × BitVec 32 × BitVec 32))
  | dieToDieLinks (path : Path) (narrow : List (Fin 7 × BitVec 32)) (bad : Option (Fin 7 × BitVec 32))
  | tier1 (path : Path) (bad : Option (Fin 4 × Fin 16 × Fin 5))
  | tier2 (path : Path) (spd : List (List Spd)) (bad : Option (Fin 4 × Fin 4 × Fin 5))
  | fabric (path : Path)
  | timeBase (path : Path)
  | identityAndMeasurement (path : Path) (ok : Bool)
  | firmwareLoad (path : Path)
  | coreFirmware (path : Path) (noAck : Option (Fin 7 × BitVec 8))
  | ready (path : Path)
  | buStepEnd
  | buStepLimit
  | spareRepoint (path : Path) (v : BitVec 32)
  | firmwareChunk (src : ChunkFrom)
  | firmwarePull (n : Nat) (image : Fin 4) (first count : BitVec 16)
  | faultRecordMove (die : Fin 7)
  | recoveryStart
  | fltReset (path : Path) (v : BitVec 32)
  | resetComplete
  | rewindDone (space : Fin 16)
  | fltHeartbeat (path : Path)
  | supFault (core : Bool)
  | fltBufAck (path : Path) (count : BitVec 11)
  | chkCompute (path : Path) (poly : Fin 4)
  | chkCompare (path : Path) (poly : Fin 4)
  | chkDone
  | d2dLink (near far : Fin 7) (module : BitVec 32) (lost : Bool)
  | quote (path : Path) (space : Fin 16) (job : Bool)
  | quoteDone
  | secNonceWrite (path : Path) (j : Fin 6) (v : BitVec 64)
  | secSvnRaise (path : Path) (image : Fin 4) (svn : BitVec 6)
  | dbgHalt (path : Path) (engines : BitVec 6)
  | dbgResume (path : Path) (engines : BitVec 6)
  | dbgStep (path : Path) (engines : BitVec 6)
  | dbgClrfault (path : Path) (engines : BitVec 6)
  | dbgCatchWrite (path : Path) (v : BitVec 64)
  | dbgRegRead (path : Path)
  | dbgRegWrite (path : Path) (v : BitVec 64)
  | dbgPegRead (path : Path)
  | dbgPegWrite (path : Path) (v : BitVec 64)
  | dbgMemRead (path : Path)
  | dbgMemWrite (path : Path) (v : BitVec 64)
  | dbgTraceClear (path : Path)
  | dbgTraceMark (path : Path) (v : BitVec 64)
  | bypass
  | idcode
  | samplePreload (sampled preload : List (BitVec 8))
  | extest (chain : List (BitVec 8))
  | clamp
  | highz
  | dbgacc (dr : BitVec 96)
  | smbIdentity
  | smbState
  | smbTemperatures (dies : BitVec 112)
  | smbPowers (powers : BitVec 128)
  | smbLatestFault
  | pwrOkRise (straps : BitVec 2)
  | pwrOkFall
  | resetNFall (heldNs : Nat)
  | resetNRise
  | thermalTrip
  | refclkLost (clock : Fin 3)
  | railExcursion (rail : Fin 13) (mv : BitVec 32) (us : Nat)
  | powerCapEval (energy : BitVec 256) (dies : BitVec 112)
  | stewardLinkReset
  | pegInitDone (k : Fin 16)
  | pegSweepDone (k : Fin 16)
  | dieInternalFault (die : Fin 7) (d0 d1 : BitVec 32)
  | refclkReturn (b : Bool)
  | busMasterEnable
  | testLogicReset
deriving DecidableEq, Repr

end Sys2Proof
end

