-- ==== Sys2Proof/Decode.lean ====
section
/-! DEFINITION. The commands that words spell: the opcode table gives none of its rows bits, so no word spells a command. -/
namespace Sys2Proof

/-- The command that a word of the table's bits spells. -/
def decodeTableWord (_nbits _w : Nat) : Option Instr := none

end Sys2Proof
end

