-- ==== Sys2Proof/Machine/Float.lean ====
section
/-! DEFINITION. Number formats and exact arithmetic (R135 to R163): decoding, rounding to nearest even and stochastically,
narrowing, the accumulation step, the three-pass split, and computed block and tile scales. -/
namespace Sys2Proof.Machine

/-- A value of R13's exact arithmetic: NaN, a signed infinity, or a signed dyadic ±m·2^e (m = 0 is a signed zero). -/
inductive Num where
  | nan
  | inf (neg : Bool)
  | fin (neg : Bool) (m : Nat) (e : Int)
deriving DecidableEq, Repr

/-- How the all-ones exponent of a format is read (R135). -/
inductive FKind where
  | ieee   -- infinity and NaN
  | e4m3   -- only the all-ones code is NaN
  | mx     -- no infinity and no NaN
deriving DecidableEq, Repr

/-- A floating-point element format (R135). -/
structure FFmt where
  ebits : Nat
  mbits : Nat
  bias : Nat
  kind : FKind
deriving DecidableEq, Repr

def fp32 : FFmt := ⟨8, 23, 127, .ieee⟩
def fp16 : FFmt := ⟨5, 10, 15, .ieee⟩
def bf16 : FFmt := ⟨8, 7, 127, .ieee⟩
def e4m3 : FFmt := ⟨4, 3, 7, .e4m3⟩
def e5m2 : FFmt := ⟨5, 2, 15, .ieee⟩
def e2m3 : FFmt := ⟨2, 3, 1, .mx⟩
def e3m2 : FFmt := ⟨3, 2, 3, .mx⟩
def e2m1 : FFmt := ⟨2, 1, 1, .mx⟩

/-- Width of the encoding in bits. -/
def FFmt.width (f : FFmt) : Nat := 1 + f.ebits + f.mbits

/-- Exponent of the smallest subnormal's unit. -/
def FFmt.qmin (f : FFmt) : Int := 1 - (f.bias : Int) - (f.mbits : Int)

/-- Magnitude code of the largest finite value. -/
def FFmt.maxCode (f : FFmt) : Nat :=
  match f.kind with
  | .ieee => (2 ^ f.ebits - 1) * 2 ^ f.mbits - 1
  | .e4m3 => 2 ^ (f.ebits + f.mbits) - 2
  | .mx => 2 ^ (f.ebits + f.mbits) - 1

/-- Canonical NaN (R144). -/
def FFmt.nanCode (f : FFmt) : Nat :=
  match f.kind with
  | .ieee => (2 ^ f.ebits - 1) * 2 ^ f.mbits + 2 ^ (f.mbits - 1)
  | _ => 2 ^ (f.ebits + f.mbits) - 1

/-- The encoding with its sign bit. -/
def FFmt.signed (f : FFmt) (neg : Bool) (mag : Nat) : Nat := boolNat neg * 2 ^ (f.ebits + f.mbits) + mag

/-- Exact decoding of an element (R135, R136). -/
def FFmt.decode (f : FFmt) (code : Nat) : Num :=
  let mag := code % 2 ^ (f.ebits + f.mbits)
  let neg := code.testBit (f.ebits + f.mbits)
  let ef := mag / 2 ^ f.mbits
  let mf := mag % 2 ^ f.mbits
  let isMax := ef == 2 ^ f.ebits - 1
  if f.kind == .ieee && isMax then (if mf == 0 then .inf neg else .nan)
  else if f.kind == .e4m3 && mag == 2 ^ (f.ebits + f.mbits) - 1 then .nan
  else if ef == 0 then .fin neg mf f.qmin
  else .fin neg (2 ^ f.mbits + mf) (f.qmin + (ef : Int) - 1)

/-- A rounding: to nearest even (R148), or stochastic with the 16-bit draw u (R149, R150). -/
inductive Rnd where
  | rne
  | sr (u : Nat)
deriving DecidableEq, Repr

/-- The integer that m / 2^sh rounds to. -/
def roundShift (r : Rnd) (m sh : Nat) : Nat :=
  let lo := m >>> sh
  let rem := m % 2 ^ sh
  match r with
  | .rne => if 2 ^ sh < 2 * rem || (2 * rem == 2 ^ sh && lo % 2 == 1) then lo + 1 else lo
  | .sr u => if rem != 0 && 2 ^ 16 ≤ rem * 2 ^ 16 / 2 ^ sh + u then lo + 1 else lo

/-- The multiple of 2^q that m·2^e rounds to, as an integer count of 2^q. -/
def roundAt (r : Rnd) (m : Nat) (e q : Int) : Nat :=
  if q ≤ e then m <<< (e - q).toNat else roundShift r m (q - e).toNat

/-- The magnitude code that ±m·2^e rounds to with an unbounded exponent range (R148, R149): codes above
maxCode mean overflow. -/
def FFmt.roundMag (f : FFmt) (r : Rnd) (m : Nat) (e : Int) : Nat :=
  if m = 0 then 0
  else
    let q := max ((Nat.log2 m : Int) + e - (f.mbits : Int)) f.qmin
    (q - f.qmin).toNat * 2 ^ f.mbits + roundAt r m e q

/-- Narrowing without a computed scale (R152): the encoding, and whether SAT is set. -/
def FFmt.narrow (f : FFmt) (r : Rnd) : Num → Nat × Bool
  | .nan => (f.nanCode, false)
  | .inf s =>
    match f.kind with
    | .ieee => (f.signed s ((2 ^ f.ebits - 1) * 2 ^ f.mbits), false)
    | .e4m3 => (f.nanCode, true)
    | .mx => (f.signed s f.maxCode, true)
  | .fin s m e =>
    let c := f.roundMag r m e
    if c ≤ f.maxCode then (f.signed s c, false)
    else match f.kind with
      | .ieee => (f.signed s ((2 ^ f.ebits - 1) * 2 ^ f.mbits), true)
      | _ => (f.signed s f.maxCode, true)

/-- rne(x, fp32). -/
def Num.to32 (x : Num) : W32 := BitVec.ofNat 32 (fp32.narrow .rne x).1

/-- The value of an FP32 encoding. -/
def num32 (w : W32) : Num := fp32.decode w.toNat

def nan32 : W32 := 0x7FC00000#32

def Num.isNan : Num → Bool
  | .nan => true
  | _ => false

def Num.isInf : Num → Bool
  | .inf _ => true
  | _ => false

def Num.isZero : Num → Bool
  | .fin _ 0 _ => true
  | _ => false

def Num.sign : Num → Bool
  | .nan => false
  | .inf s => s
  | .fin s _ _ => s

def Num.neg : Num → Num
  | .nan => .nan
  | .inf s => .inf (!s)
  | .fin s m e => .fin (!s) m e

def Num.abs : Num → Num
  | .nan => .nan
  | .inf _ => .inf false
  | .fin _ m e => .fin false m e

/-- The exact product of two values under R141's special cases. -/
def Num.mul (a b : Num) : Num :=
  match a, b with
  | .nan, _ => .nan
  | _, .nan => .nan
  | .inf s, .inf t => .inf (s != t)
  | .inf s, .fin t m _ => if m = 0 then .nan else .inf (s != t)
  | .fin t m _, .inf s => if m = 0 then .nan else .inf (s != t)
  | .fin s m e, .fin t n f => .fin (s != t) (m * n) (e + f)

/-- prod of R141: four factors, NaN first, then infinity times zero, then infinity. -/
def prod4 (a xa b xb : Num) : Num :=
  let fs := [a, xa, b, xb]
  if fs.any Num.isNan then .nan
  else if fs.any Num.isInf then
    if fs.any Num.isZero then .nan
    else .inf (fs.foldl (fun s x => s != x.sign) false)
  else ((a.mul xa).mul b).mul xb

/-- A finite value as a signed mantissa and an exponent. -/
def Num.dyad : Num → Int × Int
  | .fin s m e => (if s then -(m : Int) else (m : Int), e)
  | _ => (0, 0)

/-- Exact sum of two dyadics. -/
def dyadAdd (a b : Int × Int) : Int × Int :=
  let e := min a.2 b.2
  (a.1 * 2 ^ (a.2 - e).toNat + b.1 * 2 ^ (b.2 - e).toNat, e)

/-- A dyadic as a value; zero takes the given sign. -/
def dyadNum (zneg : Bool) (d : Int × Int) : Num :=
  if d.1 = 0 then .fin zneg 0 0 else .fin (decide (d.1 < 0)) d.1.natAbs d.2

/-- The exact sum of the terms of an accumulation under the special-value and zero-sign rules of R140. -/
def sumTerms (ts : List Num) : Num :=
  if ts.any Num.isNan then .nan
  else if ts.any (fun t => t == .inf false) && ts.any (fun t => t == .inf true) then .nan
  else if ts.any (fun t => t == .inf false) then .inf false
  else if ts.any (fun t => t == .inf true) then .inf true
  else dyadNum (ts.all (fun t => t.isZero && t.sign)) (ts.foldl (fun a t => dyadAdd a t.dyad) (0, 0))

/-- One step of a cell: R140's step_fp with its products given. -/
def stepFp (acc : W32) (prods : List Num) : W32 := (sumTerms (num32 acc :: prods)).to32

/-- The FP32 sum of R143 (add-into drain, atomic add). -/
def add32 (a b : W32) : W32 := (sumTerms [num32 a, num32 b]).to32

/-- Canonical result of an exact value: NaN canonical, one rounding. -/
def mul32 (a b : W32) : W32 := ((num32 a).mul (num32 b)).to32

/-- a·b + c with one rounding. -/
def fma32 (a b c : W32) : W32 := (sumTerms [(num32 a).mul (num32 b), num32 c]).to32

/-- The E8M0 scale's value (R137). -/
def e8m0 (code : Nat) : Num := if code % 256 = 255 then .nan else .fin false 1 ((code % 256 : Nat) - 127 : Int)

/-- One INT8 step (R142): the new accumulator and whether it wrapped. -/
def stepInt (acc : W32) (ps : List (Int × Int)) : W32 × Bool :=
  let s := ps.foldl (fun a p => a + p.1 * p.2) acc.toInt
  (BitVec.ofInt 32 s, decide (s < -2147483648 ∨ 2147483647 < s))

/-- The BF16 split of an FP32 element (R145): high part, low part. -/
def split32 (x : W32) : Num × Num :=
  let hi := bf16.decode (x.toNat / 2 ^ 16)
  match num32 x with
  | .nan => (.nan, .fin false 0 0)
  | .inf s => (.inf s, .fin false 0 0)
  | v =>
    let d := dyadAdd v.dyad hi.neg.dyad
    if d.1 = 0 then (hi, .fin false 0 0)
    else (hi, bf16.decode (bf16.narrow .rne (dyadNum false d)).1)

/-- Advance a rounding generator (R150): the new state and the 16-bit draw. -/
def draw (st : W64) : W64 × Nat :=
  let s0 : W64 := if st = 0 then 0x9e3779b97f4a7c15#64 else st
  let s1 := s0 ^^^ (s0 <<< 13)
  let s2 := s1 ^^^ (s1 >>> 7)
  let s3 := s2 ^^^ (s2 <<< 17)
  (s3, s3.toNat >>> 48)

/-- Draws for a list of places, in order: each place's u, and the state after the last. -/
def drawList (st : W64) : Nat → W64 × List Nat
  | 0 => (st, [])
  | n + 1 =>
    let d := draw st
    let r := drawList d.1 n
    (r.1, d.2 :: r.2)

/-- emax of R154 for the element formats of codes 2 to 9. -/
def FFmt.emax (f : FFmt) : Int :=
  match f.kind with
  | .ieee => (2 ^ f.ebits - 2 : Nat) - (f.bias : Int)
  | _ => (2 ^ f.ebits - 1 : Nat) - (f.bias : Int)

/-- floor(log2 |x|) of a non-zero finite value. -/
def Num.log2 : Num → Int
  | .fin _ m e => (Nat.log2 m : Int) + e
  | _ => 0

/-- Magnitude comparison of finite values: |a| < |b|. -/
def Num.magLt (a b : Num) : Bool :=
  let d := dyadAdd b.abs.dyad a.abs.neg.dyad
  decide (0 < d.1)

/-- The value of largest magnitude. -/
def amaxOf (vs : List Num) : Num := vs.foldl (fun a v => if a.magLt v then v.abs else a) (.fin false 0 0)

/-- An element stored under a computed scale: rounded and clamped to the largest finite value (R155, R157). -/
def FFmt.elemOut (f : FFmt) (r : Rnd) (v : Num) (e : Int) : Nat :=
  match v with
  | .fin s m x =>
    let c := f.roundMag r m (x - e)
    f.signed s (if c ≤ f.maxCode then c else f.maxCode)
  | _ => 0

/-- An MXINT8 element under a scale: multiples of 2⁻⁶ clamped to ±127 (R148, R158). -/
def mxint8Out (r : Rnd) (v : Num) (e : Int) : Nat :=
  match v with
  | .fin s m x =>
    let n := min (roundAt r m (x - e) (-6)) 127
    if s && n != 0 then 256 - n else n
  | _ => 0

/-- The scale exponent of a group of live values for an element format's emax (R155): none when a live value is
NaN or infinite. -/
def scaleExp (live : List Num) (emax lo hi : Int) : Option Int :=
  if live.any (fun v => v.isNan || v.isInf) then none
  else
    let a := amaxOf live
    if a.isZero then some 0 else some (min (max (a.log2 - emax) lo) hi)

/-- Value of an MXINT8 element (R136). -/
def mxint8Num (code : Nat) : Num :=
  let n := signedOf code 8
  .fin (decide (n < 0)) n.natAbs (-6)

/-- The element formats by code (R98, R119): none for codes with no float format. -/
def fmtOf : Nat → Option FFmt
  | 0 => some bf16
  | 1 => some fp16
  | 2 => some e4m3
  | 3 => some e5m2
  | 4 => some e4m3
  | 5 => some e5m2
  | 6 => some e2m3
  | 7 => some e3m2
  | 8 => some e2m1
  | 10 => some fp32
  | _ => none

/-- Decode an element of format code fmt: codes 9 in drain-out order are MXINT8. -/
def elemNum (fmt code : Nat) : Num :=
  match fmtOf fmt with
  | some f => f.decode code
  | none => mxint8Num code

/-- Bits per element of a format code. -/
def elemBits : Nat → Nat
  | 0 => 16
  | 1 => 16
  | 6 => 6
  | 7 => 6
  | 8 => 4
  | 10 => 32
  | _ => 8

/-- A format code with block scales. -/
def isBlock (fmt : Nat) : Bool := decide (4 ≤ fmt ∧ fmt ≤ 9)

/-- Widening an element to FP32 under R139: no scale, a block scale, or a tile scale. An FP32 element with no scale
keeps its bits (R144). -/
def widen (fmt code : Nat) (scale : Option Num) : W32 :=
  match scale with
  | none => if fmt = 10 then BitVec.ofNat 32 code else (elemNum fmt code).to32
  | some x => ((elemNum fmt code).mul x).to32

/-- The flags a value raises when it is moved (R152): NaN, infinite. -/
def isNan32 (w : W32) : Bool := (num32 w).isNan
def isInf32 (w : W32) : Bool := (num32 w).isInf

end Sys2Proof.Machine
end

