-- ==== Sys2Proof/Machine/RegMap.lean ====
section
/-! DEFINITION. The register map of the setup space (R35): one row for every register or register array that the spec's
register tables give, with its BAR0 offset, width, array strides and counts, and for every field its place, type (R11),
reset value and reserved values. A bit in no field is reserved: it reads as zero and is not written (R9). -/
namespace Sys2Proof.Machine

/-- The register type codes of R11. -/
inductive RegTy where
  | rw | ro | wo | w1c | w1s | rwl
deriving DecidableEq, Repr

/-- A field: lowest bit, width, type, reset value, and the inclusive ranges of reserved values. -/
structure RegField where
  lo : Nat
  len : Nat
  ty : RegTy
  reset : Nat
  rsv : List (Nat × Nat)
deriving DecidableEq, Repr

/-- A register or an array of registers: BAR0 offset of the first, width in bits, (stride, count) of each index. -/
structure RegDesc where
  name : String
  base : Nat
  width : Nat
  dims : List (Nat × Nat)
  fields : List RegField
deriving DecidableEq, Repr

/-- Registers: of 01_hierarchy_and_addresses.md. -/
def regMap01 : List RegDesc := [
  ⟨"BU_SPARE_CORE", 0x10044, 32, [],
    [⟨0, 5, .rwl, 31, [(16, 30)]⟩, ⟨8, 5, .rwl, 31, [(16, 30)]⟩, ⟨16, 5, .rwl, 31, [(16, 30)]⟩, ⟨24, 5, .rwl, 31, [(16, 30)]⟩]⟩,
  ⟨"BU_PKG_ID", 0x10040, 32, [],
    [⟨0, 13, .rwl, 0, []⟩, ⟨16, 4, .rwl, 0, []⟩, ⟨20, 4, .rwl, 0, []⟩, ⟨24, 4, .rwl, 0, []⟩, ⟨28, 4, .rwl, 0, []⟩]⟩,
  ⟨"ISL_CORE_FREQ", 0x20100, 32, [(0x4, 64)],
    [⟨0, 4, .rwl, 10, [(13, 15)]⟩, ⟨16, 4, .ro, 10, []⟩, ⟨31, 1, .ro, 0, []⟩]⟩]

/-- Registers: of 02_core_and_instruction_streams.md. -/
def regMap02 : List RegDesc := [
  ⟨"CORE_CODE", 0x400004, 32, [(0x10000, 64)],
    [⟨0, 8, .rw, 0, [(193, 255)]⟩, ⟨16, 8, .rw, 0, [(193, 255)]⟩]⟩,
  ⟨"CORE_CTRL", 0x400000, 32, [(0x10000, 64)],
    [⟨0, 6, .w1s, 0, []⟩, ⟨8, 6, .wo, 0, []⟩, ⟨16, 1, .wo, 0, []⟩, ⟨17, 1, .wo, 0, []⟩]⟩,
  ⟨"CORE_ENG_START", 0x400010, 32, [(0x10000, 64), (0x4, 6)],
    [⟨0, 20, .rw, 0, []⟩]⟩,
  ⟨"CORE_ENG_STATE", 0x400040, 64, [(0x10000, 64), (0x8, 6)],
    [⟨0, 20, .ro, 0, []⟩, ⟨24, 3, .ro, 0, []⟩, ⟨27, 3, .ro, 0, []⟩, ⟨32, 12, .ro, 0, []⟩]⟩,
  ⟨"CORE_AQ_LEVEL", 0x400080, 64, [(0x10000, 64)],
    [⟨0, 7, .ro, 0, []⟩, ⟨8, 7, .ro, 0, []⟩, ⟨16, 7, .ro, 0, []⟩, ⟨24, 7, .ro, 0, []⟩, ⟨32, 7, .ro, 0, []⟩]⟩,
  ⟨"CORE_PQ_LEVEL", 0x400088, 64, [(0x10000, 64)],
    [⟨0, 5, .ro, 0, []⟩, ⟨8, 5, .ro, 0, []⟩, ⟨16, 5, .ro, 0, []⟩, ⟨24, 5, .ro, 0, []⟩, ⟨32, 5, .ro, 0, []⟩]⟩,
  ⟨"CORE_CYCLES", 0x400090, 64, [(0x10000, 64)],
    [⟨0, 64, .ro, 0, []⟩]⟩]

/-- Registers: of 03_outer_product_engines.md. -/
def regMap03 : List RegDesc := [
  ⟨"OPE_REMAP", 0x402000, 32, [(0x10000, 64), (0x2000, 2)],
    [⟨0, 6, .rwl, 32, [(33, 63)]⟩, ⟨6, 1, .rwl, 0, []⟩, ⟨8, 6, .rwl, 32, [(33, 63)]⟩, ⟨14, 1, .rwl, 0, []⟩]⟩,
  ⟨"OPE_STATUS", 0x402008, 64, [(0x10000, 64), (0x2000, 2)],
    [⟨0, 1, .ro, 0, []⟩, ⟨1, 2, .ro, 0, []⟩, ⟨3, 2, .ro, 0, []⟩, ⟨5, 1, .ro, 0, []⟩, ⟨6, 2, .ro, 0, []⟩, ⟨8, 2, .ro, 0, []⟩, ⟨32, 32, .ro, 0, []⟩]⟩,
  ⟨"OPE_FLAGS", 0x402010, 32, [(0x10000, 64), (0x2000, 2)],
    [⟨0, 1, .w1c, 0, []⟩, ⟨1, 1, .w1c, 0, []⟩, ⟨2, 1, .w1c, 0, []⟩, ⟨3, 1, .w1c, 0, []⟩]⟩,
  ⟨"OPE_FED", 0x402018, 64, [(0x10000, 64), (0x2000, 2)],
    [⟨0, 64, .ro, 0, []⟩]⟩,
  ⟨"OPE_SR_SEED", 0x402020, 64, [(0x10000, 64), (0x2000, 2)],
    [⟨0, 64, .rw, 0, []⟩]⟩]

/-- Registers: of 05_thin_path_and_vector_engine.md. -/
def regMap05 : List RegDesc := [
  ⟨"TPE_STATUS", 0x406000, 32, [(0x10000, 64)],
    [⟨0, 1, .ro, 0, []⟩, ⟨1, 1, .ro, 0, []⟩]⟩,
  ⟨"TPE_FLAGS", 0x406008, 32, [(0x10000, 64)],
    [⟨0, 1, .w1c, 0, []⟩, ⟨1, 1, .w1c, 0, []⟩, ⟨2, 1, .w1c, 0, []⟩]⟩,
  ⟨"TPE_FED", 0x406010, 64, [(0x10000, 64)],
    [⟨0, 64, .ro, 0, []⟩]⟩,
  ⟨"VEC_PENDING", 0x408000, 64, [(0x10000, 64)],
    [⟨0, 64, .ro, 0, []⟩]⟩,
  ⟨"VEC_FLAGS", 0x408008, 32, [(0x10000, 64)],
    [⟨0, 1, .w1c, 0, []⟩, ⟨1, 1, .w1c, 0, []⟩, ⟨2, 1, .w1c, 0, []⟩]⟩,
  ⟨"VEC_SR_SEED", 0x408010, 64, [(0x10000, 64)],
    [⟨0, 64, .rw, 0, []⟩]⟩]

/-- Registers: of 07_stream_engine.md. -/
def regMap07 : List RegDesc := [
  ⟨"STR_SPLIT", 0x40A000, 32, [(0x10000, 64)],
    [⟨0, 4, .rw, 8, []⟩, ⟨4, 4, .rw, 4, []⟩, ⟨8, 4, .rw, 4, []⟩]⟩,
  ⟨"STR_STATUS", 0x40A008, 64, [(0x10000, 64)],
    [⟨0, 16, .ro, 0, []⟩, ⟨16, 16, .ro, 0, []⟩, ⟨32, 10, .ro, 0, []⟩, ⟨48, 16, .ro, 0, []⟩]⟩,
  ⟨"STR_FLAGS", 0x40A010, 32, [(0x10000, 64)],
    [⟨0, 1, .w1c, 0, []⟩]⟩,
  ⟨"STR_MOVED", 0x40A018, 64, [(0x10000, 64)],
    [⟨0, 64, .ro, 0, []⟩]⟩,
  ⟨"STR_SLOT_A", 0x40A100, 64, [(0x10000, 64), (0x10, 16)],
    [⟨0, 32, .ro, 0, []⟩, ⟨32, 32, .ro, 0, []⟩]⟩,
  ⟨"STR_SLOT_B", 0x40A108, 64, [(0x10000, 64), (0x10, 16)],
    [⟨0, 20, .ro, 0, []⟩, ⟨20, 3, .ro, 0, []⟩, ⟨24, 4, .ro, 0, []⟩, ⟨28, 4, .ro, 0, []⟩, ⟨32, 32, .ro, 0, []⟩]⟩]

/-- Registers: of 08_tallies_and_pegs.md. -/
def regMap08 : List RegDesc := [
  ⟨"PEG_INIT_CTRL", 0x100000, 32, [(0x10000, 16)],
    [⟨0, 12, .rw, 0, []⟩, ⟨12, 13, .rw, 0, []⟩, ⟨31, 1, .w1s, 0, []⟩]⟩,
  ⟨"PEG_INIT_WORD", 0x100008, 64, [(0x10000, 16)],
    [⟨0, 64, .rw, 0, []⟩]⟩,
  ⟨"PEG_ABANDON", 0x100010, 32, [(0x10000, 16)],
    [⟨0, 4, .wo, 0, []⟩, ⟨31, 1, .ro, 0, []⟩]⟩,
  ⟨"PEG_OVERFILLS", 0x100020, 32, [(0x10000, 16)],
    [⟨0, 32, .ro, 0, []⟩]⟩,
  ⟨"PEG_DROPS", 0x100024, 32, [(0x10000, 16)],
    [⟨0, 32, .ro, 0, []⟩]⟩,
  ⟨"PEG_CHECKS", 0x100028, 32, [(0x10000, 16)],
    [⟨0, 32, .ro, 0, []⟩]⟩,
  ⟨"CORE_LANTERN", 0x4000A0, 32, [(0x10000, 64)],
    [⟨0, 5, .rw, 20, [(0, 9)]⟩, ⟨5, 1, .rw, 0, []⟩, ⟨31, 1, .ro, 0, []⟩]⟩,
  ⟨"CORE_LANTERN_COUNT", 0x4000A8, 64, [(0x10000, 64)],
    [⟨0, 32, .ro, 0, []⟩, ⟨32, 32, .ro, 0, []⟩]⟩,
  ⟨"CORE_HANG", 0x4000C0, 64, [(0x10000, 64), (0x8, 6)],
    [⟨0, 20, .ro, 0, []⟩, ⟨20, 4, .ro, 0, []⟩, ⟨24, 16, .ro, 0, []⟩, ⟨40, 16, .ro, 0, []⟩]⟩]

/-- Registers: of 09_memory_tiers.md. -/
def regMap09 : List RegDesc := [
  ⟨"MEM_SPACE", 0xC0000, 64, [(0x8, 16)],
    [⟨0, 1, .rw, 0, []⟩, ⟨1, 2, .rw, 0, []⟩, ⟨4, 27, .rw, 0, []⟩, ⟨32, 27, .rw, 0, [(0, 0), (67108865, 134217727)]⟩]⟩,
  ⟨"MEM_CORE_SPACE", 0xC0100, 64, [(0x8, 4)],
    [⟨0, 4, .rw, 0, []⟩, ⟨4, 4, .rw, 0, []⟩, ⟨8, 4, .rw, 0, []⟩, ⟨12, 4, .rw, 0, []⟩, ⟨16, 4, .rw, 0, []⟩, ⟨20, 4, .rw, 0, []⟩, ⟨24, 4, .rw, 0, []⟩, ⟨28, 4, .rw, 0, []⟩, ⟨32, 4, .rw, 0, []⟩, ⟨36, 4, .rw, 0, []⟩, ⟨40, 4, .rw, 0, []⟩, ⟨44, 4, .rw, 0, []⟩, ⟨48, 4, .rw, 0, []⟩, ⟨52, 4, .rw, 0, []⟩, ⟨56, 4, .rw, 0, []⟩, ⟨60, 4, .rw, 0, []⟩]⟩,
  ⟨"MEM_INVAL", 0xC0140, 64, [],
    [⟨0, 4, .rw, 0, []⟩, ⟨4, 1, .rw, 0, []⟩, ⟨32, 26, .rw, 0, []⟩, ⟨63, 1, .w1s, 0, []⟩]⟩,
  ⟨"MEM_XLATE_COUNT", 0xC0148, 64, [],
    [⟨0, 32, .ro, 0, []⟩, ⟨32, 32, .ro, 0, []⟩]⟩,
  ⟨"MEM_T1_CFG", 0x840000, 32, [(0x100000, 4)],
    [⟨0, 4, .rwl, 0, [(4, 15)]⟩, ⟨8, 1, .ro, 0, []⟩]⟩,
  ⟨"MEM_T2_CFG", 0x840008, 32, [(0x100000, 4)],
    [⟨0, 4, .rwl, 0, [(3, 15)]⟩, ⟨4, 1, .rwl, 0, []⟩, ⟨8, 3, .ro, 0, []⟩, ⟨12, 1, .ro, 0, []⟩, ⟨16, 11, .ro, 0, []⟩]⟩,
  ⟨"MEM_RETRAIN", 0x840010, 32, [(0x100000, 4)],
    [⟨0, 5, .rw, 0, []⟩, ⟨8, 1, .w1s, 0, []⟩, ⟨9, 1, .ro, 0, []⟩]⟩,
  ⟨"MEM_CH_STATUS", 0x840100, 64, [(0x100000, 4), (0x8, 20)],
    [⟨0, 2, .ro, 0, []⟩, ⟨2, 4, .ro, 0, []⟩, ⟨8, 24, .ro, 0, []⟩, ⟨32, 32, .ro, 0, []⟩]⟩,
  ⟨"ATT_ZERO", 0x200000, 32, [(0x10000, 16)],
    [⟨0, 1, .w1s, 0, []⟩]⟩,
  ⟨"ATT_ADDS", 0x200008, 64, [(0x10000, 16)],
    [⟨0, 64, .ro, 0, []⟩]⟩]

/-- Registers: of 11_parameter_update.md. -/
def regMap11 : List RegDesc := [
  ⟨"CEL_ENG_OK", 0x800000, 32, [(0x100000, 4)],
    [⟨0, 16, .ro, 0, []⟩]⟩,
  ⟨"CEL_SEQ_STATUS", 0x800008, 64, [(0x100000, 4)],
    [⟨0, 2, .ro, 0, []⟩, ⟨2, 1, .ro, 0, []⟩, ⟨32, 32, .ro, 0, []⟩]⟩,
  ⟨"UPD_CTRL", 0x880000, 32, [(0x100000, 4)],
    [⟨0, 1, .rw, 0, []⟩, ⟨1, 1, .w1c, 0, []⟩]⟩,
  ⟨"UPD_CLIP", 0x880004, 32, [(0x100000, 4)],
    [⟨0, 32, .rw, 0, []⟩]⟩,
  ⟨"UPD_SR_SEED", 0x880008, 64, [(0x100000, 4)],
    [⟨0, 64, .rw, 0, []⟩]⟩,
  ⟨"UPD_FLAGS", 0x880010, 32, [(0x100000, 4)],
    [⟨0, 1, .w1c, 0, []⟩, ⟨1, 1, .w1c, 0, []⟩, ⟨2, 1, .w1c, 0, []⟩, ⟨3, 1, .w1c, 0, []⟩]⟩,
  ⟨"UPD_COUNTS", 0x880018, 64, [(0x100000, 4)],
    [⟨0, 32, .ro, 0, []⟩, ⟨32, 16, .ro, 0, []⟩, ⟨48, 16, .ro, 0, []⟩]⟩,
  ⟨"UPD_RULE_CFG", 0x880100, 64, [(0x100000, 4), (0x8, 16)],
    [⟨0, 4, .rw, 0, []⟩, ⟨4, 1, .rw, 0, []⟩, ⟨5, 1, .rw, 0, []⟩, ⟨6, 1, .rw, 0, []⟩, ⟨8, 4, .rw, 0, []⟩, ⟨12, 4, .rw, 0, []⟩, ⟨16, 4, .rw, 0, []⟩, ⟨20, 4, .rw, 0, []⟩, ⟨24, 4, .rw, 0, []⟩, ⟨28, 1, .rw, 0, []⟩, ⟨29, 1, .rw, 0, []⟩, ⟨30, 1, .rw, 0, []⟩, ⟨31, 1, .rw, 0, []⟩, ⟨32, 12, .rw, 0, []⟩]⟩,
  ⟨"UPD_RULE_PROG", 0x880180, 64, [(0x100000, 4), (0x8, 16)],
    [⟨0, 11, .rw, 2047, []⟩, ⟨11, 11, .rw, 2047, []⟩, ⟨22, 11, .rw, 2047, []⟩]⟩,
  ⟨"UPD_RULE_P", 0x880220, 32, [(0x100000, 4), (0x80, 16), (0x4, 24)],
    [⟨0, 32, .rw, 0, []⟩]⟩,
  ⟨"UPD_PROG", 0x884000, 64, [(0x100000, 4), (0x8, 2048)],
    [⟨0, 64, .rw, 0, []⟩]⟩]

/-- Registers: of 12_guyline_fabric.md. -/
def regMap12 : List RegDesc := [
  ⟨"GUY_PORT_CFG", 0xC00000, 32, [(0x100000, 2), (0x100, 4)],
    [⟨0, 1, .rwl, 0, []⟩, ⟨1, 1, .rwl, 0, []⟩, ⟨2, 2, .rwl, 0, [(3, 3)]⟩, ⟨4, 1, .rw, 1, []⟩]⟩,
  ⟨"GUY_PORT_STATUS", 0xC00008, 64, [(0x100000, 2), (0x100, 4)],
    [⟨0, 3, .ro, 0, []⟩, ⟨3, 2, .ro, 3, []⟩, ⟨5, 1, .ro, 0, []⟩, ⟨6, 4, .ro, 0, []⟩, ⟨10, 1, .ro, 0, []⟩, ⟨16, 13, .ro, 0, []⟩, ⟨29, 3, .ro, 0, []⟩, ⟨32, 32, .ro, 0, []⟩]⟩,
  ⟨"GUY_PORT_CTRL", 0xC00010, 32, [(0x100000, 2), (0x100, 4)],
    [⟨0, 4, .rw, 0, []⟩, ⟨4, 1, .w1s, 0, []⟩, ⟨5, 1, .ro, 0, []⟩]⟩,
  ⟨"GUY_PORT_ERR_A", 0xC00018, 64, [(0x100000, 2), (0x100, 4)],
    [⟨0, 32, .ro, 0, []⟩, ⟨32, 32, .ro, 0, []⟩]⟩,
  ⟨"GUY_PORT_ERR_B", 0xC00020, 64, [(0x100000, 2), (0x100, 4)],
    [⟨0, 32, .ro, 0, []⟩, ⟨32, 32, .ro, 0, []⟩]⟩,
  ⟨"GUY_E2E_CFG", 0xC00800, 32, [(0x100000, 2)],
    [⟨0, 8, .rw, 2, [(0, 0)]⟩, ⟨8, 8, .rw, 10, [(0, 0)]⟩, ⟨16, 16, .rw, 1000, [(0, 99)]⟩]⟩,
  ⟨"GUY_MAP_STATUS", 0xC00808, 64, [(0x100000, 2)],
    [⟨0, 32, .ro, 0, []⟩, ⟨32, 32, .ro, 0, []⟩]⟩,
  ⟨"GUY_DROPS", 0xC00810, 64, [(0x100000, 2)],
    [⟨0, 32, .ro, 0, []⟩, ⟨32, 32, .ro, 0, []⟩]⟩,
  ⟨"TIM_MASTER", 0x30000, 32, [],
    [⟨0, 13, .rwl, 0, []⟩, ⟨16, 13, .rwl, 0, []⟩, ⟨31, 1, .rwl, 0, []⟩]⟩,
  ⟨"TIM_STATUS", 0x30008, 64, [],
    [⟨0, 2, .ro, 0, []⟩, ⟨2, 1, .ro, 0, []⟩, ⟨3, 5, .ro, 0, []⟩, ⟨8, 3, .ro, 0, []⟩, ⟨32, 16, .ro, 0, []⟩]⟩,
  ⟨"TIM_NOW", 0x30010, 64, [],
    [⟨0, 64, .ro, 0, []⟩]⟩,
  ⟨"TIM_LINK", 0xC80000, 64, [(0x100000, 2), (0x8, 4)],
    [⟨0, 32, .ro, 0, []⟩, ⟨32, 32, .ro, 0, []⟩]⟩]

/-- Registers: of 13_gradient_reduction.md. -/
def regMap13 : List RegDesc := [
  ⟨"RED_CHAN_CFG", 0xC40000, 64, [(0x100000, 2), (0x40, 64)],
    [⟨0, 1, .rw, 0, []⟩, ⟨1, 1, .rw, 0, []⟩, ⟨2, 1, .rw, 0, []⟩, ⟨3, 1, .rw, 0, []⟩, ⟨4, 1, .rw, 0, []⟩, ⟨5, 1, .rw, 0, []⟩, ⟨6, 4, .rw, 0, []⟩, ⟨10, 13, .rw, 0, [(0, 0)]⟩, ⟨23, 13, .rw, 0, []⟩, ⟨36, 10, .rw, 0, []⟩]⟩,
  ⟨"RED_CHAN_TABLE", 0xC40008, 64, [(0x100000, 2), (0x40, 64)],
    [⟨0, 2, .rw, 0, []⟩, ⟨9, 27, .rw, 0, []⟩]⟩,
  ⟨"RED_CHAN_TIME", 0xC40010, 64, [(0x100000, 2), (0x40, 64)],
    [⟨0, 32, .rw, 0, [(0, 0)]⟩, ⟨32, 32, .rw, 0, []⟩]⟩,
  ⟨"RED_CHAN_STEP_START", 0xC40018, 64, [(0x100000, 2), (0x40, 64)],
    [⟨0, 64, .rw, 0, []⟩]⟩,
  ⟨"RED_CHAN_STEP_SEQ", 0xC40020, 64, [(0x100000, 2), (0x40, 64)],
    [⟨0, 64, .rw, 0, []⟩]⟩,
  ⟨"RED_CHAN_SLOTS", 0xC40028, 32, [(0x100000, 2), (0x40, 64)],
    [⟨0, 12, .rw, 0, [(0, 0), (2049, 4095)]⟩, ⟨16, 13, .rw, 0, [(4097, 8191)]⟩]⟩,
  ⟨"RED_CHAN_STATUS", 0xC40030, 64, [(0x100000, 2), (0x40, 64)],
    [⟨0, 3, .ro, 0, []⟩, ⟨3, 13, .ro, 0, []⟩, ⟨32, 32, .ro, 0, []⟩]⟩,
  ⟨"RED_CHAN_CTRL", 0xC40038, 32, [(0x100000, 2), (0x40, 64)],
    [⟨0, 1, .wo, 0, []⟩]⟩,
  ⟨"RED_FB_CORES", 0xC41000, 64, [(0x100000, 2)],
    [⟨0, 64, .rw, 0, []⟩]⟩,
  ⟨"RED_COUNTS", 0xC41020, 64, [(0x100000, 2)],
    [⟨0, 32, .ro, 0, []⟩, ⟨32, 32, .ro, 0, []⟩]⟩,
  ⟨"RED_FLAGS", 0xC41028, 32, [(0x100000, 2)],
    [⟨0, 1, .w1c, 0, []⟩, ⟨1, 1, .w1c, 0, []⟩, ⟨2, 1, .w1c, 0, []⟩, ⟨3, 1, .w1c, 0, []⟩]⟩]

/-- Registers: of 14_jobs_and_pipelines.md. -/
def regMap14 : List RegDesc := [
  ⟨"JOB_RING_BASE", 0x40000, 64, [(0x20, 4)],
    [⟨12, 52, .rw, 0, []⟩]⟩,
  ⟨"JOB_RING_CTLB", 0x40008, 64, [(0x20, 4)],
    [⟨6, 58, .rw, 0, []⟩]⟩,
  ⟨"JOB_RING_CFG", 0x40010, 32, [(0x20, 4)],
    [⟨0, 5, .rw, 4, [(0, 3), (17, 31)]⟩, ⟨5, 1, .rw, 0, []⟩, ⟨6, 1, .rw, 0, []⟩, ⟨8, 8, .rw, 0, []⟩]⟩,
  ⟨"JOB_RING_STAT", 0x40018, 64, [(0x20, 4)],
    [⟨0, 1, .ro, 0, []⟩, ⟨16, 16, .ro, 0, []⟩, ⟨32, 32, .ro, 0, []⟩]⟩,
  ⟨"JOB_RING_PASS", 0x40180, 64, [(0x8, 4)],
    [⟨0, 64, .ro, 0, []⟩]⟩,
  ⟨"JOB_POLL", 0x40100, 32, [],
    [⟨0, 12, .rw, 4, [(0, 0), (2001, 4095)]⟩]⟩,
  ⟨"JOB_STEP_MORE", 0x40108, 32, [],
    [⟨0, 8, .rw, 16, []⟩]⟩,
  ⟨"JOB_SLOTS", 0x40110, 64, [],
    [⟨0, 16, .ro, 0, []⟩, ⟨16, 16, .ro, 0, []⟩]⟩]

/-- Registers: of 15_bring_up.md. -/
def regMap15 : List RegDesc := [
  ⟨"BU_CTRL", 0x10000, 32, [],
    [⟨0, 4, .wo, 0, []⟩, ⟨4, 1, .wo, 0, []⟩]⟩,
  ⟨"BU_STATUS", 0x10008, 64, [],
    [⟨0, 4, .ro, 0, []⟩, ⟨4, 3, .ro, 0, []⟩, ⟨7, 1, .ro, 0, []⟩, ⟨8, 1, .ro, 0, []⟩, ⟨32, 32, .ro, 0, []⟩]⟩,
  ⟨"BU_PLAN", 0x10010, 64, [],
    [⟨0, 4, .rwl, 0, []⟩, ⟨4, 4, .rwl, 0, []⟩, ⟨8, 4, .rwl, 0, []⟩, ⟨12, 4, .rwl, 0, []⟩, ⟨16, 4, .rwl, 0, []⟩, ⟨20, 4, .rwl, 0, []⟩, ⟨24, 4, .rwl, 0, []⟩, ⟨28, 4, .rwl, 0, []⟩, ⟨32, 4, .rwl, 0, []⟩, ⟨36, 4, .rwl, 0, []⟩, ⟨40, 4, .rwl, 0, []⟩, ⟨44, 4, .rwl, 0, []⟩, ⟨48, 4, .rwl, 0, []⟩, ⟨52, 4, .rwl, 0, []⟩, ⟨56, 4, .rwl, 0, []⟩]⟩,
  ⟨"BU_WAIT", 0x10018, 32, [],
    [⟨0, 16, .rwl, 30, [(0, 0), (3601, 65535)]⟩, ⟨16, 16, .rwl, 60, [(0, 0), (3601, 65535)]⟩]⟩,
  ⟨"BU_LOG_COUNT", 0x10020, 32, [],
    [⟨0, 10, .ro, 0, []⟩, ⟨16, 16, .ro, 0, []⟩]⟩,
  ⟨"BU_ASIDE", 0x10030, 32, [(0x4, 4)],
    [⟨0, 17, .rwl, 0, []⟩]⟩,
  ⟨"BU_FW_IMAGE_ADDR", 0x10100, 64, [(0x10, 4)],
    [⟨10, 54, .rwl, 0, []⟩]⟩,
  ⟨"BU_FW_IMAGE_LEN", 0x10108, 32, [(0x10, 4)],
    [⟨0, 16, .rwl, 0, []⟩]⟩,
  ⟨"BU_FW_SOURCE", 0x10140, 32, [],
    [⟨0, 13, .rwl, 0, []⟩]⟩,
  ⟨"BU_FW_STATUS", 0x10148, 64, [],
    [⟨0, 4, .ro, 0, []⟩, ⟨4, 2, .ro, 0, []⟩, ⟨8, 3, .ro, 0, []⟩, ⟨16, 16, .ro, 0, []⟩, ⟨32, 32, .ro, 0, []⟩]⟩,
  ⟨"BU_FUSE_CORE", 0x10200, 32, [(0x4, 4)],
    [⟨0, 17, .ro, 0, []⟩]⟩,
  ⟨"BU_TEST_CORE", 0x10210, 32, [(0x4, 4)],
    [⟨0, 17, .ro, 0, []⟩]⟩,
  ⟨"BU_YIELD_CORE", 0x10220, 32, [(0x4, 4)],
    [⟨0, 17, .ro, 0, []⟩]⟩,
  ⟨"BU_YIELD_SUP", 0x10230, 32, [],
    [⟨0, 4, .ro, 0, []⟩, ⟨4, 4, .ro, 0, []⟩, ⟨8, 6, .ro, 0, []⟩, ⟨14, 1, .ro, 0, []⟩]⟩,
  ⟨"BU_YIELD_ARRAY", 0x10400, 32, [(0x8, 68), (0x4, 2)],
    [⟨0, 6, .ro, 63, []⟩, ⟨6, 1, .ro, 0, []⟩, ⟨8, 6, .ro, 63, []⟩, ⟨14, 1, .ro, 0, []⟩, ⟨16, 1, .ro, 0, []⟩, ⟨17, 1, .ro, 0, []⟩]⟩]

/-- Registers: of 16_faults_resets_and_checks.md. -/
def regMap16 : List RegDesc := [
  ⟨"FLT_CFG", 0x50000, 32, [],
    [⟨0, 2, .rw, 2, []⟩, ⟨2, 1, .rw, 1, []⟩]⟩,
  ⟨"FLT_RESET", 0x50008, 32, [],
    [⟨0, 3, .rw, 0, []⟩, ⟨8, 6, .rw, 0, []⟩, ⟨30, 1, .ro, 0, []⟩, ⟨31, 1, .w1s, 0, []⟩]⟩,
  ⟨"FLT_HEARTBEAT", 0x5000C, 32, [],
    [⟨0, 1, .wo, 0, []⟩]⟩,
  ⟨"FLT_REC_CORES", 0x50010, 64, [],
    [⟨0, 64, .ro, 0, []⟩]⟩,
  ⟨"FLT_REC_OTHER", 0x50018, 32, [],
    [⟨0, 16, .ro, 0, []⟩, ⟨16, 4, .ro, 0, []⟩, ⟨20, 2, .ro, 0, []⟩, ⟨22, 1, .ro, 0, []⟩]⟩,
  ⟨"FLT_DIE_STATUS", 0x50040, 64, [(0x8, 7)],
    [⟨0, 10, .ro, 0, []⟩, ⟨10, 11, .ro, 0, []⟩, ⟨32, 16, .ro, 0, []⟩, ⟨48, 16, .ro, 0, []⟩]⟩,
  ⟨"FLT_BUF_ACK", 0x50080, 32, [],
    [⟨0, 11, .wo, 0, []⟩]⟩,
  ⟨"CHK_OP", 0x60000, 32, [],
    [⟨0, 2, .rw, 0, []⟩, ⟨2, 1, .rw, 0, []⟩, ⟨4, 1, .w1s, 0, []⟩, ⟨5, 1, .ro, 0, []⟩, ⟨6, 1, .ro, 0, []⟩]⟩,
  ⟨"CHK_SRC", 0x60008, 64, [],
    [⟨0, 64, .rw, 0, []⟩]⟩,
  ⟨"CHK_LEN", 0x60010, 32, [],
    [⟨0, 17, .rw, 0, []⟩]⟩,
  ⟨"CHK_FOLD", 0x60018, 64, [],
    [⟨0, 64, .rw, 0, []⟩]⟩,
  ⟨"CHK_EXPECT", 0x60020, 64, [],
    [⟨0, 64, .rw, 0, []⟩]⟩,
  ⟨"CHK_RESULT", 0x60028, 64, [],
    [⟨0, 64, .ro, 0, []⟩]⟩,
  ⟨"CHK_FAILS", 0x60100, 32, [(0x4, 16)],
    [⟨0, 32, .ro, 0, []⟩]⟩]

/-- Registers: of 17_security.md. -/
def regMap17 : List RegDesc := [
  ⟨"SEC_STATUS", 0x70000, 32, [],
    [⟨0, 1, .ro, 0, []⟩, ⟨1, 1, .ro, 0, []⟩, ⟨2, 1, .ro, 0, []⟩]⟩,
  ⟨"SEC_SLOTS", 0x70020, 64, [],
    [⟨0, 32, .ro, 0, []⟩, ⟨32, 32, .ro, 0, []⟩]⟩,
  ⟨"SEC_COUNTS", 0x70030, 64, [],
    [⟨0, 16, .ro, 0, []⟩, ⟨16, 16, .ro, 0, []⟩, ⟨32, 16, .ro, 0, []⟩, ⟨48, 16, .ro, 0, []⟩]⟩,
  ⟨"SEC_SVN", 0x70040, 32, [],
    [⟨0, 6, .ro, 0, []⟩, ⟨8, 6, .ro, 0, []⟩, ⟨16, 6, .ro, 0, []⟩, ⟨24, 6, .ro, 0, []⟩]⟩,
  ⟨"SEC_SVN_RAISE", 0x70048, 32, [],
    [⟨0, 6, .wo, 0, []⟩, ⟨6, 2, .wo, 0, []⟩]⟩,
  ⟨"SEC_ID_PUB", 0x70100, 64, [(0x8, 12)],
    [⟨0, 64, .ro, 0, []⟩]⟩,
  ⟨"SEC_BOOT_PUB", 0x70180, 64, [(0x8, 12)],
    [⟨0, 64, .ro, 0, []⟩]⟩,
  ⟨"SEC_MR", 0x70200, 64, [(0x40, 6), (0x8, 6)],
    [⟨0, 64, .ro, 0, []⟩]⟩,
  ⟨"SEC_NONCE", 0x70400, 64, [(0x8, 6)],
    [⟨0, 64, .rw, 0, []⟩]⟩,
  ⟨"SEC_QUOTE_CTRL", 0x70440, 32, [],
    [⟨0, 4, .rw, 0, []⟩, ⟨4, 1, .rw, 0, []⟩, ⟨8, 1, .w1s, 0, []⟩, ⟨9, 1, .ro, 0, []⟩, ⟨10, 1, .ro, 0, []⟩]⟩]

/-- Registers: of 18_debug_and_telemetry.md. -/
def regMap18 : List RegDesc := [
  ⟨"DBG_CORE_SEL", 0x80000, 32, [],
    [⟨0, 7, .rw, 0, []⟩, ⟨7, 1, .rw, 0, []⟩]⟩,
  ⟨"DBG_ERR", 0x80004, 32, [],
    [⟨0, 1, .w1c, 0, []⟩, ⟨1, 1, .w1c, 0, []⟩, ⟨2, 1, .w1c, 0, []⟩, ⟨3, 1, .w1c, 0, []⟩, ⟨4, 1, .w1c, 0, []⟩]⟩,
  ⟨"DBG_ENG_CTRL", 0x80008, 32, [],
    [⟨0, 6, .wo, 0, []⟩, ⟨8, 6, .wo, 0, []⟩, ⟨16, 6, .wo, 0, []⟩, ⟨24, 6, .wo, 0, []⟩]⟩,
  ⟨"DBG_ENG_STATUS", 0x80010, 64, [],
    [⟨0, 6, .ro, 0, []⟩, ⟨8, 6, .ro, 0, []⟩, ⟨32, 32, .ro, 0, []⟩]⟩,
  ⟨"DBG_CATCH", 0x80018, 64, [],
    [⟨0, 64, .rw, 0, []⟩]⟩,
  ⟨"DBG_REG_SEL", 0x80020, 32, [],
    [⟨0, 3, .rw, 0, []⟩, ⟨8, 8, .rw, 0, []⟩, ⟨16, 5, .rw, 0, []⟩]⟩,
  ⟨"DBG_REG_DATA", 0x80028, 64, [],
    [⟨0, 64, .rw, 0, []⟩]⟩,
  ⟨"DBG_PEG_DATA", 0x80038, 64, [],
    [⟨0, 64, .rw, 0, []⟩]⟩,
  ⟨"DBG_MEM_DATA", 0x80048, 64, [],
    [⟨0, 64, .rw, 0, []⟩]⟩,
  ⟨"DBG_PEG_SEL", 0x80030, 32, [],
    [⟨0, 16, .rw, 0, []⟩]⟩,
  ⟨"DBG_MEM_ADDR", 0x80040, 64, [],
    [⟨0, 48, .rw, 0, []⟩, ⟨48, 4, .rw, 0, []⟩]⟩,
  ⟨"DBG_TRACE_CTRL", 0x80100, 32, [],
    [⟨0, 1, .rw, 0, []⟩, ⟨1, 1, .rw, 0, []⟩, ⟨2, 1, .wo, 0, []⟩]⟩,
  ⟨"DBG_TRACE_SEL", 0x80108, 32, [(0x4, 4)],
    [⟨0, 6, .rw, 0, []⟩, ⟨6, 3, .rw, 0, []⟩, ⟨9, 2, .rw, 0, []⟩]⟩,
  ⟨"DBG_TRACE_STATUS", 0x80118, 64, [],
    [⟨0, 11, .ro, 0, []⟩, ⟨11, 1, .ro, 0, []⟩, ⟨32, 32, .ro, 0, []⟩]⟩,
  ⟨"DBG_TRACE_MARK", 0x80120, 64, [],
    [⟨0, 64, .wo, 0, []⟩]⟩,
  ⟨"DBG_PMU_CFG", 0xA0000, 32, [(0x40, 64), (0x4, 4)],
    [⟨0, 4, .rw, 0, []⟩, ⟨4, 3, .rw, 0, []⟩]⟩,
  ⟨"DBG_PMU_CNT", 0xA0020, 64, [(0x40, 64), (0x8, 4)],
    [⟨0, 48, .rw, 0, []⟩]⟩,
  ⟨"DBG_DIE_CNT", 0xB0000, 64, [(0x8, 35)],
    [⟨0, 64, .ro, 0, []⟩]⟩,
  ⟨"DBG_ENERGY", 0xB1080, 64, [(0x8, 8)],
    [⟨0, 64, .ro, 0, []⟩]⟩,
  ⟨"DBG_THERM", 0xB1000, 64, [(0x8, 7)],
    [⟨0, 16, .ro, 0, []⟩, ⟨16, 16, .ro, 0, []⟩]⟩]

/-- Registers: of 19_package_and_pins.md. -/
def regMap19 : List RegDesc := [
  ⟨"ISL_PWR_LIMIT", 0x20000, 32, [],
    [⟨0, 10, .rw, 560, [(0, 199), (561, 1023)]⟩, ⟨10, 4, .rw, 0, [(13, 15)]⟩]⟩,
  ⟨"ISL_THERM", 0x20008, 32, [],
    [⟨0, 10, .rwl, 840, [(0, 679), (881, 1023)]⟩]⟩,
  ⟨"ISL_PWR_STATUS", 0x20010, 64, [],
    [⟨0, 16, .ro, 0, []⟩, ⟨16, 1, .ro, 0, []⟩, ⟨17, 1, .ro, 0, []⟩, ⟨20, 4, .ro, 12, []⟩, ⟨32, 32, .ro, 0, []⟩]⟩]

/-- Registers: the register ranges that the spec gives in prose. -/
def regMap99 : List RegDesc := [
  ⟨"RED_NORM_RESULT", 0xC41010, 64, [(0x100000, 2)],
    [⟨0, 64, .ro, 0, []⟩]⟩,
  ⟨"RED_NORM_INFO", 0xC41018, 64, [(0x100000, 2)],
    [⟨0, 64, .ro, 0, []⟩]⟩,
  ⟨"SEC_QUOTE", 0x70800, 64, [(0x8, 74)],
    [⟨0, 64, .ro, 0, []⟩]⟩,
  ⟨"FLT_BUF", 0x58000, 64, [(0x8, 4096)],
    [⟨0, 64, .ro, 0, []⟩]⟩,
  ⟨"BU_LOG", 0x18000, 64, [(0x8, 2048)],
    [⟨0, 64, .ro, 0, []⟩]⟩,
  ⟨"DBG_TRACE_BUF", 0x90000, 64, [(0x8, 8192)],
    [⟨0, 64, .ro, 0, []⟩]⟩,
  ⟨"GUY_MAP", 0xC10000, 64, [(0x100000, 2), (0x8, 1024)],
    [⟨0, 64, .ro, 0, []⟩]⟩,
  ⟨"CHK_OP_G", 0xC90000, 32, [(0x100000, 2)],
    [⟨0, 7, .ro, 0, []⟩]⟩,
  ⟨"CHK_SRC_G", 0xC90008, 64, [(0x100000, 2)],
    [⟨0, 64, .rw, 0, []⟩]⟩,
  ⟨"CHK_LEN_G", 0xC90010, 32, [(0x100000, 2)],
    [⟨0, 17, .rw, 0, []⟩]⟩,
  ⟨"CHK_FOLD_G", 0xC90018, 64, [(0x100000, 2)],
    [⟨0, 64, .rw, 0, []⟩]⟩,
  ⟨"CHK_EXPECT_G", 0xC90020, 64, [(0x100000, 2)],
    [⟨0, 64, .rw, 0, []⟩]⟩,
  ⟨"CHK_RESULT_G", 0xC90028, 64, [(0x100000, 2)],
    [⟨0, 64, .ro, 0, []⟩]⟩,
  ⟨"CHK_FAILS_G", 0xC90100, 32, [(0x100000, 2), (0x4, 16)],
    [⟨0, 32, .ro, 0, []⟩]⟩]

/-- The whole map. -/
def regMap : List RegDesc :=
  regMap01 ++ regMap02 ++ regMap03 ++ regMap05 ++ regMap07 ++ regMap08 ++ regMap09 ++ regMap11 ++ regMap12 ++ regMap13 ++ regMap14 ++ regMap15 ++ regMap16 ++ regMap17 ++ regMap18 ++ regMap19 ++ regMap99

/-- Is the distance rel from the array's base a place of one of its registers? -/
def RegDesc.hits : List (Nat × Nat) → Nat → Bool
  | [], rel => rel == 0
  | (st, n) :: ds, rel => decide (rel / st < n) && RegDesc.hits ds (rel % st)

/-- The array index chosen at each dimension by the distance rel. -/
def RegDesc.index : List (Nat × Nat) → Nat → List Nat
  | [], _ => []
  | (st, _) :: ds, rel => rel / st :: RegDesc.index ds (rel % st)

/-- Does the register array hold a register at this BAR0 offset? -/
def RegDesc.at (d : RegDesc) (off : Nat) : Bool := decide (d.base ≤ off) && RegDesc.hits d.dims (off - d.base)

/-- The register at a BAR0 offset, if the map has one. -/
def regFind (off : Nat) : Option RegDesc := regMap.find? (fun d => d.at off)

/-- The reset value of a register, from its fields. -/
def RegDesc.resetVal (d : RegDesc) : Nat := d.fields.foldl (fun a f => a + f.reset * 2 ^ f.lo) 0

/-- The value of the register table at an offset nothing has written: the register's reset value, or 0. -/
def regReset (off : Nat) : W64 :=
  match regFind off with
  | some d => BitVec.ofNat 64 d.resetVal
  | none => 0

end Sys2Proof.Machine
end

