-- ==== Sys2Proof/Machine/State.lean ====
section
/-! DEFINITION. The state of the HN-820 block as plain data, its faults and refusals, and the state after reset.
Registers of the setup space are held in State.regs under their BAR0 offset; a register that shows another field of the
state is computed from it (Sys2Proof/Machine/Regs.lean). -/
namespace Sys2Proof.Machine

/-- CORE_ENG_STATE.STATE (02): 0 halted, 1 issuing, 2 to 4 stalled, 5 stopped by fault, 6 stopped by STOP. -/
inductive EngSt where
  | halted | issuing | stallWait | stallQueue | stallBusy | faulted | stopped
deriving DecidableEq, Repr

/-- An active loop (R67): byte offsets of the first and last body instruction, the passes left, this one included, and whether the queue
has been discarded since the body was last entered (R53). -/
structure Loop where
  first : Nat
  last : Nat
  left : Nat
  lost : Bool := false
deriving DecidableEq, Repr

/-- An instruction that has issued and not completed (R64): its place, opcode, completion signals, the earliest cycle of
its completion, and the two runs of store-room bytes it writes (len 0: none). -/
structure Issued where
  pc : Nat
  opc : Nat
  sig0 : BitVec 16
  sig1 : BitVec 16
  ready : Nat := 0
  lo : Nat := 0
  len : Nat := 0
  lo2 : Nat := 0
  len2 : Nat := 0
deriving DecidableEq, Repr

/-- A report of a peg's FULL and STATE (R275): state 0 live, 1 abandoned, 2 corrupt. -/
structure Report where
  peg : Nat
  full : Bool
  st : Nat
deriving DecidableEq, Repr

/-- One engine: state, program counter (R47), last fault code, loop stack (innermost first), instruction queue (address
and word), address and parameter queues (R75, oldest first), instructions not completed (issue order), the latest report
held of each watched peg, a held take grant, the debug hold (R584, R585), the core cycle from which the next instruction may issue
(R52), entries pushed and not yet to be popped, with the core cycle of R75, and reports that count from the next cycle (R275). -/
structure Eng where
  st : EngSt := .halted
  pc : Nat := 0
  fault : Nat := 0
  loops : List Loop := []
  iq : List (Nat × Nat) := []
  aq : List W64 := []
  pq : List W32 := []
  out : List Issued := []
  reports : List Report := []
  grant : Option Nat := none
  dhold : Bool := false
  stepping : Bool := false
  next : Nat := 0
  aqNew : List (Nat × W64) := []
  pqNew : List (Nat × W32) := []
  repNew : List Report := []
deriving DecidableEq, Repr

/-- A pending result (R86, R178): the cycle from which it is readable, or a load of variable latency. -/
inductive Pend where
  | no
  | fixed (cycle : Nat)
  | variable
deriving DecidableEq, Repr

/-- A control-core load from outside the own store room (R86): destination, address, size, sign extension, the data once
read, whether it is held or was aborted with a cause (R315), and its TAG when remote (R394). -/
structure CtlLoad where
  pc : Nat
  gd : Nat
  addr : W64
  size : Nat
  signed : Bool
  seq : Nat := 0
  data : Option W64 := none
  held : Bool := false
  aborted : Option Nat := none
  tag : Option Nat := none
deriving DecidableEq, Repr

/-- A control-core store that is outstanding (R85), whether it is held, whether its destination has taken it, and its TAG
when remote. -/
structure CtlStore where
  pc : Nat
  addr : W64
  size : Nat
  data : W64
  held : Bool := false
  done : Bool := false
  tag : Option Nat := none
deriving DecidableEq, Repr

/-- The MMA or TMV the feed unit runs (R106): its place, operand field, signals, pairs not begun, pairs fed, issue cycle, and the cycle from
which an MMA's next pair may begin (R107, R109). -/
structure Feed where
  pc : Nat
  opnd : BitVec 40
  sig0 : BitVec 16
  sig1 : BitVec 16
  left : Nat
  fed : Nat
  issued : Nat := 0
  next : Nat := 0
deriving DecidableEq, Repr

/-- A DRP not yet complete (R115): its bank and that bank's type at issue, popped entry and row mask, issue cycle, and d₀
once fixed. -/
structure Drp where
  pc : Nat
  opnd : BitVec 40
  sig0 : BitVec 16
  sig1 : BitVec 16
  bank : Nat
  ty : Nat
  entry : W64
  mask : W32
  issued : Nat
  d0 : Option Nat := none
deriving DecidableEq, Repr

/-- A staging buffer (R123): the STG that fills it, the cycle from which it may read, the cycle its tile was staged (element (i, j) at 32 i + j), and once a
DRP takes it the cycle from which the buffer is free. -/
structure Stage where
  pc : Nat
  sig0 : BitVec 16
  sig1 : BitVec 16
  opnd : BitVec 40
  entry : W64
  from_ : Nat := 0
  done : Option Nat := none
  freeAt : Option Nat := none
  tile : Tab W32 := []
deriving DecidableEq, Repr

/-- An outer-product engine (R95): two accumulator banks (element (i, j) at 32 i + j), their types (0 none, 1 FP32,
2 INT32), the active bank, the read cycle of the last step of each bank, the feed, bank and stage units, the start of
the latest bank phase, and the cycle in which one of two drain-out buffers in use last became free. -/
structure Ope where
  bank0 : Tab W32 := []
  bank1 : Tab W32 := []
  ty0 : Nat := 0
  ty1 : Nat := 0
  active : Nat := 0
  last0 : Option Nat := none
  last1 : Option Nat := none
  feed : Option Feed := none
  drps : List Drp := []
  stages : List Stage := []
  lastD0 : Option Nat := none
  bufAt : Nat := 0
deriving DecidableEq, Repr

/-- The thin-path engine (R164): x and y buffers (element e of vector m at 1024 m + e), the running TMV, the last feed
cycle given out (R172), and for each n-tile the cycle of its last landing (R173). -/
structure Tpe where
  x : Tab W32 := []
  y : Tab W32 := []
  feed : Option Feed := none
  busyUntil : Nat := 0
  land : Tab Nat := []
deriving DecidableEq, Repr

/-- The vector engine (R177): registers (lane i of vn at 64 n + i), pending results, the cycle of the last VSFU, whether a
VSEED load is in flight, and the stores that completed in a core cycle, with that cycle (R180). -/
structure Vec where
  v : Tab W32 := []
  pend : Tab Pend := []
  sfuAt : Option Nat := none
  seedLoad : Bool := false
  stored : List Issued := []
  storedAt : Nat := 0
deriving DecidableEq, Repr

/-- A stream descriptor's fields in effect (R233), with the entries of R227 applied. -/
structure Desc where
  kind : Nat := 0
  xform : Nat := 0
  fmt : Nat := 0
  tsc : Bool := false
  list : Bool := false
  lkind : Bool := false
  look : Nat := 0
  fillev : Nat := 0
  tileW : Nat := 0
  slots : Nat := 0
  near : Nat := 0
  counts : List Nat := []
  listRows : Nat := 0
  strides : List Int := []
  far : W64 := 0
  peg : Nat := 0
  pegPkg : Nat := 0
  listBase : Nat := 0
deriving DecidableEq, Repr

/-- Where and why a stream stops (R262, R263): the tile, whether it is aborted (else suspended), the fault code, the cause of
R263 (3 for a suspension under R405), and the list position (TEN_INDEX), the package named, or the address of a suspension; a suspension by
another package's translation has code 1. -/
structure Stop where
  tile : Nat
  abort : Bool
  code : Nat
  cause : Nat
  pos : Nat
deriving DecidableEq, Repr

/-- A stream slot (R229): state (0 free, 1 running, 2 suspended, 3 ending after abort), the STRM's place and completion
signals, descriptor, class (0 read, 1 write, 2 remote), tile total, tiles committed, the next request (tile and byte of it),
its sequence number and the epoch (R394), the list pieces held by number, the first tile of the current fill group, fills
sent and fills applied, fill packets with no bytes that wait for their answer (sequence number, first tile of the group, tile), and a stop
found. -/
structure Strm where
  state : Nat := 0
  pc : Nat := 0
  sig0 : BitVec 16 := 0
  sig1 : BitVec 16 := 0
  d : Desc := {}
  cls : Nat := 0
  total : Nat := 0
  done : Nat := 0
  tile : Nat := 0
  part : Nat := 0
  seq : Nat := 0
  epoch : Nat := 62
  pieces : List (Nat × List Byte) := []
  gstart : Nat := 0
  fills : Nat := 0
  filled : Nat := 0
  nulls : List (Nat × Nat × Nat) := []
  stop : Option Stop := none
deriving DecidableEq, Repr

/-- A transfer of a stream (R258), kept until it has retired and its tile is committed: slot, tile, byte offset and length
within the tile, sequence number, whether it has arrived at its destination, has been acknowledged, and has been written by a
cellar die, and the bytes it carries once known. -/
structure Xfer where
  slot : Nat
  tile : Nat
  off : Nat
  len : Nat
  seq : Nat
  arrived : Bool := false
  retired : Bool := false
  written : Bool := false
  bytes : List Byte := []
deriving DecidableEq, Repr

/-- The acceptance window of an STRM (R228): its place and word, the cycle in which it opened, its descriptor, and the first check that
failed (code, X, D2). -/
structure Window where
  pc : Nat
  w : EngW
  opened : Nat
  d : Desc
  bad : Option (Nat × Nat × Nat) := none
deriving DecidableEq, Repr

/-- The stream engine: slots, the acceptance window, transfers in flight, and per class the credit, the network cycle up to
which it has been counted, the slot that started a request last, and the network cycle, plus one, in which it did (R255); the slots and epochs of streams to other
packages in the key period (R571). -/
structure Str where
  slots : Tab Strm := []
  window : Option Window := none
  xfers : List Xfer := []
  credit : Tab Int := []
  creditAt : Tab Nat := []
  turn : Tab Nat := []
  startAt : Tab Nat := []
  used : List (Nat × Nat) := []
deriving DecidableEq, Repr

/-- An arm of a peg on its way (R283): the peg, the stored value, the SD's place and its place among the control core's peg
operations (R271). -/
structure Arm where
  peg : Nat
  v : W64
  pc : Nat
  seq : Nat
deriving DecidableEq, Repr

/-- A tally operation of the current core cycle, applied at its end (R71, R293): its group (0 take, 1 signal at issue, 2 signal at
completion, 3 debug write, whose amount is the value written), the engine, the instruction's place, the tally, and the amount. -/
structure TallyOp where
  group : Nat
  eng : Nat
  pc : Nat
  tally : Nat
  amt : Int
deriving DecidableEq, Repr

/-- A core (R47): six engines by number, tallies, g registers and their pending marks, the core-cycle counter with the
fraction of a cycle run (in units of 1/1000), the island clock (running, held for a frequency change, and a kept later
step), control-core loads, stores and arms in flight,
stores the supervisor aborted and no instruction has taken (cause, address), its counts of remote accesses, in all (R394) and in the
key period (R571), and of loads and arms, OPE-A and OPE-B, TPE, VEC and STR, and whether anything of R290
happened in this cycle, or is to count for the next one; steps carried out; and of the current core cycle the tally operations,
the engines whose HALT completed, those that began a refetch of R52, and whether a fetch request was made (R49). -/
structure Core where
  engs : Tab Eng := []
  tally : Tab W16 := []
  g : Tab W64 := []
  gpend : Tab Pend := []
  cycles : Nat := 0
  frac : Nat := 0
  clkOn : Bool := false
  clkHeld : Bool := false
  kept : Option Nat := none
  loads : List CtlLoad := []
  stores : List CtlStore := []
  arms : List Arm := []
  aborted : List (Nat × W64) := []
  remoteSeq : Nat := 0
  remotePeriod : Nat := 0
  pegSeq : Nat := 0
  opes : Tab Ope := []
  tpe : Tpe := {}
  vec : Vec := {}
  str : Str := {}
  stirred : Bool := false
  stirNext : Bool := false
  steps : Nat := 0
  tops : List TallyOp := []
  halts : List Nat := []
  jumps : List Nat := []
  fetched : Bool := false
deriving DecidableEq, Repr

/-- A watch of an engine on a peg (R275). -/
structure Watch where
  peg : Nat
  core : Nat
  eng : Nat
deriving DecidableEq, Repr

/-- A peg fill on its way to a peg unit (R272): the peg, the sender's job by its space here, the sender's unit identifier
word, for a stream of this package its core, slot and the first tile of the group, and for a packet its source package and die,
its TAG and its ADDR. -/
structure Fill where
  peg : Nat
  space : Nat
  unit : W32
  src : Option (Nat × Nat × Nat) := none
  back : Option (Nat × Nat × Nat × Nat) := none
deriving DecidableEq, Repr

/-- A run of a peg unit over pegs of its cluster, one in a network cycle: an initialisation with its word (R269), or a sweep that abandons
the pegs owned by a region of the mask (R287); the next peg, and how many are left. -/
structure PegRun where
  cl : Nat
  word : Option W64
  mask : Nat
  next : Nat
  left : Nat
deriving DecidableEq, Repr

/-- The peg units: peg words by die-wide number, the stored check values (R268), watches, queued take requests (oldest
first), on their way reports and grants to engines, returns and fills to peg units; runs under way; and the network cycle (plus one) in
which the pegs listed beside it have had their operation (R270). -/
structure Pegs where
  word : Tab W64 := []
  chk : Tab W16 := []
  watches : List Watch := []
  takes : List Watch := []
  reports : List (Watch × Report) := []
  grants : List Watch := []
  returns : List Nat := []
  fills : List Fill := []
  runs : List PegRun := []
  busyAt : Nat := 0
  busy : List Nat := []
deriving DecidableEq, Repr

/-- A mapping of a page (R314): the die and the die offset of its first byte, its key slot, whether it is writable, and whether
it is a 2 MiB page. -/
structure Map where
  die : Nat
  off : Nat
  key : Nat
  w : Bool
  big : Bool
deriving DecidableEq, Repr

/-- What a 512-byte data unit of a tier is encrypted under (R317): the key, by its identity, and the data-unit number. -/
structure Seal where
  key : Nat
  dun : Nat
deriving DecidableEq, Repr

/-- An update item (R352): records, rule slot, key slot, block index of the first record, F bit position, and for each component
its physical offset on the die and the virtual address of its first byte (absent: none). -/
structure Item where
  records : Nat
  rule : Nat
  key : Nat
  first : Nat
  fbit : Nat
  comps : List (Option (Nat × Nat))
deriving DecidableEq, Repr

/-- A run of a custom rule on a cellar vector engine (R358, R359, R373): the item and its number, first record and count, the
group's first record within the run, the record within the group, the entry point that runs (0 PRE, 1 REC, 2 POST). -/
structure CveRun where
  item : Item
  num : Nat
  first : Nat
  count : Nat
  group : Nat := 0
  r : Nat := 0
  phase : Nat := 0
deriving DecidableEq, Repr

/-- A cellar vector engine (R342): registers (lane i of kn at 32 n + i), scratch words, the rounding generator's state, the program's
next instruction, and its run. -/
structure Cve where
  k : Tab W32 := []
  scratch : Tab W32 := []
  gen : W64 := 0
  pc : Nat := 0
  run : Option CveRun := none
deriving DecidableEq, Repr

/-- A pass (R355 to R361): the command's fields, whether it has started, the scalars of each rule slot (p j of slot n at 8 n + j),
the next item, the item being split (its number, the item, its next record), runs not finished by item, items refused or failed,
whether any failed, and the report's entries (block index, 0 for lhs or 1 for rhs). -/
structure Pass where
  step : Nat
  lr : W32
  ssq : W32
  dist : Bool
  items : Nat
  table : Nat
  report : Nat
  repcap : Nat
  started : Bool := false
  scalars : Tab W32 := []
  next : Nat := 0
  cur : Option (Nat × Item × Nat) := none
  live : Tab Nat := []
  refused : Nat := 0
  failed : List Nat := []
  floored : List (Nat × Nat) := []
deriving DecidableEq, Repr

/-- A cellar die's sequencer and its vector engines (R342, R355): the running and the queued pass, commands received since the
die's reset, and the norm accumulator (R449): the exact sum as a count of 2^-298, and its non-finite bit. -/
structure Cellar where
  running : Option Pass := none
  queued : Option Pass := none
  cmds : Nat := 0
  cves : Tab Cve := []
  norm : Nat := 0
  nonfinite : Bool := false
deriving DecidableEq, Repr

/-- A packet as it travels (R392): header and payload area, the port g by which it arrived (8: it comes from this package's own
dies), and the time base when its last flit was accepted. -/
structure Pkt where
  bytes : List Byte := []
  gin : Nat := 8
  stamp : W64 := 0
deriving DecidableEq, Repr

/-- A frame sent and not acknowledged (R387 to R391): sequence number, flit bytes, credit return, and times resent. -/
structure Frame where
  seq : Nat
  flits : List Byte
  cvc : Nat := 0
  cred : Nat := 0
  resends : Nat := 0
deriving DecidableEq, Repr

/-- A fabric port's link state (R389 to R398, R410 to R415, R419): flit bytes accepted and not forwarded, the next sequence
number expected, whether frames are discarded until it arrives, whether a NAK is to be sent; the next sequence number to send,
frames unacknowledged, how many of them need no sending now, packets queued, bytes left of a packet begun, payload bytes begun and not yet counted; credit and credit
owed by virtual channel, the channel and source served last; when the next frame is due (1/100 ns), when an acknowledgement
last came, when the port took its state; the lanes of the retrain under way and a GO kept; the notices sent; the departure and
arrival of the partner's last SYNC with its depth and flags; and the bytes of the frame last put on the link. Also the time base when each
flit held was accepted; the lanes in use (R383), the bits of frames not yet in a codeword with their number, the next codeword's place in
the rotation, and the codewords last sent, each with its lane (R387). -/
structure Port where
  rx : List Byte := []
  rxAt : List W64 := []
  rxNext : Nat := 0
  lost : Bool := false
  nak : Bool := false
  txSeq : Nat := 0
  unacked : List Frame := []
  sent : Nat := 0
  txq : List Pkt := []
  begun : List Byte := []
  sentPay : Nat := 0
  credit : Tab Nat := []
  owed : Tab Nat := []
  lastVc : Tab Nat := []
  lastSrc : Tab Nat := []
  due : Nat := 0
  ackAt : Nat := 0
  since : Nat := 0
  lanes : Option Nat := none
  kept : Option Nat := none
  notices : Nat := 0
  syncPeer : W64 := 0
  syncAt : W64 := 0
  syncNext : Nat := 0
  depth : Nat := 255
  flags : Nat := 0
  wire : List Byte := []
  used : Nat := 0
  cwVal : Nat := 0
  cwLen : Nat := 0
  cwLane : Nat := 0
  words : List (Nat × List Nat) := []
deriving DecidableEq, Repr

/-- The time base's discipline (R418 to R422): SYNC exchanges with the parent since locking began, whether the one step is
taken, the correction left to slew in ns, and since when there has been no path to the master or to the primary; and the disciplined rate:
the last correction in ns, the ns it was made over, and when it was made (R422). -/
structure Tim where
  exchanges : Nat := 0
  stepped : Bool := false
  slew : Int := 0
  noPath : Option Nat := none
  noPrimary : Option Nat := none
  rate : Int := 0
  rateSpan : Nat := 0
  ruledAt : Nat := 0
deriving DecidableEq, Repr

/-- A request of this package that its destination has not answered (R401 to R405): TAG, TYPE, destination package and die,
address, bytes asked for or carried, the fill it carries, the space of its job where no core sent it, the times of its first and
latest send, and whether it waits out a busy NAK. -/
structure Req where
  tag : Nat
  kind : Nat
  dst : Nat
  die : Nat := 0
  addr : W64
  len : Nat
  bytes : List Byte := []
  fill : Option Nat := none
  space : Option Nat := none
  first : Nat
  last : Nat
  backoff : Bool := false
deriving DecidableEq, Repr

/-- A request of another package that this one has taken and not yet committed or answered (R254, R401): source package and die,
TAG, TYPE, address, bytes asked for or carried, the peg fill it carries, the translation space of its job here, and the cluster
whose translation unit serves it. -/
structure InReq where
  src : Nat
  sdie : Nat := 0
  tag : Nat
  kind : Nat
  addr : W64
  len : Nat
  bytes : List Byte := []
  fill : Option Nat := none
  space : Nat
  cl : Nat
deriving DecidableEq, Repr

/-- A contribution being summed at an owner (R434 to R436): one segment, or with FP32 input one half of it. The instance and
segment, the next rank to add, how many were added, the running sums, and the packets staged (rank and payload). -/
structure Part where
  inst : Nat
  seg : Nat
  half : Nat
  next : Nat := 0
  n : Nat := 0
  acc : List W32 := []
  staged : List (Nat × List Byte) := []
deriving DecidableEq, Repr

/-- The send unit's instance under way (R429 to R433): its number, the segments sent to each owner by rank, the owners of the round under way
already passed (R431), and whether a translation fault suspends it. -/
structure Send where
  inst : Nat
  sent : Tab Nat := []
  pos : Nat := 0
  suspended : Bool := false
deriving DecidableEq, Repr

/-- A reduction channel's working state (R424 to R457): the next instance to send and the one being sent; at the owner whether the
step is open (0 idle, 1 open, 2 closed, 3 ended), whether an abandoned ready peg stopped the channel, the step's instances closed,
segments written, ranks seen, missing and added, parts under way, whether the deadline instant has been acted on; a norm
channel's contributions at the root (rank, binary64 value, flag), whether the own SCALAR was sent and the result came; at the
distribution's sender the acknowledged segments (sequence number, rank, segment), and the sequence numbers and ranks that failed; at its
receiver the newest sequence number plus 1 applied of each bucket, and the source and TAG of each DIST_DONE applied; and whether the
fall-back cores make the step's sums (R446). -/
structure Chan where
  inst : Nat := 0
  send : Option Send := none
  phase : Nat := 0
  stopped : Bool := false
  closed : List Nat := []
  written : List (Nat × Nat) := []
  seen : List Nat := []
  missing : List Nat := []
  added : List Nat := []
  parts : List Part := []
  late : Bool := false
  scalars : List (Nat × Nat × Bool) := []
  scalarSent : Bool := false
  normDone : Bool := false
  acks : List (Nat × Nat × Nat) := []
  bad : List (Nat × Nat) := []
  applied : Tab Nat := []
  doneSeen : List (Nat × Nat) := []
  fb : Bool := false
deriving DecidableEq, Repr

/-- A job's state on this package (R470). -/
inductive JobSt where
  | loaded | running | paused | finished
deriving DecidableEq, Repr

/-- A core entry of the stage map (R477). -/
structure CoreEnt where
  core : Nat
  image : Nat
  stepOff : Nat
  stepPeg : Nat
  bubOff : Nat
  bubPeg : Nat
deriving DecidableEq, Repr

/-- A serving request queued at this package (R487): its sequence, entry program, priority and slot address. -/
structure ServReq where
  seq : Nat
  prog : Nat
  prio : Nat
  slot : Nat
deriving DecidableEq, Repr

/-- A request slot in use at a taking package (R486 to R488): request id, sequence, when it was taken, latency bound in µs, the
output's bus address and capacity, and whether REQ_DONE has been posted. -/
structure ServSlot where
  id : Nat
  seq : Nat
  taken : Nat
  bound : Nat
  out : Nat
  cap : Nat
  done : Bool := false
deriving DecidableEq, Repr

/-- A teardown under way (R493): when it began, ENDED's reason, and whether a job-ring entry waits for it. -/
structure Teardown where
  began : Nat
  reason : Nat
  entry : Bool
deriving DecidableEq, Repr

/-- A job that is not Gone, held by its translation space (R470 to R493): identifier, state, clusters, DEBUG, first guyline slot,
the ordinal of the step applied last (its key period), job secret, cellar key slot, job measurement; the stage map; channels with
their bucket counts; piece records; serving section; cellar dies that
update its parameters; images and peg runs, for a rewind; tier bytes it uses (by 2 (die - 1) + tier); the arrays of its update items (cellar die, tier-1 offset, items);
the step open or closed last (next ordinal, t, T0, whether it is open, was
late, was ended; since when a rewind runs; recoveries of t), steps completed, since when no step
has been open, since when the step root has had no route, the core step chosen at START; a pause asked for; the mailbox's next sequence and its entries read;
bubbles reached (core, b) and extra micro-batches given in the step; serving requests queued and slots, and the count of requests
taken; and the teardown under way. -/
structure Job where
  id : Nat := 0
  st : JobSt := .loaded
  clusters : Nat := 0
  debug : Bool := false
  fabric : Nat := 1
  period : Nat := 0
  secret : Nat := 0
  keySlot : Nat := 0
  meas : Nat := 0
  stages : List (List Nat) := []
  this : Nat := 0
  micro : Nat := 0
  root : Nat := 0
  steps : Nat := 0
  lead : Nat := 0
  limit : Nat := 0
  mboxPeg : Nat := 0
  mboxN : Nat := 16
  mboxVa : Nat := 0
  cores : List CoreEnt := []
  chans : List (Nat × Nat) := []
  pieces : List (List Byte) := []
  serving : Option ServDef := none
  updDies : List Nat := []
  images : List Image := []
  pegRuns : List (Nat × Nat × W64) := []
  used : Tab Nat := []
  tables : List (Nat × Nat × Nat) := []
  ordinal : Nat := 0
  t : Nat := 0
  t0 : W64 := 0
  open_ : Bool := false
  late : Bool := false
  ended : Bool := false
  rewind : Option Nat := none
  tries : Nat := 0
  stepsDone : Nat := 0
  closedAt : Option Nat := none
  noRoute : Option Nat := none
  freq : Option Nat := none
  pausing : Bool := false
  mboxSeq : Nat := 0
  mboxq : List (List Byte) := []
  bubbles : List (Nat × Nat) := []
  extras : Nat := 0
  queue : List ServReq := []
  slots : Tab (Option ServSlot) := []
  taken : Nat := 0
  ending : Option Teardown := none
deriving DecidableEq, Repr

/-- A ring's counts as the device knows them (R460 to R464): produced, consumed, and failures in a row at the same sequence
number. -/
structure Ring where
  prod : Nat := 0
  cons : Nat := 0
  fails : Nat := 0
deriving DecidableEq, Repr

/-- A ring entry taken (R463): its sequence number, its bytes, and the fault code for which it is refused (0: none). -/
structure Entry where
  seq : Nat
  bytes : List Byte
  bad : Nat := 0
deriving DecidableEq, Repr

/-- A completion entry formed and not yet written (R468): type, job, the identity of the control key, body. -/
structure Held where
  etype : Nat
  job : Nat
  key : Nat
  body : List Byte
deriving DecidableEq, Repr

/-- What the job ring's entry in progress waits for (R467, R469): its relays not answered (package and TAG), whether its own work
is done, its RESULT: status, fault code and detail, and the job and control key it is tagged for (R465). -/
structure Work where
  relays : List (Nat × Nat) := []
  done : Bool := true
  status : Nat := 0
  code : Nat := 0
  detail : Nat := 0
  job : Nat := 0
  key : Nat := 0
deriving DecidableEq, Repr

/-- A page move that the supervisor has been asked for (R322, R354, R490): the space, the page, the cellar die, tier and frame it goes to, whether
its leaf is unmapped and its invalidation under way, and the reply peg and mailbox sequence of the placement request it belongs to. -/
structure PageMove where
  space : Nat
  va : Nat
  cellar : Nat
  tier : Nat
  frame : Nat
  begun : Bool := false
  place : Option (Nat × Nat) := none
deriving DecidableEq, Repr

/-- The rings and queues of the supervisor (R459 to R469): rings by number, job-ring entries taken (the head is in progress),
request-ring entries, entries that came over the fabric for STEP_OPEN and REQ_PASS (space and bytes), completions held, what the
job ring's head waits for, when the rings were polled last, and the page moves asked for (R322). -/
structure Super where
  rings : Tab Ring := []
  jobq : List Entry := []
  reqq : List Entry := []
  fabq : List (Nat × List Byte) := []
  held : List Held := []
  work : Option Work := none
  polled : Nat := 0
  moves : List PageMove := []
deriving DecidableEq, Repr

/-- A logbook entry (R517). -/
structure LogEntry where
  step : Nat
  outcome : Nat
  form : Nat
  detail : Nat
  fault : Nat
  unit : W32
  duration : Nat
  time : W64
  d0 : W32
  d1 : W32
deriving DecidableEq, Repr

/-- Why a bring-up step fails (R518): detail, fault code, unit, detail words. -/
structure BuFail where
  detail : Nat
  fault : Nat := 0
  unit : W32
  d0 : Nat := 0
  d1 : Nat := 0
deriving DecidableEq, Repr

/-- Firmware images taken (R511 to R514): the chunks held (image * 65536 + index), the chunk total of each image, failed checks of
each chunk of the image being taken, in the fabric form the indices asked for and not come, and the image that each die's receiver runs (R515: 1
to 4 cellar sequencers, 5 and 6 link managers). -/
structure Fw where
  chunks : Tab (List Byte) := []
  totals : Tab Nat := []
  fails : Tab Nat := []
  asked : List Nat := []
  running : Tab (List Byte) := []
deriving DecidableEq, Repr

/-- Bring-up (R497 to R517): the step running or last ended, its state (0 none run, 1 running, 2 passed, 3 failed,
4 skipped), when it began, whether its action has been carried out and why it fails, whether the start has ended or reached Ready,
the logbook and the notes dropped; defects of the fuses and of self-test, a reserved BU_SPARE_CORE value written (region, value),
the receiver that does not acknowledge step 14 (die, core index or 0xFF), and the firmware. -/
structure Bu where
  step : Nat := 0
  state : Nat := 0
  began : Nat := 0
  acted : Bool := false
  fail : Option BuFail := none
  ended : Bool := false
  ready : Bool := false
  log : List LogEntry := []
  dropped : Nat := 0
  fuse : Defects := {}
  test : Defects := {}
  spareBad : Option (Nat × Nat) := none
  noAck : Option (Nat × Nat) := none
  fw : Fw := {}
deriving DecidableEq, Repr

/-- A fault record (R529): code, kind, ESC, sequence number, unit, time and detail words, the die that wrote it, and the job whose own fault it
is, with the identity of its control key (R465). -/
structure FaultRec where
  code : Nat
  kind : Nat
  esc : Bool
  seq : Nat
  unit : W32
  time : W64
  d0 : W32
  d1 : W32
  d2 : W32
  d3 : W32
  die : Nat
  job : Option (Nat × Nat) := none
deriving DecidableEq, Repr

/-- A die's fault buffer (R534): records held, oldest first, the next sequence number, the index of the oldest record,
records dropped, and the time of its latest record of each of the codes that R575 limits. -/
structure FaultBuf where
  recs : List FaultRec := []
  next : Nat := 0
  head : Nat := 0
  dropped : Nat := 0
deriving DecidableEq, Repr

/-- A recovery window (R541): level (2 core, 3 cluster, 4 partition, 5 guyline die, codes of R23), the core index, cluster, region or
die, when it began, whether its reset waits (0), runs (1) or is complete (2), the identifier of the first job of the domain (0: none),
and the jobs whose rewind it waits for. -/
structure Recov where
  level : Nat
  target : Nat
  began : Nat
  phase : Nat := 0
  job : Nat := 0
  jobs : List Nat := []
deriving DecidableEq, Repr

/-- The reset that FLT_RESET runs (R521): DOMAIN, TARGET and when it began. -/
structure Rst where
  domain : Nat
  target : Nat
  began : Nat
deriving DecidableEq, Repr

/-- An entry of the trace buffer (R594). -/
structure TraceEnt where
  time : W64
  unit : W32
  kind : Nat
  a : W64
  b : W64
deriving DecidableEq, Repr

/-- The trace buffer (R594): entries by position, the next position, whether it has wrapped, entries lost, and the network cycle (plus
one) of the entry accepted last. -/
structure Trace where
  buf : Tab TraceEnt := []
  next : Nat := 0
  wrapped : Bool := false
  lost : Nat := 0
  busyAt : Nat := 0
deriving DecidableEq, Repr

/-- The TAP (R582, R583): the instruction selected, the values preloaded into the boundary-scan chain, and the result of the last DBGACC
access with its status. -/
structure Tap where
  ir : Nat := 0x01
  chain : List Byte := []
  data : W64 := 0
  status : Nat := 0
deriving DecidableEq, Repr

/-- Pins and the telemetry unit (R605 to R624): PWR_OK, RESET_N, the address straps as sampled, a thermal trip that holds the
package (THERMTRIP_N is low), ALERT_N asserted, whether steward link training has begun, reference clocks lost (100 MHz, 156A, 156B),
and the rail excursions counted and not recorded (R612). -/
structure Pins where
  pwrOk : Bool := true
  resetN : Bool := true
  straps : Nat := 0
  trip : Bool := false
  alert : Bool := false
  link : Bool := true
  lost100 : Bool := false
  lostA : Bool := false
  lostB : Bool := false
  excursions : Nat := 0
deriving DecidableEq, Repr

/-- The power cap (R621, R622): when it last changed, since when it has been below 12, when it was evaluated last, and the energy of
each millisecond of the last second in µJ, newest first. -/
structure Cap where
  changed : Nat := 0
  below : Option Nat := none
  evalAt : Nat := 0
  energy : List Nat := []
deriving DecidableEq, Repr

/-- The block's state. -/
structure State where
  /-- Commands waiting, first in, first out. -/
  pending : List Instr := []
  /-- Nanoseconds of the model. -/
  ns : Nat := 0
  /-- Has the first half of the nanosecond passed? -/
  half : Bool := false
  /-- The fabric time base (R417). -/
  time : W64 := 0
  /-- Registers of the setup space by BAR0 offset; each path's own copy of a DBG_ register is at the offset plus pathKey. -/
  regs : Tab W64 := []
  /-- Cores 0 to 63, and at 64 + q the physical core of region q that carries no identity. -/
  cores : Tab Core := []
  /-- All memories (see Machine/Ops.lean for the keys). -/
  mem : List Host.Cell := []
  /-- Cached translations (R316). -/
  tlb : Tab (Option Map) := []
  /-- What each tier data unit is encrypted under (R317). -/
  sealed : Tab (Option Seal) := []
  /-- Key slots: die * 32 + slot; 0 is empty (R567 to R574). -/
  keys : Tab Nat := []
  /-- Cellar dies 1 to 4: sequencers and vector engines. -/
  cellars : Tab Cellar := []
  /-- Requests of this package not answered. -/
  reqs : List Req := []
  /-- Requests of other packages not committed. -/
  inreqs : List InReq := []
  /-- Fabric ports 0 to 7. -/
  ports : Tab Port := []
  /-- Packets delivered to this package and not acted on. -/
  inbox : List Pkt := []
  /-- Reduction channels 0 to 63. -/
  chans : Tab Chan := []
  /-- Ports marked down: 8 * package + g (R395). -/
  linkMap : Tab Bool := []
  /-- Newest notice number plus 1 seen of each port (R412). -/
  lsSeen : Tab Nat := []
  /-- Streams of other packages at this destination, and each slot's newest (R404). -/
  conns : Tab (Nat × Nat) := []
  /-- Request sequences taken (R404). -/
  taken : List (Nat × Nat) := []
  /-- Next control sequence to a package (R468). -/
  pairOut : Tab Nat := []
  /-- Next control sequence expected of a package. -/
  pairIn : Tab Nat := []
  /-- The time base's discipline. -/
  tim : Tim := {}
  /-- Peg units. -/
  pegs : Pegs := {}
  /-- Fault buffers by die. -/
  fbufs : Tab FaultBuf := []
  /-- Jobs that are not Gone, by translation space. -/
  jobs : List (Nat × Job) := []
  /-- The supervisor's rings and queues. -/
  sup : Super := {}
  /-- Core-done notices (R93). -/
  coreDone : List Nat := []
  /-- The supervisor's watchdog has stopped the package (R544, R618). -/
  stopped : Bool := false
  /-- Bus Master Enable of the steward port (R620). -/
  busMaster : Bool := false
  /-- Notices and messages sent, each a code and its fields. -/
  notices : List (List Nat) := []
  /-- Each path's read latch: register offset and high half (R36). -/
  latch : List (Path × Nat × Nat) := []
  /-- Bring-up. -/
  bu : Bu := {}
  /-- Recovery windows. -/
  recov : List Recov := []
  /-- Records whose recovery waits for the supervisor. -/
  recq : List FaultRec := []
  /-- Records that DBG_CATCH holds (R589). -/
  caughtRecs : List FaultRec := []
  /-- Cores that missed a rewind (R589). -/
  missed : List Nat := []
  /-- The reset that runs. -/
  rst : Option Rst := none
  /-- Guyline dies reset and not yet trained again. -/
  guyOpen : List Nat := []
  /-- When FLT_HEARTBEAT was written last, once step 13 has passed. -/
  beat : Option Nat := none
  /-- SEC_QUOTE. -/
  quote : List Byte := []
  /-- The trace buffer. -/
  trace : Trace := {}
  /-- The TAP. -/
  tap : Tap := {}
  /-- Pins. -/
  pins : Pins := {}
  /-- The power cap. -/
  cap : Cap := {}
  /-- Register block of the physical core of a region that carries no identity (R508). -/
  spares : Tab (Tab W64) := []
  /-- Fused minimum versions (R563). -/
  fusedSvn : W32 := 0
  /-- Fused revocation bits of the Phodel keys (R562). -/
  revoked : Nat := 0
  /-- What the last read command returned. -/
  reply : List Byte := []
  /-- When each limited code was recorded last (R575). -/
  lastRec : Tab Nat := []
  /-- Free values used so far (the model's own). -/
  free : Nat := 0
deriving DecidableEq, Repr


/-- The state right after package reset, with PWR_OK and RESET_N high (DESIGN CHOICE, log entry 11): every register at the reset value
of its table, every memory empty, every queue empty. -/
def State.reset : State := {}

/-- The block of this spec stops on no command: every fault the spec names is a record and a next state. This type has
no constructor a meaning answers with; its one constructor exists so that the type is inhabited. Safe. -/
inductive Fault where
  | none
deriving DecidableEq, Repr

/-- Reasons to refuse a command. -/
inductive Refusal where
  /-- Raised by Dispatch only: no meaning yet for the command named. Safe: no next state is claimed. -/
  | notModelled (mnemonic : String)
deriving DecidableEq, Repr

/-- What a command answers. -/
abbrev Out := Host.Outcome State Fault Refusal

end Sys2Proof.Machine
end

