-- ==== Sys2Proof/Machine/Tab.lean ====
section
/-! DEFINITION. Operations over sparse tables: reading, writing, erasing a range, and the canonical form. -/
namespace Sys2Proof.Tab

/-- The value at key k: the first entry with that key, else the default d of the key. -/
def get {α : Type} (d : Nat → α) : Tab α → Nat → α
  | [], k => d k
  | (a, v) :: t, k => if a = k then v else get d t k

/-- Insert an entry before the first entry of a larger key. -/
def ins {α : Type} (k : Nat) (v : α) : Tab α → Tab α
  | [] => [(k, v)]
  | (a, w) :: t => if k < a then (k, v) :: (a, w) :: t else (a, w) :: ins k v t

/-- Remove the entries of key k. -/
def erase {α : Type} (k : Nat) : Tab α → Tab α
  | [] => []
  | (a, w) :: t => if a = k then erase k t else (a, w) :: erase k t

/-- Write v at key k: an entry equal to the default is not kept. -/
def set {α : Type} [DecidableEq α] (d : Nat → α) (t : Tab α) (k : Nat) (v : α) : Tab α :=
  if v = d k then erase k t else ins k v (erase k t)

/-- Keep the entries whose key passes the test; the other keys read their default again. -/
def keep {α : Type} (p : Nat → Bool) : Tab α → Tab α
  | [] => []
  | (a, w) :: t => if p a then (a, w) :: keep p t else keep p t

/-- Keys strictly rising, all above the bound. -/
def rising {α : Type} : Nat → Tab α → Bool
  | _, [] => true
  | lo, (a, _) :: t => decide (lo ≤ a) && rising (a + 1) t

/-- No entry equal to its key's default. -/
def lean {α : Type} [DecidableEq α] (d : Nat → α) : Tab α → Bool
  | [] => true
  | (a, w) :: t => decide (w ≠ d a) && lean d t

/-- The canonical form: strictly rising keys and no entry equal to its default. -/
def wf {α : Type} [DecidableEq α] (d : Nat → α) (t : Tab α) : Bool := rising 0 t && lean d t

/-- Write a list of values at consecutive keys. -/
def setRange {α : Type} [DecidableEq α] (d : Nat → α) (t : Tab α) (k : Nat) : List α → Tab α
  | [] => t
  | v :: vs => setRange d (set d t k v) (k + 1) vs

/-- The table of f at keys 0 to n - 1. -/
def build {α : Type} [DecidableEq α] (d : Nat → α) (n : Nat) (f : Nat → α) : Tab α :=
  (List.range n).filterMap (fun k => let v := f k; if v = d k then none else some (k, v))

/-- Write a list of entries in order. -/
def setAll {α : Type} [DecidableEq α] (d : Nat → α) (t : Tab α) : List (Nat × α) → Tab α
  | [] => t
  | (k, v) :: vs => setAll d (set d t k v) vs

end Sys2Proof.Tab
end

