-- ==== Sys2Proof/Machine/Ops.lean ====
section
/-! DEFINITION. The named operations over memory, registers, cores and engines, the fault record, and the shared issue
of an instruction (R56 to R64, R90, R91). -/
namespace Sys2Proof.Machine

/-! ### Memory: one list of cells. Keys: a Britum die offset as it stands (R26); a cellar die's offset plus 2^48 times
the die (R30); a bus address of controller memory plus 2^64. A byte nothing has written reads 0. -/

def Memory.dflt : Nat → Byte := fun _ => 0

/-- The canonical form of memory. -/
def Memory.wf (m : List Host.Cell) : Bool := Tab.wf Memory.dflt m

def State.rd8 (s : State) (k : Nat) : Byte := Tab.get Memory.dflt s.mem k

def State.wr (s : State) (k : Nat) (bs : List Byte) : State := { s with mem := Tab.setRange Memory.dflt s.mem k bs }

/-- n bytes from key k. -/
def State.rdBytes (s : State) (k : Nat) : Nat → List Byte
  | 0 => []
  | n + 1 => s.rd8 k :: s.rdBytes (k + 1) n

/-- The little-endian number a list of bytes holds (R8). -/
def leNat : List Byte → Nat
  | [] => 0
  | b :: bs => b.toNat + 256 * leNat bs

/-- The n low bytes of a number, little-endian. -/
def leBytes : Nat → Nat → List Byte
  | 0, _ => []
  | n + 1, v => BitVec.ofNat 8 (v % 256) :: leBytes n (v / 256)

def State.rdLE (s : State) (k n : Nat) : Nat := leNat (s.rdBytes k n)
def State.wrLE (s : State) (k n v : Nat) : State := s.wr k (leBytes n v)

/-- Zero a range of memory: its cells are no longer listed. -/
def State.zeroMem (s : State) (k n : Nat) : State :=
  { s with mem := Tab.keep (fun a => !(decide (k ≤ a ∧ a < k + n))) s.mem }

def storeSize : Nat := 0xC0000
/-- The key of a store-room byte (R26). -/
def storeKey (c off : Nat) : Nat := c * 0x100000 + off
/-- The key of an accumulator-memory byte of OPE e (R26, R28). -/
def accKey (c e off : Nat) : Nat := 0x4000000 + c * 0x40000 + e * 0x20000 + off
def atticKey (k off : Nat) : Nat := 0x6000000 + k * 0x200000 + off
def cellarKey (die off : Nat) : Nat := die * 2 ^ 48 + off
def busKey (a : Nat) : Nat := 2 ^ 64 + a

/-- Change the first entry that passes the test. -/
def replaceFirst {α : Type} (p : α → Bool) (f : α → α) : List α → List α
  | [] => []
  | x :: xs => if p x then f x :: xs else x :: replaceFirst p f xs

/-- Byte i, and the n-byte little-endian field at i, of a list of bytes. -/
def byteAt (bs : List Byte) (i : Nat) : Nat := ((bs[i]?).getD 0).toNat
def fieldAt (bs : List Byte) (i n : Nat) : Nat := leNat ((bs.drop i).take n)

/-! ### Setup registers -/

def State.reg (s : State) (off : Nat) : W64 := Tab.get regReset s.regs off
def State.regN (s : State) (off : Nat) : Nat := (s.reg off).toNat
def State.setReg (s : State) (off : Nat) (v : W64) : State := { s with regs := Tab.set regReset s.regs off v }
def State.setRegN (s : State) (off v : Nat) : State := s.setReg off (BitVec.ofNat 64 v)
/-- Field [lo + len - 1 : lo] of a register. -/
def State.fld (s : State) (off lo len : Nat) : Nat := bitsOf (s.regN off) lo len
def State.setFld (s : State) (off lo len v : Nat) : State := s.setRegN off (withBits (s.regN off) lo len v)
/-- Set bits of a sticky flag register. -/
def State.orReg (s : State) (off mask : Nat) : State := if mask = 0 then s else s.setRegN off (s.regN off ||| mask)
/-- Count in a field that saturates. -/
def State.bump (s : State) (off lo len : Nat) : State := s.setFld off lo len (satInc (s.fld off lo len) len)
/-- Drop every register of a range back to its reset value, but those the test keeps. -/
def State.resetRegs (s : State) (lo hi : Nat) (kept : Nat → Bool) : State :=
  { s with regs := Tab.keep (fun a => kept a || !(decide (lo ≤ a ∧ a < hi))) s.regs }

namespace Reg
def coreBase (c : Nat) : Nat := 0x400000 + c * 0x10000
def coreCode (c : Nat) : Nat := coreBase c + 4
def engStart (c e : Nat) : Nat := coreBase c + 0x10 + 4 * e
def lantern (c : Nat) : Nat := coreBase c + 0xA0
def lanternCount (c : Nat) : Nat := coreBase c + 0xA8
def hang (c e : Nat) : Nat := coreBase c + 0xC0 + 8 * e
def opeBase (c e : Nat) : Nat := coreBase c + 0x2000 + e * 0x2000
def opeFlags (c e : Nat) : Nat := opeBase c e + 0x10
def opeFed (c e : Nat) : Nat := opeBase c e + 0x18
def opeSeed (c e : Nat) : Nat := opeBase c e + 0x20
def tpeFlags (c : Nat) : Nat := coreBase c + 0x6008
def tpeFed (c : Nat) : Nat := coreBase c + 0x6010
def vecFlags (c : Nat) : Nat := coreBase c + 0x8008
def vecSeed (c : Nat) : Nat := coreBase c + 0x8010
def strSplit (c : Nat) : Nat := coreBase c + 0xA000
def strFlags (c : Nat) : Nat := coreBase c + 0xA010
def strMoved (c : Nat) : Nat := coreBase c + 0xA018
def coreFreq (c : Nat) : Nat := 0x20100 + 4 * c
def pkgId : Nat := 0x10040
def pegInitCtrl (k : Nat) : Nat := 0x100000 + k * 0x10000
def pegInitWord (k : Nat) : Nat := pegInitCtrl k + 8
def pegAbandon (k : Nat) : Nat := pegInitCtrl k + 0x10
def pegOverfills (k : Nat) : Nat := pegInitCtrl k + 0x20
def pegDrops (k : Nat) : Nat := pegInitCtrl k + 0x24
def pegChecks (k : Nat) : Nat := pegInitCtrl k + 0x28
def secCounts : Nat := 0x70030
def fltCfg : Nat := 0x50000
end Reg

/-- The package number (R20). -/
def State.pkg (s : State) : Nat := s.fld Reg.pkgId 0 13
/-- The product of the torus shape (R20). -/
def State.torus (s : State) : Nat :=
  (s.fld Reg.pkgId 16 4 + 1) * (s.fld Reg.pkgId 20 4 + 1) * (s.fld Reg.pkgId 24 4 + 1) * (s.fld Reg.pkgId 28 4 + 1)

/-! ### Unit identifier words (R23) -/

def unitWord (pkg die region cl core eng level : Nat) : W32 :=
  BitVec.ofNat 32 (pkg * 2 ^ 19 + die * 2 ^ 16 + region * 2 ^ 14 + cl * 2 ^ 12 + core * 2 ^ 10 + eng * 2 ^ 7 + level * 2 ^ 4)
def State.unitEng (s : State) (c e : Nat) : W32 := unitWord s.pkg 0 (c / 16) (c / 4 % 4) (c % 4) e 1
def State.unitCore (s : State) (c : Nat) : W32 := unitWord s.pkg 0 (c / 16) (c / 4 % 4) (c % 4) 0 2
def State.unitCluster (s : State) (k : Nat) : W32 := unitWord s.pkg 0 (k / 4) (k % 4) 0 0 3
def State.unitRegion (s : State) (q : Nat) : W32 := unitWord s.pkg 0 q 0 0 0 4
def State.unitDie (s : State) (d : Nat) : W32 := unitWord s.pkg d 0 0 0 0 5
def State.unitPkg (s : State) : W32 := unitWord s.pkg 0 0 0 0 0 6

/-! ### Jobs -/

/-- The space of the job that holds cluster k, if any (R470). -/
def State.jobOfCluster (s : State) (k : Nat) : Option Nat := (s.jobs.find? (fun j => j.2.clusters.testBit k)).map (·.1)
def State.jobOfCore (s : State) (c : Nat) : Option Nat := s.jobOfCluster (c / 4)
/-- Does the job in this space hold a cluster of the partition (R272, R284)? -/
def State.partitionRuns (s : State) (q space : Nat) : Bool :=
  (List.range 4).any (fun i => s.jobOfCluster (4 * q + i) == some space)

/-- Is the core held by a job whose DEBUG bit is 0 (R576)? -/
def State.closedCore (s : State) (c : Nat) : Bool :=
  s.jobs.any (fun j => j.2.clusters.testBit (c / 4) && !j.2.debug)

/-! ### Trace and counters (R594 to R597) -/

namespace Reg
def traceCtrl : Nat := 0x80100
def traceSel (i : Nat) : Nat := 0x80108 + 4 * i
def pmuCfg (c i : Nat) : Nat := 0xA0000 + 0x40 * c + 4 * i
def pmuCnt (c i : Nat) : Nat := 0xA0020 + 0x40 * c + 8 * i
def dieCnt (i : Nat) : Nat := 0xB0000 + 8 * i
def dbgCatch : Nat := 0x80018
def pwrStatus : Nat := 0x20010
end Reg

/-- The network cycle of now, of 5/7 ns. -/
def State.netCycle (s : State) : Nat := s.ns * 7 / 5

/-- Put an entry into the trace buffer. Kinds 4 to 6 are never dropped; any other is lost when the buffer has taken an entry in this
network cycle, and is not taken when the buffer is full in stop mode. -/
def State.traceAdd (s : State) (unit : W32) (kind : Nat) (a b : W64) : State :=
  let t := s.trace
  let must := decide (4 ≤ kind ∧ kind ≤ 6)
  if !must && t.wrapped && s.fld Reg.traceCtrl 1 1 == 1 then s
  else if !must && t.busyAt == s.netCycle + 1 then { s with trace := { t with lost := satInc t.lost 32 } }
  else
    { s with trace := { t with
      buf := Tab.set (fun _ => ⟨0, 0, 0, 0, 0⟩) t.buf t.next ⟨s.time, unit, kind, a, b⟩, next := (t.next + 1) % 2048,
      wrapped := t.wrapped || t.next == 2047, busyAt := s.netCycle + 1 } }

/-- Does a selector of DBG_TRACE_SEL take events of this source: 1 issues of the core's engine, 2 its tally operations, 3 peg
operations of its cluster? -/
def State.traced (s : State) (src : Nat) (hit : Nat → Nat → Bool) : Bool :=
  s.fld Reg.traceCtrl 0 1 == 1 && (List.range 4).any (fun i =>
    let r := Reg.traceSel i
    s.fld r 9 2 == src && hit (s.fld r 0 6) (s.fld r 6 3) && !s.closedCore (s.fld r 0 6))

def State.traceIssue (s : State) (c e pc : Nat) : State :=
  if s.traced 1 (fun k x => k == c && x == e) then
    s.traceAdd (unitWord s.pkg 0 (c / 16) (c / 4 % 4) (c % 4) e 1) 1 (BitVec.ofNat 64 pc)
      (BitVec.ofNat 64 (Tab.get (fun _ => {}) s.cores c : Core).cycles)
  else s

def State.traceTally (s : State) (c t v : Nat) (amt : Int) : State :=
  if s.traced 2 (fun k _ => k == c) then
    s.traceAdd (unitWord s.pkg 0 (c / 16) (c / 4 % 4) (c % 4) 0 2) 2 (BitVec.ofNat 64 (t + v * 2 ^ 16)) (BitVec.ofInt 64 amt)
  else s

/-- Count in a register of DBG_DIE_CNT, which wraps. -/
def State.dieCount (s : State) (i n : Nat) : State := if n = 0 then s else s.setRegN (Reg.dieCnt i) (s.regN (Reg.dieCnt i) + n)

/-- A peg operation of a class of R270 has been applied. -/
def State.tracePeg (s : State) (p cls : Nat) (w : W64) : State :=
  let s := s.dieCount 34 1
  if s.traced 3 (fun k _ => k / 4 == p / 4096) then
    s.traceAdd (unitWord s.pkg 0 (p / 16384) (p / 4096 % 4) 0 0 3) 3 (BitVec.ofNat 64 (p + cls * 2 ^ 16)) w
  else s

/-- Count n of an event of a core in the counters that select it (R596). -/
def State.pmu (s : State) (c event sub n : Nat) : State :=
  if n = 0 then s
  else (List.range 4).foldl (fun t i =>
    if t.fld (Reg.pmuCfg c i) 0 4 = event ∧ t.fld (Reg.pmuCfg c i) 4 3 = sub then
      t.setFld (Reg.pmuCnt c i) 0 48 (t.fld (Reg.pmuCnt c i) 0 48 + n)
    else t) s

/-! ### Fault records and the logbook -/

def fbufCap (die : Nat) : Nat := if die = 0 then 1024 else 256

/-- Remove the oldest record of kind 2: the records left and the one removed. -/
def dropEvent : List FaultRec → Option (List FaultRec × FaultRec)
  | [] => none
  | r :: rs => if r.kind = 2 then some (rs, r) else (dropEvent rs).map (fun p => (r :: p.1, p.2))

def State.fbuf (s : State) (d : Nat) : FaultBuf := Tab.get (fun _ => {}) s.fbufs d
def State.setFbuf (s : State) (d : Nat) (b : FaultBuf) : State := { s with fbufs := Tab.set (fun _ => {}) s.fbufs d b }
def State.countDrop (s : State) (d : Nat) : State :=
  s.setFbuf d { s.fbuf d with dropped := satInc (s.fbuf d).dropped 16 }

/-- The level of the domain that a record's recovery names (R537, R545): 2 core, 5 guyline die, 6 package. -/
def FaultRec.recovery (r : FaultRec) (hangAct : Bool) : Option Nat :=
  let engine := decide (r.kind ≤ 1)
  let level := bitsOf r.unit.toNat 4 3
  let own : Option Nat :=
    match r.code with
    | 0x0C1 => if level = 1 ∨ level = 2 then some 2 else none
    | 0x0C5 => if r.d2 = 0 then some 6 else none
    | 0x0C6 => if (r.die = 5 ∨ r.die = 6) ∧ level = 5 then some 5 else some 6
    | 0x218 => if hangAct then some 2 else none
    | 0x302 | 0x311 | 0x312 => some 6
    | n => if engine && decide ((0x041 ≤ n ∧ n ≤ 0x045) ∨ (0x101 ≤ n ∧ n ≤ 0x217)) then some 2 else none
  own.map (fun x => if 1 ≤ bitsOf r.unit.toNat 16 3 ∧ bitsOf r.unit.toNat 16 3 ≤ 4 then 6 else x)

/-- Is the record's recovery not none: a domain, or recovery "step"? -/
def FaultRec.recovers (r : FaultRec) (hangAct : Bool) : Bool :=
  (r.recovery hangAct).isSome || [0x407, 0x502, 0x504, 0x505, 0x507].contains r.code

/-- A record is in the Britum buffer: it is traced, and a recovery it names or escalates waits for the supervisor. -/
def State.entered (s : State) (r : FaultRec) : State :=
  let s := if s.fld Reg.traceCtrl 0 1 = 1 then
    s.traceAdd r.unit 7 (BitVec.ofNat 64 (r.code + r.kind * 2 ^ 12 + boolNat r.esc * 2 ^ 15 + r.seq * 2 ^ 16)) 0 else s
  if (r.recovery (s.fld Reg.fltCfg 2 1 == 1)).isSome || r.esc then { s with recq := s.recq ++ [r] } else s

/-- Put a record into a die's buffer (R534). -/
def State.bufferRecord (s : State) (d : Nat) (r : FaultRec) : State :=
  let b := s.fbuf d
  let put := fun (t : State) (rs : List FaultRec) => (t.setFbuf d { t.fbuf d with recs := rs ++ [r] })
  let enter := fun (t : State) => if d = 0 then t.entered r else t
  if b.recs.length < fbufCap d then enter (put s b.recs)
  else if r.kind = 2 then s.countDrop r.die
  else
    match dropEvent b.recs with
    | none => s.countDrop r.die
    | some (rs, gone) => enter ((put s rs).countDrop gone.die)

/-- Write a logbook entry (R517): the last 32 positions are kept for outcome entries. -/
def State.logEntry (s : State) (e : LogEntry) : State :=
  if e.outcome = 3 && decide (480 ≤ s.bu.log.length) then
    { s with bu := { s.bu with dropped := satInc s.bu.dropped 16 } }
  else if 512 ≤ s.bu.log.length then s
  else { s with bu := { s.bu with log := s.bu.log ++ [e] } }

/-- The form in effect of a step: its plan code (R516). -/
def State.planCode (s : State) (step : Nat) : Nat := if step = 0 then 0 else s.fld 0x10010 (4 * step - 4) 4

/-- A note of the step running, or of the last one ended; before any, of step 1 (R517, R520). -/
def State.note (s : State) (detail fault : Nat) (unit : W32) (d0 d1 : Nat) : State :=
  let n := max 1 s.bu.step
  s.logEntry ⟨n, 3, s.planCode n, detail, fault, unit, 0, s.time, BitVec.ofNat 32 d0, BitVec.ofNat 32 d1⟩

/-- Is the unit inside the domain of a recovery window (R541)? -/
def Recov.covers (r : Recov) (unit : Nat) : Bool :=
  let die := bitsOf unit 16 3
  let region := bitsOf unit 14 2
  let cl := bitsOf unit 12 2
  let core := bitsOf unit 10 2
  let level := bitsOf unit 4 3
  match r.level with
  | 2 => die == 0 && decide (level ≤ 2) && r.target == 16 * region + 4 * cl + core
  | 3 => die == 0 && decide (level ≤ 3) && r.target == 4 * region + cl
  | 4 => die == 0 && decide (level ≤ 4) && r.target == region
  | 5 => die == r.target
  | _ => false

/-- Records that a recovery itself causes never escalate (R541): STR_ABORT of cause 4 and WAIT_ABANDONED. -/
def neverEscalates (code x : Nat) : Bool := (code == 0x183 && bitsOf x 4 3 == 4) || code == 0x215

/-- Write a fault record (R529 to R536), of a job's own fault where job names it (R465). Before Ready it goes to the logbook as a note (R520,
R575). -/
def State.recordFor (s : State) (job : Option (Nat × Nat)) (die code kind : Nat) (unit : W32) (d0 d1 d2 d3 : Nat) : State :=
  if s.bu.ready then
    let b := s.fbuf die
    let r : FaultRec := ⟨code, kind, false, b.next, unit, s.time, BitVec.ofNat 32 d0, BitVec.ofNat 32 d1,
      BitVec.ofNat 32 d2, BitVec.ofNat 32 d3, die, job⟩
    let r := { r with esc := s.recov.any (fun x => x.covers unit.toNat) && !neverEscalates code (bitsOf d0 20 12) &&
                             r.recovers (s.fld Reg.fltCfg 2 1 == 1) }
    (s.setFbuf die { b with next := (b.next + 1) % 2 ^ 16 }).bufferRecord die r
  else s.note 0 code unit d0 d1

def State.record (s : State) (die code kind : Nat) (unit : W32) (d0 d1 d2 d3 : Nat) : State := s.recordFor none die code kind unit d0 d1 d2 d3

/-- An event record with no detail. -/
def State.event (s : State) (die code : Nat) (unit : W32) : State := s.record die code 2 unit 0 0 0 0

/-- A record limited to one a millisecond for each die and code (R575). -/
def State.recordLimited (s : State) (die code : Nat) (unit : W32) (d0 d1 d2 d3 : Nat) : State :=
  let k := die * 4096 + code
  let last := Tab.get (fun _ => 0) s.lastRec k
  if last ≠ 0 && decide (s.time.toNat + 1 < last + 1000000) then s
  else
    let s := { s with lastRec := Tab.set (fun _ => 0) s.lastRec k (s.time.toNat + 1) }
    s.record die code 2 unit d0 d1 d2 d3

/-- An attempt that R575 counts in SEC_COUNTS: field 0 LOCKED, 1 OWNED, 2 REMOTE, 3 TAGKEY. -/
def State.attempt (s : State) (die code field : Nat) (unit : W32) : State :=
  (s.bump Reg.secCounts (16 * field) 16).recordLimited die code unit 0 0 0 0

/-- The die whose slice holds a setup-space offset (R35). -/
def dieOf (off : Nat) : Nat :=
  if off < 0x800000 then 0
  else if off < 0xC00000 then 1 + (off - 0x800000) / 0x100000
  else if off < 0xE00000 then 5 + (off - 0xC00000) / 0x100000 else 0

/-- A refused register write (R37, R628 and the register sections): recorded with ADDR_UNMAPPED at the register's die. -/
def State.unmapped (s : State) (off : Nat) : State := s.event (dieOf off) 0x042 (s.unitDie (dieOf off))

/-! ### Cores and engines -/

def State.core (s : State) (c : Nat) : Core := Tab.get (fun _ => {}) s.cores c
def State.setCore (s : State) (c : Nat) (k : Core) : State := { s with cores := Tab.set (fun _ => {}) s.cores c k }
def Core.eng (k : Core) (e : Nat) : Eng := Tab.get (fun _ => {}) k.engs e
def Core.setEng (k : Core) (e : Nat) (x : Eng) : Core := { k with engs := Tab.set (fun _ => {}) k.engs e x }
def State.eng (s : State) (c e : Nat) : Eng := (s.core c).eng e
def State.setEng (s : State) (c e : Nat) (x : Eng) : State := s.setCore c ((s.core c).setEng e x)
def Core.ope (k : Core) (e : Nat) : Ope := Tab.get (fun _ => {}) k.opes e
def Core.setOpe (k : Core) (e : Nat) (x : Ope) : Core := { k with opes := Tab.set (fun _ => {}) k.opes e x }
def State.ope (s : State) (c e : Nat) : Ope := (s.core c).ope e
def State.setOpe (s : State) (c e : Nat) (x : Ope) : State := s.setCore c ((s.core c).setOpe e x)
def State.tally (s : State) (c t : Nat) : Nat := (Tab.get (fun _ => 0#16) (s.core c).tally t).toNat
def State.setTally (s : State) (c t v : Nat) : State :=
  let k := s.core c
  s.setCore c { k with tally := Tab.set (fun _ => 0#16) k.tally t (BitVec.ofNat 16 v) }
/-- A control-core register: g0 reads as zero (R79). -/
def State.g (s : State) (c n : Nat) : W64 := if n = 0 then 0 else Tab.get (fun _ => 0) (s.core c).g n
/-- Write a control-core register and mark it pending: writes to g0 are discarded (R79, R87). -/
def State.setG (s : State) (c n : Nat) (v : W64) (p : Pend) : State :=
  if n = 0 then s
  else
    let k := s.core c
    s.setCore c { k with g := Tab.set (fun _ => 0) k.g n v, gpend := Tab.set (fun _ => Pend.no) k.gpend n p }
def State.gpend (s : State) (c n : Nat) : Pend := Tab.get (fun _ => Pend.no) (s.core c).gpend n
/-- This core cycle is not quiet: an engine of the core has done something (R290). -/
def State.stir (s : State) (c : Nat) : State := s.setCore c { s.core c with stirred := true }
/-- Something of another island has reached the core: the first core cycle that begins after it is not quiet (R290). -/
def State.stirNext (s : State) (c : Nat) : State := s.setCore c { s.core c with stirNext := true }

/-- Is the engine running or stalled (CORE_CTRL.RUN reads 1)? -/
def EngSt.runs : EngSt → Bool
  | .issuing | .stallWait | .stallQueue | .stallBusy => true
  | _ => false

/-- Does any engine of the core run? -/
def State.coreRuns (s : State) (c : Nat) : Bool := (List.range 6).any (fun e => (s.eng c e).st.runs)

/-- An engine that counts as halted (R93, R588). -/
def Eng.atRest (k : Eng) : Bool := k.dhold || k.st == .halted || k.st == .stopped

/-- Is the core's domain under a reset that FLT_RESET runs (R525, R527)? -/
def State.coreInReset (s : State) (c : Nat) : Bool :=
  match s.rst with
  | some r => (r.domain == 1 && r.target == c) || (r.domain == 2 && r.target == c / 4) || (r.domain == 3 && (r.target == c / 16 || c == 64 + r.target))
  | none => false

/-- Does the core stand still: its clock is held (R41), or its domain is under reset (R527)? -/
def State.still (s : State) (c : Nat) : Bool := (s.core c).clkHeld || s.coreInReset c

/-- Bytes of one instruction of engine e. -/
def insnSize (e : Nat) : Nat := if e = 5 then 4 else 16
def State.codeBase (s : State) (c : Nat) : Nat := s.fld (Reg.coreCode c) 0 8 * 4096
def State.codeLimit (s : State) (c : Nat) : Nat := s.fld (Reg.coreCode c) 16 8 * 4096
/-- Does the address lie in the code region (R51)? -/
def State.inCode (s : State) (c pc : Nat) : Bool := decide (s.codeBase c ≤ pc ∧ pc < s.codeLimit c)

/-- Drop the engine's watches and reports: its wait has ended (R275). -/
def State.endWait (s : State) (c e : Nat) : State :=
  let mine := fun (w : Watch) => w.core == c && w.eng == e
  let s := { s with pegs := { s.pegs with watches := s.pegs.watches.filter (fun w => !mine w),
                                          takes := s.pegs.takes.filter (fun w => !mine w),
                                          reports := s.pegs.reports.filter (fun r => !mine r.1) } }
  s.setEng c e { s.eng c e with reports := [], repNew := [], grant := none }

/-- The detail words of an engine fault (R531). -/
def faultD0 (pc x : Nat) : Nat := pc + (x % 4096) * 2 ^ 20
def faultD1 (pc x : Nat) : Nat := pc + (x / 4096) * 2 ^ 20

/-- Does the catch bit of core c take effect: it is set, and no job with DEBUG 0 holds the core (R589)? -/
def State.catches (s : State) (c : Nat) : Bool := s.fld Reg.dbgCatch c 1 == 1 && !s.closedCore c

/-- A caught core's fault or lantern firing (R589): every other engine takes DHOLD. -/
def State.catchCore (s : State) (c e : Nat) : State :=
  if s.catches c then
    (List.range 6).foldl (fun t x => if x = e then t else t.setEng c x { t.eng c x with dhold := true }) s
  else s

/-- A precise fault (R90): the instruction does not issue, the engine stops at it, and the record is written. A take grant
held for it is sent back (R277). -/
def State.precise (s : State) (c e code x d2 d3 : Nat) : State :=
  let k := s.eng c e
  let s := s.record 0 code 0 (s.unitEng c e) (faultD0 k.pc x) (faultD1 k.pc x) d2 d3
  let s := match k.grant with
    | some p => { s with pegs := { s.pegs with returns := s.pegs.returns ++ [p] } }
    | none => s
  let s := s.endWait c e
  (s.setEng c e { s.eng c e with st := .faulted, fault := code, stepping := false }).catchCore c e

/-- A fault after issue (R91): raised on the instruction at pc, and the engine stops where it now stands. -/
def State.late (s : State) (c e pc code x d2 d3 : Nat) : State :=
  let k := s.eng c e
  let s := s.record 0 code 1 (s.unitEng c e) (faultD0 pc x) (faultD1 k.pc x) d2 d3
  (s.setEng c e { s.eng c e with st := .faulted, fault := code, stepping := false }).catchCore c e

/-! ### Tallies (R71 to R73, R293): the operations of a core cycle stand in Core.tops and are applied at its end -/

/-- Apply one signal, carried by the instruction at pc of engine e: out of range it is not applied, and the fault is raised after issue. -/
def State.tallyOp (s : State) (c e pc t : Nat) (amt : Int) : State :=
  let old := s.tally c t
  let v : Int := old + amt
  if v < 0 then s.late c e pc 0x110 t old (BitVec.ofInt 32 amt).toNat
  else if 65535 < v then s.late c e pc 0x111 t old (BitVec.ofInt 32 amt).toNat
  else (s.setTally c t v.toNat).traceTally c t v.toNat amt

/-- Apply an operation at the end of its cycle: a take, a signal, or a debug write. -/
def State.applyOp (s : State) (c : Nat) (o : TallyOp) : State :=
  match o.group with
  | 0 => (s.setTally c o.tally (s.tally c o.tally - 1)).traceTally c o.tally (s.tally c o.tally - 1) (-1)
  | 3 => s.setTally c o.tally o.amt.toNat
  | _ => s.tallyOp c o.eng o.pc o.tally o.amt

/-- An operation of this core cycle. -/
def State.postOp (s : State) (c : Nat) (o : TallyOp) : State :=
  s.setCore c { s.core c with tops := (s.core c).tops ++ [o], stirred := true }

/-- The cycle's operations in the order of R71: by group, and within a group by engine number. -/
def opOrder (ops : List TallyOp) : List TallyOp :=
  (List.range 4).flatMap (fun g => (List.range 6).flatMap (fun e => ops.filter (fun o => o.group == g && o.eng == e)))

/-- The cycle ends: its operations are applied. -/
def State.applyOps (s : State) (c : Nat) : State :=
  (opOrder (s.core c).tops).foldl (fun t o => t.applyOp c o) (s.setCore c { s.core c with tops := [] })

/-- Takes of a tally made in this cycle. -/
def Core.takesOf (k : Core) (t : Nat) : Nat := (k.tops.filter (fun o => o.group == 0 && o.tally == t)).length

/-- What may still be taken from a tally in this cycle: what the takes so far leave of the value at its start (R60, R72). -/
def State.spare (s : State) (c t : Nat) : Nat := s.tally c t - (s.core c).takesOf t

/-- Engine e takes one from a tally. -/
def State.takeTally (s : State) (c e t : Nat) : State := s.postOp c ⟨0, e, (s.eng c e).pc, t, -1⟩

/-- One signal field at its point (R63): point 0 at issue, 1 at completion. -/
def State.signal (s : State) (c e pc : Nat) (point : Bool) (f : BitVec 16) : State :=
  if f.getLsbD 15 && f.getLsbD 14 == point then
    s.postOp c ⟨1 + boolNat point, e, pc, bitsOf f.toNat 8 6, signedOf f.toNat 8⟩
  else s

def State.signals (s : State) (c e pc : Nat) (point : Bool) (f0 f1 : BitVec 16) : State :=
  (s.signal c e pc point f0).signal c e pc point f1

/-! ### Waits (R58 to R62) -/

def waitKind (w : BitVec 24) : Nat := bitsOf w.toNat 22 2
def waitTally (w : BitVec 24) : Nat := bitsOf w.toNat 16 6
def waitValue (w : BitVec 24) : Nat := bitsOf w.toNat 0 16
def waitTake (w : BitVec 24) : Bool := w.getLsbD 21
/-- The die-wide peg a wait field of core c names (R59). -/
def waitPeg (c : Nat) (w : BitVec 24) : Nat := 4096 * (c / 4) + bitsOf w.toNat 0 12

/-- No reserved bit set in a wait field (R58). -/
def waitFieldOk (w : BitVec 24) : Bool :=
  match waitKind w with
  | 0 => w == 0
  | 1 => true
  | 2 => waitValue w == 0
  | _ => bitsOf w.toNat 16 5 == 0 && bitsOf w.toNat 12 4 == 0

/-- R278: a peg take is the only non-empty wait field. -/
def waitPairOk (a b : BitVec 24) : Bool :=
  !((waitKind a == 3 && waitTake a && waitKind b != 0) || (waitKind b == 3 && waitTake b && waitKind a != 0))

/-- A signal field with no reserved value (R63). -/
def sigFieldOk (f : BitVec 16) : Bool := if f.getLsbD 15 then bitsOf f.toNat 0 8 != 0 else f == 0

def engFieldsOk (w : EngW) : Bool :=
  waitFieldOk w.wait0 && waitFieldOk w.wait1 && waitPairOk w.wait0 w.wait1 && sigFieldOk w.sig0 && sigFieldOk w.sig1

/-- Is one wait field satisfied, at the values of the start of the cycle (R60)? Peg waits need a report of full and live, or the grant of the take (R275, R276). -/
def State.waitOk (s : State) (c e : Nat) (w : BitVec 24) : Bool :=
  match waitKind w with
  | 0 => true
  | 1 => decide (waitValue w ≤ s.tally c (waitTally w))
  | 2 => decide (1 ≤ s.spare c (waitTally w))
  | _ =>
    if waitTake w then (s.eng c e).grant == some (waitPeg c w)
    else (s.eng c e).reports.any (fun r => r.peg == waitPeg c w && r.full && r.st == 0)

/-- Both fields satisfied, their conditions added when two takes name one tally (R60, R61). -/
def State.waitsOk (s : State) (c e : Nat) (w : EngW) : Bool :=
  s.waitOk c e w.wait0 && s.waitOk c e w.wait1 &&
  (if waitKind w.wait0 == 2 && waitKind w.wait1 == 2 && waitTally w.wait0 == waitTally w.wait1
   then decide (2 ≤ s.spare c (waitTally w.wait0)) else true)

/-- The tally take of one field. -/
def State.waitTakeOne (s : State) (c e : Nat) (w : BitVec 24) : State :=
  if waitKind w == 2 then s.takeTally c e (waitTally w) else s

def State.takeWaits (s : State) (c e : Nat) (w : EngW) : State :=
  ((s.waitTakeOne c e w.wait0).waitTakeOne c e w.wait1).endWait c e

/-! ### Loops and the program counter (R53, R67 to R69) -/

/-- The loops and the next address after the instruction at pc, the last of each loop that ends there handled as a back
edge: the new stack, the next address, and whether it is a back edge. -/
def advance (size pc : Nat) : List Loop → List Loop × Nat × Bool
  | [] => ([], pc + size, false)
  | l :: ls =>
    if l.last = pc then
      if 1 < l.left then ({ l with left := l.left - 1 } :: ls, l.first, true) else advance size pc ls
    else (l :: ls, pc + size, false)

def iqCap (e : Nat) : Nat := if e = 5 then 128 else 32

/-- The lowest address the instruction queue still keeps: the first instruction of an active loop that fits it. -/
def keepFrom (e npc : Nat) (ls : List Loop) : Nat :=
  ls.foldl (fun m l => if l.last + insnSize e - l.first ≤ iqCap e * insnSize e then min m l.first else m) npc

/-- The instruction queue entry at an address. -/
def iqAt (iq : List (Nat × Nat)) (pc : Nat) : Option Nat := (iq.find? (fun x => x.1 == pc)).map (·.2)

/-- Does a loop's body fit the instruction queue (R53)? -/
def Loop.fits (l : Loop) (e : Nat) : Bool := decide (l.last + insnSize e - l.first ≤ iqCap e * insnSize e)

/-- Does the instruction at the program counter end in a back edge whose body's start must be refetched (R53): a body that does not fit, or
of which the queue was discarded since it was last entered? -/
def Eng.refetches (k : Eng) (e : Nat) : Bool :=
  let r := advance (insnSize e) k.pc k.loops
  r.2.2 && (match r.1 with
    | l :: _ => !l.fits e || l.lost || (iqAt k.iq l.first).isNone
    | [] => false)

/-- The loops once the queue has been discarded; with entered, the innermost body is entered anew. -/
def loseLoops (entered : Bool) : List Loop → List Loop
  | [] => []
  | l :: ls => { l with lost := !entered } :: ls.map (fun x => { x with lost := true })

/-- Move on in sequence past the instruction at the program counter. A back edge that refetches discards the queue. -/
def Eng.goNext (k : Eng) (e : Nat) : Eng :=
  let r := advance (insnSize e) k.pc k.loops
  if k.refetches e then { k with loops := loseLoops true r.1, pc := r.2.1, iq := [], st := .issuing }
  else { k with loops := r.1, pc := r.2.1, iq := k.iq.filter (fun x => decide (keepFrom e r.2.1 r.1 ≤ x.1)), st := .issuing }

/-- A taken transfer (R52): the queue is discarded. -/
def Eng.goTo (k : Eng) (target : Nat) : Eng := { k with loops := loseLoops false k.loops, pc := target, iq := [], st := .issuing }

/-- May the instruction at pc jump to target under R69? -/
def Eng.jumpOk (k : Eng) (target : Int) : Bool :=
  match k.loops with
  | [] => true
  | l :: _ => decide (k.pc ≠ l.last) && decide ((l.first : Int) ≤ target ∧ target ≤ (l.last : Int))

/-! ### Issue -/

/-- What an instruction's own part answers at issue: a stall, a precise fault (code, X, D2, D3), or the state after its
effect, with where the program goes (none: in sequence) and what it leaves to complete (none: complete at issue). -/
inductive IssueRes where
  | stall (k : EngSt)
  | fault (code x d2 d3 : Nat)
  | go (s : State) (target : Option Nat) (left : Option Issued)

/-- What the front end finds before the instruction itself is looked at (R51, R57): not an event of this engine now, a
stall, a fault, or the instruction is next to issue. -/
inductive Front where
  | idle | stall | fault (code : Nat) | ok
deriving DecidableEq, Repr

/-- An opcode reserved on the engine (R57, R80, R132, R175, R194, R226). -/
def opcReserved (e opc : Nat) : Bool :=
  if e = 5 then
    !(decide (1 ≤ opc ∧ opc ≤ 0x0B) || decide (0x10 ≤ opc ∧ opc ≤ 0x16) || decide (0x18 ≤ opc ∧ opc ≤ 0x1B)
      || decide (0x20 ≤ opc ∧ opc ≤ 0x28) || opc == 0x30 || opc == 0x31 || decide (0x34 ≤ opc ∧ opc ≤ 0x39)
      || opc == 0x3C || opc == 0x3E)
  else
    !(decide (1 ≤ opc ∧ opc ≤ 6) ||
      (if e ≤ 1 then decide (0x10 ≤ opc ∧ opc ≤ 0x14)
       else if e = 2 then decide (0x10 ≤ opc ∧ opc ≤ 0x13)
       else if e = 3 then decide (0x10 ≤ opc ∧ opc ≤ 0x1B) else opc == 0x10))

/-- The opcode that halts engine e. -/
def haltOpc (e : Nat) : Nat := if e = 5 then 0x3E else 6

def opcOf (e word : Nat) : Nat := if e = 5 then bitsOf word 26 6 else bitsOf word 0 8

/-- May engine e issue in this core cycle, if an instruction is there: it runs, no hold, held clock or reset keeps it, and its HALT is not
completing? -/
def State.able (s : State) (c e : Nat) : Bool :=
  let k := s.eng c e
  k.st.runs && (!k.dhold || k.stepping) && !s.still c && !(s.core c).halts.contains e

/-- The front end of engine e for the instruction word that a command says issues. An engine issues at most one instruction in a core cycle,
and after a taken transfer none for six (R50, R52, R79). -/
def State.front (s : State) (c e word : Nat) : Front :=
  let k := s.eng c e
  if !s.able c e then .idle
  else if (s.core c).cycles < k.next then (if (s.core c).cycles + 1 = k.next then .idle else .stall)
  else if k.out.any (fun i => i.opc == haltOpc e) then .stall
  else if !s.inCode c k.pc then .fault 0x102
  else
    match iqAt k.iq k.pc with
    | none => .stall
    | some w =>
      if w = word then .ok
      else if opcReserved e (opcOf e w) then .fault 0x101
      else .idle

/-- The encoding of an engine instruction (R56). -/
def engEnc (w : EngW) (opc : Nat) : Nat :=
  opc + w.opnd.toNat * 2 ^ 8 + w.wait0.toNat * 2 ^ 48 + w.wait1.toNat * 2 ^ 72 + w.sig0.toNat * 2 ^ 96 + w.sig1.toNat * 2 ^ 112

/-- Stall the engine (R89): nothing but its shown state changes. -/
def State.stalled (s : State) (c e : Nat) (k : EngSt) : State := s.setEng c e { s.eng c e with st := k }

/-- The engine as an issue in core cycle n leaves it: its program goes on to the target or in sequence, and a debug step ends. -/
def Eng.moved (k : Eng) (e n : Nat) (target : Option Nat) (left : Option Issued) : Eng :=
  let k := match target with
    | some t => k.goTo t
    | none => k.goNext e
  let k := match left with
    | some i => { k with out := k.out ++ [i] }
    | none => k
  { k with stepping := false, next := n + 1 }

/-- A core after its engine e has issued: a transfer of its program is among the cycle's jumps (R52). -/
def Core.afterIssue (k : Core) (e : Nat) (target : Option Nat) (left : Option Issued) : Core :=
  { k.setEng e ((k.eng e).moved e k.cycles target left) with
    stirred := true, steps := k.steps + (if (k.eng e).stepping then 1 else 0)
    jumps := k.jumps ++ (if target.isSome || (k.eng e).refetches e then [e] else []) }

/-- The instruction at pc issues: the program goes on, its waits' takes were made, its issue-point signals apply, and it completes or stays
outstanding. -/
def State.finish (s : State) (c e pc : Nat) (sig0 sig1 : BitVec 16) (target : Option Nat) (left : Option Issued) : State :=
  let s := ((s.setCore c ((s.core c).afterIssue e target left)).traceIssue c e pc).pmu c 2 e 1
  let s := s.signals c e pc false sig0 sig1
  match left with
  | some _ => s
  | none => s.signals c e pc true sig0 sig1

/-- Issue of an engine instruction (R57, R60, R90): own is whether its own bits hold no reserved value, body its part. -/
def State.issue (s : State) (c e opc : Nat) (w : EngW) (own : Bool) (body : State → IssueRes) : Out :=
  match s.front c e (engEnc w opc) with
  | .idle => .next s
  | .stall => .next (s.stalled c e .stallBusy)
  | .fault code => .next (s.precise c e code 0 0 0)
  | .ok =>
    if !(own && engFieldsOk w) then .next (s.precise c e 0x101 0 0 0)
    else if !s.waitsOk c e w then .next (s.stalled c e .stallWait)
    else
      match body s with
      | .stall k => .next (s.stalled c e k)
      | .fault code x d2 d3 => .next (s.precise c e code x d2 d3)
      | .go t target left => .next ((t.takeWaits c e w).finish c e (s.eng c e).pc w.sig0 w.sig1 target left)

/-- What an instruction that completes later leaves (no bytes written unless said). -/
def engLeft (w : EngW) (s : State) (c e opc ready lo len : Nat) : Option Issued :=
  some { pc := (s.eng c e).pc, opc := opc, sig0 := w.sig0, sig1 := w.sig1, ready := (s.core c).cycles + ready, lo := lo, len := len }

/-- Apply the completion-point signals of an outstanding instruction (R64). -/
def State.complete (s : State) (c e : Nat) (pc : Nat) (sig0 sig1 : BitVec 16) : State := s.signals c e pc true sig0 sig1

/-- Pop the head of an address or parameter queue (R77). -/
def State.popA (s : State) (c e : Nat) : State := s.setEng c e { s.eng c e with aq := (s.eng c e).aq.drop 1 }
def State.popP (s : State) (c e : Nat) : State := s.setEng c e { s.eng c e with pq := (s.eng c e).pq.drop 1 }

/-! ### Reduction channels -/

def State.chan (s : State) (c : Nat) : Chan := Tab.get (fun _ => {}) s.chans c
def State.setChan (s : State) (c : Nat) (x : Chan) : State := { s with chans := Tab.set (fun _ => {}) s.chans c x }

/-- The channel and the sequence number of a reduction packet's TAG (R432). -/
def tagChan (t : Nat) : Nat := t % 64
def tagBucket (t : Nat) : Nat := t / 64 % 1024
def tagInst (t : Nat) : Nat := t / 65536

/-- A channel's send unit gives up the instance it sends: nothing more of it is sent or resent. -/
def State.stopSend (s : State) (c : Nat) : State :=
  let x := s.chan c
  { s.setChan c { x with send := none, inst := match x.send with
      | some y => y.inst + 1
      | none => x.inst } with
    reqs := s.reqs.filter (fun r => !(r.kind == 0x10 && tagChan r.tag == c)) }

/-- A free value: the counter moves on, so that the next one is another. -/
def State.tickFree (s : State) : State := { s with free := s.free + 1 }

end Sys2Proof.Machine
end

