-- ==== Sys2Proof/Machine/Tile.lean ====
section
/-! DEFINITION. Tiles in memory (R199 to R204): slot sizes, lines, blocks and their scales, reading an element, and the bytes
of converted lines (R119, R152 to R160). -/
namespace Sys2Proof.Machine

/-- Data bytes of a 32-element line of a format (code 11 is INT8). -/
def lineBytes (fmt : Nat) : Nat := 4 * elemBits fmt

/-- Bytes of a block group of a block-scaled format (R203). -/
def groupBytes (fmt : Nat) : Nat := 4 + 4 * lineBytes fmt

/-- Bytes of a tile without a tile scale (R201). -/
def tileBytes (fmt : Nat) : Nat := if isBlock fmt then 8 * groupBytes fmt else 32 * lineBytes fmt

/-- First data byte of line l. -/
def lineAt (fmt l : Nat) : Nat :=
  if isBlock fmt then (l / 4) * groupBytes fmt + 4 + (l % 4) * lineBytes fmt else l * lineBytes fmt

/-- The scale byte of line l of a block-scaled tile. -/
def scaleAt (fmt l : Nat) : Nat := (l / 4) * groupBytes fmt + l % 4

/-- The code of element m of line l, read through rd from the tile address. -/
def elemCode (rd : Nat → Nat) (fmt l m : Nat) : Nat :=
  let b := elemBits fmt
  let at_ := lineAt fmt l + b * m / 8
  let n := (b * m % 8 + b + 7) / 8
  let v := (List.range n).foldl (fun a i => a + rd (at_ + i) * 256 ^ i) 0
  bitsOf v (b * m % 8) b

/-- A little-endian word read through rd. -/
def word32 (rd : Nat → Nat) (a : Nat) : W32 :=
  BitVec.ofNat 32 (rd a + rd (a + 1) * 256 + rd (a + 2) * 65536 + rd (a + 3) * 16777216)

/-- The byte reader of core c's store room from an address. -/
def State.storeRd (s : State) (c base : Nat) (o : Nat) : Nat := (s.rd8 (storeKey c (base + o))).toNat

/-- The FP32 tile scale before the tile address. -/
def State.tileScale (s : State) (c base : Nat) : W32 := word32 (s.storeRd c (base - 4)) 0

/-- Does a run of n bytes from a fit the store room, 4-byte aligned (R103)? back: bytes that lie before a. -/
def fits (a n back align : Nat) : Bool := a % align == 0 && decide (back ≤ a ∧ a + n ≤ storeSize)

/-! ### Writing lines -/

/-- One element as it leaves a conversion: not live (its byte is not written), or a code. -/
abbrev Cell := Option Nat

/-- A run of bytes to write at an offset from the tile address. -/
abbrev Run := Nat × List Byte

/-- The bytes of a line: one run when every element is live, else a run for each live element of 8 bits or more. -/
def lineRuns (fmt l : Nat) (cells : List Cell) : List Run :=
  let b := elemBits fmt
  if cells.all Option.isSome then
    [(lineAt fmt l, leBytes (lineBytes fmt) ((List.range 32).foldl (fun a m => a + ((cells[m]?).join.getD 0) * 2 ^ (b * m)) 0))]
  else (List.range 32).filterMap (fun m => ((cells[m]?).join).map (fun v => (lineAt fmt l + b * m / 8, leBytes (b / 8) v)))

/-- Write runs relative to a key. -/
def State.wrRuns (s : State) (key : Nat) (rs : List Run) : State := rs.foldl (fun t r => t.wr (key + r.1) r.2) s

/-- A value with its draw: rne, or stochastic with its u. -/
def rndOf (us : Option (List Nat)) (k : Nat) : Rnd :=
  match us with
  | none => .rne
  | some l => .sr ((l[k]?).getD 0)

/-- Convert 32 values of a line to a block of a block-scaled format (R155): the scale byte and the cells. Values are FP32
bits with their live marks; rnd gives each its rounding. -/
def blockOut (fmt : Nat) (vs : List (W32 × Bool)) (rnd : Nat → Rnd) : Nat × List Cell :=
  let live := (vs.filter (·.2)).map (fun v => num32 v.1)
  let emax := match fmtOf fmt with
    | some f => f.emax
    | none => 0
  match scaleExp live emax (-127) 127 with
  | none => (0xFF, vs.map (fun v => if v.2 then some 0 else none))
  | some e =>
    let el := fun (m : Nat) (v : W32) => match fmtOf fmt with
      | some f => f.elemOut (rnd m) (num32 v) e
      | none => mxint8Out (rnd m) (num32 v) e
    ((e + 127).toNat, (List.range 32).map (fun m => match vs[m]? with
      | some (v, true) => some (el m v)
      | _ => none))

/-- Widened element m of line l of a tile at base of core c's store room (R139): tile scale if ts. -/
def State.tileWord (s : State) (c base fmt : Nat) (ts : Bool) (l m : Nat) : W32 :=
  let rd := s.storeRd c base
  let code := elemCode rd fmt l m
  if ts then widen fmt code (some (num32 (s.tileScale c base)))
  else if isBlock fmt then widen fmt code (some (e8m0 (rd (scaleAt fmt l))))
  else widen fmt code none

end Sys2Proof.Machine
end

