-- ==== Sys2Proof/Machine/Encoding.lean ====
section
/-! DEFINITION. The operand fields of the engine instructions, and which of their bits hold no reserved value (R10, R57): insnOwn says it of
an instruction's own bits, insnOk of the whole word. -/
namespace Sys2Proof.Machine

/-! ### DRP (R114 to R122) -/

def drpMode (o : BitVec 40) : Nat := bitsOf o.toNat 0 2
def drpPre (o : BitVec 40) : Nat := bitsOf o.toNat 2 3
def drpRow (o : BitVec 40) : Nat := bitsOf o.toNat 5 10
def drpProw (o : BitVec 40) : Nat := bitsOf o.toNat 15 10
def drpFmt (o : BitVec 40) : Nat := bitsOf o.toNat 25 4
def drpOts (o : BitVec 40) : Bool := o.getLsbD 29
def drpOsr (o : BitVec 40) : Bool := o.getLsbD 30
def drpOord (o : BitVec 40) : Bool := o.getLsbD 31
def drpMasked (o : BitVec 40) : Bool := o.getLsbD 32
def drpBias (o : BitVec 40) : Bool := drpPre o == 2 || drpPre o == 5
def drpEntry (o : BitVec 40) : Bool := drpMode o == 3 || drpBias o

/-- The instruction's own bits (R114, R119, R121, R151). -/
def drpOwn (o : BitVec 40) : Bool :=
  let d := drpMode o
  let p := drpPre o
  decide (o.toNat < 2 ^ 33) && !(d == 0 && p == 0) && decide (p ≤ 5) &&
  (if d == 1 || d == 2 then decide (drpRow o ≤ 992) else drpRow o == 0) &&
  (if p == 3 then decide (drpProw o ≤ 992) else drpProw o == 0) &&
  (if d == 3 then decide (drpFmt o ≤ 10) && !(drpOsr o && drpFmt o == 10) && !(drpOts o && drpFmt o != 2 && drpFmt o != 3)
   else bitsOf o.toNat 25 7 == 0) &&
  (d != 0 || !drpMasked o)

/-! ### VEC (R177 to R195) -/

def fVA (w : EngW) : Nat := bitsOf w.opnd.toNat 6 6
def fVB (w : EngW) : Nat := bitsOf w.opnd.toNat 12 6
def fVC (w : EngW) : Nat := bitsOf w.opnd.toNat 18 6
def fFunc (w : EngW) : Nat := bitsOf w.opnd.toNat 24 4
def fSub (w : EngW) : Nat := bitsOf w.opnd.toNat 28 4

def memFmt (w : EngW) : Nat := bitsOf w.opnd.toNat 6 4
def memAq (w : EngW) : Bool := w.opnd.getLsbD 10
def memSr (w : EngW) : Bool := w.opnd.getLsbD 11
def memHalf (w : EngW) : Nat := bitsOf w.opnd.toNat 12 1
def memCnt (w : EngW) : Nat := bitsOf w.opnd.toNat 14 6 + 1
def memOff (w : EngW) : Nat := bitsOf w.opnd.toNat 20 20

/-- Reserved values of VLD and VST (R181, R183, R190, R194). -/
def memOwn (w : EngW) (store : Bool) : Bool :=
  let f := memFmt w
  decide (f ≤ 11) && !w.opnd.getLsbD 13 &&
  (if isBlock f then memCnt w == 64 else memHalf w == 0) &&
  (if memSr w then store && f != 10 else true)

/-- Registers VARITH's function reads, in field order. -/
def varithReads (w : EngW) : List Nat :=
  let f := fFunc w
  if f = 3 ∨ f = 4 then [fVA w, fVB w, fVC w] else if f = 7 ∨ f = 8 then [fVA w] else [fVA w, fVB w]

/-- Unused register fields are zero: n of VA, VB and VC are used, and nothing above bit hi (R194). -/
def regsOwn (w : EngW) (n hi : Nat) : Bool :=
  (decide (2 ≤ n) || fVB w == 0) && (decide (3 ≤ n) || fVC w == 0) && decide (w.opnd.toNat < 2 ^ hi)

/-! ### STRM (R226, R227) -/

def strmFlag (w : EngW) (b : Nat) : Bool := w.opnd.getLsbD b
def strmEntries (w : EngW) : Nat := boolNat (strmFlag w 20) + boolNat (strmFlag w 21) + boolNat (strmFlag w 22) + boolNat (strmFlag w 23)
def strmOwn (w : EngW) : Bool := decide (w.opnd.toNat < 2 ^ 24) && !(strmFlag w 20 && bitsOf w.opnd.toNat 0 20 != 0)

/-! ### All engines -/

/-- The instruction's own operand bits hold no reserved value and no field it does not use is other than zero. An opcode that the engine
does not have answers false. -/
def insnOwn (e opc : Nat) (w : EngW) : Bool :=
  let o := w.opnd.toNat
  if opc = 2 then decide (1 ≤ o ∧ o < 4096)
  else if opc = 3 then decide (o < 2 ^ 16)
  else if opc < 7 then opc != 0 && w.opnd == 0
  else
    match e with
    | 0 | 1 =>
      (match opc with
      | 0x10 => decide (o < 2 ^ 13 ∧ bitsOf o 0 4 ≤ 10 ∧ bitsOf o 4 4 ≤ 10)
      | 0x11 => w.opnd == 0
      | 0x12 => drpOwn w.opnd
      | 0x13 => decide (o < 64 ∧ bitsOf o 0 4 ≤ 10 ∧ bitsOf o 0 4 ≠ 9)
      | 0x14 => decide (o < 2)
      | _ => false)
    | 2 =>
      (match opc with
      | 0x10 => decide (o < 512)
      | 0x11 => decide (o < 2 ^ 17)
      | 0x12 => decide (o < 2 ^ 18)
      | 0x13 => decide (o < 1024)
      | _ => false)
    | 3 =>
      let f := fFunc w
      (match opc with
      | 0x10 => memOwn w false
      | 0x11 => memOwn w true
      | 0x12 => decide (f ≤ 14) && regsOwn w (varithReads w).length 28
      | 0x13 => decide (f ≤ 6) && regsOwn w 2 28
      | 0x14 => f == 0 && regsOwn w 3 28
      | 0x15 => (f == 0 || f == 5 || f == 6) && decide (1 ≤ fSub w ∧ fSub w ≤ 6) && regsOwn w 1 32
      | 0x16 => decide (f ≤ 3) && regsOwn w 2 28
      | 0x17 => decide (f ≤ 2) && (if f = 0 then decide (fSub w ≤ 3) || fSub w == 11 else fSub w == 0 && !w.opnd.getLsbD 32) && regsOwn w 1 33
      | 0x18 => decide (f ≤ 5) && regsOwn w 1 28
      | 0x19 => decide (o < 2 ^ 39)
      | 0x1A => decide (o < 64)
      | 0x1B => bitsOf o 1 9 == 0 && bitsOf o 11 9 == 0
      | _ => false)
    | _ => opc == 0x10 && strmOwn w

/-- The fields of an engine instruction's word (R56). -/
def engWOf (x : Nat) : EngW :=
  ⟨BitVec.ofNat 40 (bitsOf x 8 40), BitVec.ofNat 24 (bitsOf x 48 24), BitVec.ofNat 24 (bitsOf x 72 24), BitVec.ofNat 16 (bitsOf x 96 16),
    BitVec.ofNat 16 (bitsOf x 112 16)⟩

/-- An instruction word of engine e, 0 to 4, that is not refused for its own bits (R57, R278). -/
def insnOk (e x : Nat) : Bool := !opcReserved e (bitsOf x 0 8) && engFieldsOk (engWOf x) && insnOwn e (bitsOf x 0 8) (engWOf x)

end Sys2Proof.Machine
end

