-- ==== Sys2Proof/Machine/Setup.lean ====
section
/-! DEFINITION. Writes to the setup space: which path may write a register (R38, R39, R498, R94 and the register sections),
locks (R12), and the write of a register without behaviour of its own under its field types (R11, R628). -/
namespace Sys2Proof.Machine

/-- Each path's own copy of a DBG_ register lies at its offset plus this (R580 of 18_debug_and_telemetry.md). -/
def pathKey : Path → Nat
  | .steward => 0
  | .jtag => 2 ^ 24
  | .supervisor _ => 2 ^ 25

/-- Is the package in reset (R605): RESET_N low, PWR_OK low, or a thermal trip holds it? -/
def State.inReset (s : State) : Bool := !s.pins.pwrOk || !s.pins.resetN || s.pins.trip

/-- Is the offset in the DBG_ block? -/
def inDbg (off : Nat) : Bool := decide (0x80000 ≤ off ∧ off < 0xC0000)

/-- Has bring-up step n ended (passed, failed or skipped)? -/
def Bu.stepEnded (b : Bu) (n : Nat) : Bool := decide (n < b.step) || (b.step == n && decide (2 ≤ b.state))

/-- The core whose per-core block holds the offset. -/
def coreAt (off : Nat) : Option Nat := if 0x400000 ≤ off ∧ off < 0x800000 then some ((off - 0x400000) / 0x10000) else none

/-- Registers that only the supervisor writes after Ready (R39, R575 and the register sections). -/
def State.supOwned (s : State) (off : Nat) : Bool :=
  let cel := (off - 0x800000) % 0x100000
  let guy := (off - 0xC00000) % 0x100000
  if 0x70000 ≤ off ∧ off < 0x80000 then !(decide (0x70400 ≤ off ∧ off < 0x70444))
  else
    s.bu.ready &&
    (if off < 0x10000 then false
     else if off < 0x20000 then true
     else if off < 0x50000 then false
     else if off < 0x70000 then true
     else if off < 0xC0000 then false
     else if off < 0x400000 then true
     else if off < 0x800000 then ((coreAt off).bind s.jobOfCore).isSome
     else if off < 0xC00000 then decide (cel < 0x40000 ∨ 0x80000 ≤ cel)
     else decide (0x40000 ≤ guy ∧ guy < 0x80000) || decide (0x90000 ≤ guy ∧ guy < 0xA0000) || decide (0x800 ≤ guy ∧ guy < 0x804))

/-- Registers that a running bring-up step has taken at its GO (R498). -/
def State.inUse (s : State) (off : Nat) : Bool :=
  let pkgId := off == 0x10040
  let freq := decide (0x20100 ≤ off ∧ off < 0x20200)
  let remap := (coreAt off).isSome && (off % 0x10000 == 0x2000 || off % 0x10000 == 0x4000)
  let cel := (off - 0x840000) % 0x100000
  let t1 := decide (0x840000 ≤ off ∧ off < 0xC00000) && decide (cel < 4)
  let t2 := decide (0x840000 ≤ off ∧ off < 0xC00000) && decide (8 ≤ cel ∧ cel < 12)
  let port := decide (0xC00000 ≤ off ∧ off < 0xE00000) && decide ((off - 0xC00000) % 0x100000 < 0x400) && off % 0x100 == 0
  let wait := off == 0x10018
  let plan := decide (0x10010 ≤ off ∧ off < 0x10018)
  s.bu.state == 1 &&
  (match s.bu.step with
   | 1 => plan || wait || pkgId
   | 4 => decide (0x10030 ≤ off ∧ off < 0x10040)
   | 5 => off == 0x10044 || remap
   | 6 => freq
   | 8 => t1
   | 9 => t2
   | 10 => pkgId || port || wait
   | 11 => decide (0x30000 ≤ off ∧ off < 0x30004) || pkgId
   | 12 => plan || pkgId || wait || freq
   | 13 => decide (0x10100 ≤ off ∧ off < 0x10144) || wait
   | _ => false)

/-- Is the register's RWL lock down for this path (R12, R496)? -/
def State.locked (s : State) (path : Path) (off : Nat) : Bool :=
  let b := s.bu
  let begun := decide (1 ≤ b.step)
  let cel := (off - 0x840000) % 0x100000
  let steward := match path with | .supervisor _ => false | _ => true
  if 0x10010 ≤ off ∧ off < 0x10018 then begun
  else if off = 0x10018 then b.ready
  else if 0x10030 ≤ off ∧ off < 0x10040 then b.stepEnded 4
  else if off = 0x10040 then b.stepEnded 11 || (begun && s.planCode 10 == 1)
  else if off = 0x10044 then b.stepEnded 5
  else if 0x10100 ≤ off ∧ off < 0x10144 then b.stepEnded 13
  else if 0x20100 ≤ off ∧ off < 0x20200 then b.ready && steward
  else if off = 0x20008 then b.ready
  else if 0x30000 ≤ off ∧ off < 0x30004 then b.stepEnded 11
  else if 0x400000 ≤ off ∧ off < 0x800000 then b.stepEnded 5
  else if 0x840000 ≤ off ∧ off < 0xC00000 then (if cel < 8 then b.stepEnded 8 else b.stepEnded 9)
  else b.stepEnded 10 && !s.guyOpen.contains (if off < 0xD00000 then 5 else 6)

/-- The unit that a register belongs to, at the lowest level that a note can name (R519): a core, a cellar or guyline die, or the package. -/
def State.regUnit (s : State) (off : Nat) : W32 :=
  match coreAt off with
  | some c => s.unitCore c
  | none =>
    if 0x20100 ≤ off ∧ off < 0x20200 then s.unitCore ((off - 0x20100) / 4)
    else if dieOf off = 0 then s.unitPkg else s.unitDie (dieOf off)

/-- The refusal of a write to a register at offset off by a path, if it is refused: nothing is reached in reset, JTAG writes only the
DBG_ block, a supervisor's register after Ready, a register a running step uses, a register of a running core other than CORE_CTRL. -/
def State.guard (s : State) (path : Path) (off : Nat) : Option State :=
  let owned := match path with
    | .steward => s.supOwned off
    | _ => false
  match path with
  | .jtag => if inDbg off && !s.inReset then none else some s
  | _ =>
    if s.inReset then some s
    else if owned then some (s.attempt (dieOf off) 0x702 1 (s.unitDie (dieOf off)))
    else if s.inUse off then some (s.note 0 0x082 (s.regUnit off) 0 0)
    else
      match coreAt off with
      | some c => if s.coreRuns c && off % 0x10000 != 0 then some (s.unmapped off) else none
      | none => none

/-- The latch of a path, and the state with it consumed. -/
def State.takeLatch (s : State) (path : Path) : State × Option (Nat × Nat) :=
  ({ s with latch := s.latch.filter (fun x => x.1 != path) }, (s.latch.find? (fun x => x.1 == path)).map (·.2))

/-- A setup access by a path consumes the path's latch (R36); in reset nothing is reached (R605). -/
def State.accessed (s : State) (path : Path) : State := if s.inReset then s else (s.takeLatch path).1

/-- A write that passes the guard has its effect; a refused one leaves its record. Either way the path's latch is consumed. -/
def State.guarded (s : State) (path : Path) (off : Nat) (f : State → State) : Out :=
  let s := s.accessed path
  match s.guard path off with
  | some t => .next t
  | none => .next (f s)

/-- Fields whose sections give reserved values a handling of their own (BU_SPARE_CORE, OPE_REMAP, BU_WAIT, MEM_SPACE). -/
def ownHandling (name : String) : Bool := name == "BU_SPARE_CORE" || name == "OPE_REMAP" || name == "BU_WAIT" || name == "MEM_SPACE"

/-- What one field holds after a write of the bits in mask. -/
def RegField.after (f : RegField) (locked : Bool) (old v mask : Nat) : Nat :=
  let o := bitsOf old f.lo f.len
  let m := bitsOf mask f.lo f.len
  let x := bitsOf v f.lo f.len
  let put := (o &&& ((2 ^ f.len - 1) ^^^ m)) ||| (x &&& m)
  match f.ty with
  | .rw => put
  | .rwl => if locked then o else put
  | .w1c => o &&& ((2 ^ f.len - 1) ^^^ (x &&& m))
  | .w1s => o ||| (x &&& m)
  | _ => o

/-- Would the write place a reserved value in the field (R628)? -/
def RegField.placesReserved (f : RegField) (locked : Bool) (old v mask : Nat) : Bool :=
  let x := f.after locked old v mask
  bitsOf mask f.lo f.len != 0 && (f.ty == .rw || (f.ty == .rwl && !locked)) &&
  f.rsv.any (fun r => decide (r.1 ≤ x ∧ x ≤ r.2))

/-- Would the write change a locked field (R12)? -/
def RegField.attempts (f : RegField) (locked : Bool) (old v mask : Nat) : Bool :=
  f.ty == .rwl && locked && f.after false old v mask != bitsOf old f.lo f.len

/-- The whole register after the write. -/
def RegDesc.after (d : RegDesc) (locked : Bool) (old v mask : Nat) : Nat :=
  d.fields.foldl (fun w f => withBits w f.lo f.len (f.after locked old v mask)) old

/-- The write of the bits in mask of the register at base, under its field types, locks and reserved values. Each path has
its own copy of a DBG_ selector, so the register is held at key. -/
def State.plainWrite (s : State) (path : Path) (d : RegDesc) (base key v mask : Nat) : State :=
  let l := s.locked path base
  let old := s.regN key
  if !ownHandling d.name && d.fields.any (fun f => f.placesReserved l old v mask) then s.unmapped base
  else
    let s := if d.fields.any (fun f => f.attempts l old v mask)
      then s.attempt (dieOf base) 0x701 0 (s.unitDie (dieOf base)) else s
    s.setRegN key (d.after l old v mask)

end Sys2Proof.Machine
end

