-- ==== Sys2Proof/Machine/Common.lean ====
section
/-! DEFINITION. Instruction fetch, the common engine instructions (R49 to R69), completion (R64), and the CORE_CTRL
operations RUN, STOP, TALLY_CLEAR and QUEUE_CLEAR (R78, R92 to R94, R626). -/
namespace Sys2Proof.Machine

/-! ### Fetch -/

/-- Free bytes of engine e's instruction queue. -/
def Eng.freeBytes (k : Eng) (e : Nat) : Nat := (iqCap e - k.iq.length) * insnSize e

/-- The next address to fetch: after the last queued instruction, or at the program counter. -/
def Eng.fetchAt (k : Eng) (e : Nat) : Nat :=
  match k.iq.getLast? with
  | some x => x.1 + insnSize e
  | none => k.pc

/-- An engine that prefetches: it runs, has room, and its next fetch address lies in the code region. -/
def State.wantsFetch (s : State) (c e : Nat) : Bool :=
  let k := s.eng c e
  k.st.runs && decide (insnSize e ≤ k.freeBytes e) && s.inCode c (k.fetchAt e)

/-- The engine served: most free bytes, ties to the lower number (R49). -/
def State.fetchPick (s : State) (c : Nat) : Option Nat :=
  (List.range 6).foldl (fun best e =>
    if s.wantsFetch c e then
      match best with
      | none => some e
      | some b => if (s.eng c b).freeBytes b < (s.eng c e).freeBytes e then some e else some b
    else best) none

/-- n instructions from an address of the store room. -/
def State.fetchList (s : State) (c size : Nat) : Nat → Nat → List (Nat × Nat)
  | 0, _ => []
  | n + 1, a => (a, s.rdLE (storeKey c a) size) :: s.fetchList c size n (a + size)

/-- Instructions one request brings: to the end of the 128-byte piece, of the region and of the queue. -/
def State.fetchCount (s : State) (c e : Nat) : Nat :=
  let k := s.eng c e
  let a := k.fetchAt e
  min (min ((a / 128 + 1) * 128) (s.codeLimit c) - a) (k.freeBytes e) / insnSize e

/-- Is engine e about to issue at a program counter outside the code region (R51)? -/
def State.offCode (s : State) (c e : Nat) : Bool :=
  let k := s.eng c e
  s.able c e && decide (k.next ≤ (s.core c).cycles) && !k.out.any (fun i => i.opc == haltOpc e) && !s.inCode c k.pc

/-- One request in a core cycle for the whole core (R49); an engine that has reached the end of the region faults (R51). -/
def execInstructionFetch (c : Fin 64) (s : State) : Out :=
  if s.still c || (s.core c).fetched then .next s
  else
    match s.fetchPick c with
    | some e =>
      let k := s.eng c e
      let s := s.setEng c e { k with iq := k.iq ++ s.fetchList c (insnSize e) (s.fetchCount c e) (k.fetchAt e) }
      .next (s.setCore c { s.core c with fetched := true })
    | none =>
      match (List.range 6).find? (fun e => s.offCode c e) with
      | some e => .next (s.precise c e 0x102 0 0 0)
      | none => .next s

/-! ### Common instructions (R66) -/

def execNop (c : Fin 64) (e : Fin 5) (w : EngW) (s : State) : Out :=
  s.issue c e 1 w (insnOwn e 1 w) (fun t => .go t none none)

/-- LOOP's own part (R67, R68). A count of 0 moves the program on past the body as if its last instruction had run: no taken transfer of
R52, and what is queued beyond the body stays; LOOP_DEPTH is taken before LOOP_EXIT (DESIGN CHOICE, log entry 95). -/
def loopBody (c e body : Nat) (t : State) : IssueRes :=
  let k := t.eng c e
  match k.pq with
  | [] => .stall .stallQueue
  | n :: rest =>
    let size := insnSize e
    let last := k.pc + size * body
    if 4 ≤ k.loops.length then .fault 0x103 0 0 0
    else if k.loops.any (fun l => decide (l.last < last)) then .fault 0x104 0 0 0
    else if n = 0 then .go (t.setEng c e { k with pq := rest, pc := last }) none none
    else .go (t.setEng c e { k with pq := rest, loops := ⟨k.pc + size, last, n.toNat, false⟩ :: k.loops }) none none

def execLoop (c : Fin 64) (e : Fin 5) (w : EngW) (s : State) : Out :=
  s.issue c e 2 w (insnOwn e 2 w) (loopBody c e w.opnd.toNat)

/-- The checks of a jump to target, in the order FETCH_RANGE, LOOP_EXIT (R51, R69; DEDUCED, log entry 15). -/
def State.jumpFault (s : State) (c e : Nat) (target : Int) : Option Nat :=
  if target < 0 || !s.inCode c target.toNat then some 0x102
  else if !(s.eng c e).jumpOk target then some 0x104 else none

def execJump (c : Fin 64) (e : Fin 5) (w : EngW) (s : State) : Out :=
  s.issue c e 3 w (insnOwn e 3 w) (fun t =>
    match t.jumpFault c e (16 * w.opnd.toNat : Nat) with
    | some f => .fault f 0 0 0
    | none => .go t (some (16 * w.opnd.toNat)) none)

def execBrq (c : Fin 64) (e : Fin 5) (w : EngW) (s : State) : Out :=
  s.issue c e 4 w (insnOwn e 4 w) (fun t =>
    match (t.eng c e).pq with
    | [] => .stall .stallQueue
    | n :: _ =>
      let target : Int := (t.eng c e).pc + 16 * n.toInt
      match t.jumpFault c e target with
      | some f => .fault f 0 0 0
      | none => .go (t.popP c e) (some target.toNat) none)

def execSettle (c : Fin 64) (e : Fin 5) (w : EngW) (s : State) : Out :=
  s.issue c e 5 w (insnOwn e 5 w) (fun t =>
    .go t none (if (t.eng c e).out.isEmpty then none else engLeft w t c e 5 0 0 0))

/-- The engine's HALT, once it is the oldest instruction not completed: its completion signals are posted, and at the end of the core cycle
the engine halts (R66, R91). -/
def State.tryHalt (s : State) (c e : Nat) : State :=
  match (s.eng c e).out with
  | i :: _ =>
    if i.opc == haltOpc e then
      let s := (s.setEng c e { s.eng c e with out := [] }).signals c e i.pc true i.sig0 i.sig1
      s.setCore c { s.core c with halts := (s.core c).halts ++ [e] }
    else s
  | [] => s

/-- The engine halts, unless a fault has stopped it; the last of the six to halt sends the core-done notice, where stopped and held
engines count as halted (R93, R588). -/
def State.haltNow (s : State) (c e : Nat) : State :=
  if (s.eng c e).st == .faulted then s
  else
    let s := s.setEng c e { s.eng c e with st := .halted }
    if (List.range 6).all (fun x => (s.eng c x).atRest) then { s with coreDone := s.coreDone ++ [c] } else s

def execHalt (c : Fin 64) (e : Fin 5) (w : EngW) (s : State) : Out :=
  match s.issue c e 6 w (insnOwn e 6 w) (fun t => .go t none (engLeft w t c e 6 0 0 0)) with
  | .next t => .next (t.tryHalt c e)
  | o => o

/-- Instructions whose completion has a step of its own: MMA, DRP, STG, STRM. -/
def ownCompletion (e opc : Nat) : Bool :=
  (decide (e ≤ 1) && (opc == 0x10 || opc == 0x12 || opc == 0x13)) || (e == 4 && opc == 0x10)

/-- Has everything the instruction's completion needs come about? -/
def State.canComplete (s : State) (c e n : Nat) (i : Issued) : Bool :=
  decide (i.ready ≤ (s.core c).cycles) && !ownCompletion e i.opc &&
  (if i.opc == 5 && e != 5 then n == 0
   else if e == 2 && i.opc == 0x10 then
     match (s.core c).tpe.feed with
     | some f => f.pc == i.pc && f.left == 0 && decide ((s.core c).tpe.busyUntil ≤ (s.core c).cycles)
     | none => false
   else true)

/-- What a completion frees in its own unit: the TPE's feed, the VEC's seed load; a VEC store still holds its bytes for the cycle (R180). -/
def State.freeUnit (s : State) (c e : Nat) (i : Issued) : State :=
  let k := s.core c
  if e == 2 && i.opc == 0x10 then s.setCore c { k with tpe := { k.tpe with feed := none } }
  else if e == 3 && i.opc == 0x1B && i.len == 0 then s.setCore c { k with vec := { k.vec with seedLoad := (s.eng c e).out.any (fun x => x.opc == 0x1B && x.len == 0) } }
  else if e == 3 && (i.opc == 0x11 || i.opc == 0x1B) then
    let old := if k.vec.storedAt = k.cycles then k.vec.stored else []
    s.setCore c { k with vec := { k.vec with stored := old ++ [i], storedAt := k.cycles } }
  else s

/-- The n-th oldest instruction not completed completes (R64). -/
def execInstructionComplete (c : Fin 64) (e : Fin 6) (n : Nat) (s : State) : Out :=
  match (s.eng c e).out[n]? with
  | none => .next s
  | some i =>
    if s.still c then .next s
    else if i.opc == haltOpc e then .next (if n = 0 then s.tryHalt c e else s)
    else if s.canComplete c e n i then
      let t := s.setEng c e { s.eng c e with out := (s.eng c e).out.eraseIdx n }
      .next (((t.freeUnit c e i).signals c e i.pc true i.sig0 i.sig1).tryHalt c e)
    else .next s

/-! ### CORE_CTRL -/

/-- Withdraw an engine's take requests; a grant it holds is sent back (R277). -/
def State.withdraw (s : State) (c e : Nat) : State :=
  let p := s.pegs
  let p := { p with takes := p.takes.filter (fun w => !(w.core == c && w.eng == e)) }
  let p := match (s.eng c e).grant with
    | some g => { p with returns := p.returns ++ [g] }
    | none => p
  { s with pegs := p }

/-- RUN of one engine (R51, R94): a halted engine starts at CORE_ENG_START, a stopped one resumes. During a reset of its domain nothing
starts (R527). -/
def State.runEng (s : State) (c e : Nat) : State :=
  let k := s.eng c e
  if k.dhold || s.coreInReset c then s
  else match k.st with
    | .halted =>
      let start := s.fld (Reg.engStart c e) 0 20
      let s := s.setEng c e { k with st := .issuing, pc := start, iq := [], loops := [] }
      if s.inCode c start && start % insnSize e == 0 then s else s.precise c e 0x102 0 0 0
    | .stopped => s.setEng c e { k with st := .issuing }
    | _ => s

/-- Apply f to each engine whose bit is set, in engine-number order. -/
def State.eachEng (s : State) (mask : Nat) (f : State → Nat → State) : State :=
  (List.range 6).foldl (fun t e => if mask.testBit e then f t e else t) s

def execRun (c : Fin 64) (path : Path) (engines : BitVec 6) (s : State) : Out :=
  s.guarded path (Reg.coreBase c) (fun s => s.eachEng engines.toNat (fun t e => t.runEng c e))

/-- STOP of one engine at its issue boundary (R626): nothing of the stopped instruction is taken. -/
def State.stopEng (s : State) (c e : Nat) : State :=
  if (s.eng c e).st.runs then
    let s := (s.withdraw c e).endWait c e
    let s := s.setEng c e { s.eng c e with st := .stopped }
    if e = 4 then s.setCore c { s.core c with str := { (s.core c).str with window := none } } else s
  else s

def execStop (c : Fin 64) (path : Path) (engines : BitVec 6) (s : State) : Out :=
  s.guarded path (Reg.coreBase c) (fun s => s.eachEng engines.toNat (fun t e => t.stopEng c e))

/-- Empty a core's address and parameter queues (R78). -/
def State.clearQueues (s : State) (c : Nat) : State :=
  (List.range 5).foldl (fun t e => t.setEng c e { t.eng c e with aq := [], pq := [], aqNew := [], pqNew := [] }) s

/-- TALLY_CLEAR is ignored and recorded while an engine of the core runs. -/
def State.tallyClear (s : State) (c : Nat) : State :=
  if s.coreRuns c then s.unmapped (Reg.coreBase c) else s.setCore c { s.core c with tally := [], tops := [], stirred := true }

/-- QUEUE_CLEAR is ignored and recorded while an engine of the core runs. -/
def State.queueClear (s : State) (c : Nat) : State :=
  if s.coreRuns c then s.unmapped (Reg.coreBase c) else s.clearQueues c

def execTallyClear (c : Fin 64) (path : Path) (s : State) : Out :=
  s.guarded path (Reg.coreBase c) (fun s => s.tallyClear c)

def execQueueClear (c : Fin 64) (path : Path) (s : State) : Out :=
  s.guarded path (Reg.coreBase c) (fun s => s.queueClear c)

end Sys2Proof.Machine
end

