-- ==== Sys2Proof/Config.lean ====
section
/-! DEFINITION. The free values: opaque constants that stand for what the spec leaves open and for cryptography, whose results the
spec names by standard. Nothing can evaluate them, so a statement about them holds whatever they are. -/
namespace Sys2Proof.Config

/-- A value the spec leaves open, by a counter of the state. -/
opaque freeValue (n : Nat) : W64

/-- AES-256 of a 16-byte block under a key by its identity: the block and the result as little-endian numbers (R570). -/
opaque aes (key block : Nat) : Nat

/-- The payload of a LINKSTATE notice (R412): the port's package and g, whether it is down, and the notice's number. The spec
gives its fields and no layout. -/
opaque linkNotice (pkg g : Nat) (down : Bool) (seq : Nat) : Nat

/-- The sum of a segment's element of which every rank is missing (R435 gives none). -/
opaque emptySum (elem : Nat) : W32

/-- AES-256-CMAC of a message under a key by its identity, as a number (R572). -/
opaque cmac (key : Nat) (msg : List Byte) : Nat

/-- The identity of a job key (R567): of the job secret and JOB_ID, use 0 memory, 1 payload, 2 fabric of a period, 3 control. -/
opaque jobKey (secret job use period : Nat) : Nat

/-- Byte i of the AES-256-XTS encryption, and of the decryption, of a data unit under a key by its identity and a tweak value
(R317, R568). -/
opaque xtsEnc (key tweak : Nat) (unit : List Byte) (i : Nat) : Byte
opaque xtsDec (key tweak : Nat) (unit : List Byte) (i : Nat) : Byte

/-- Parity symbol i, 0 to 29, of the RS(544,514) codeword of a message of 514 symbols (R384, R387). -/
opaque rsParity (msg : List Nat) (i : Nat) : BitVec 10

/-- SHA-384 of a message, as a number (R555 to R566). -/
opaque sha384 (msg : List Byte) : Nat

/-- SHA-384 of the boot ROM (R558). -/
opaque bootRom : Nat

/-- The identity public key (R555), and the per-boot public key of a boot by its draw of the entropy source (R556), 64 bits at a
time. -/
opaque idPub (i : Nat) : W64
opaque bootPub (boot i : Nat) : W64

/-- The two Phodel key hashes of the boot ROM (R562). -/
opaque phodelKey (k : Nat) : Nat

/-- Does an ECDSA P-384 signature by a public key over a message's SHA-384 verify (R561)? -/
opaque sigOk (signer msg sig : List Byte) : Bool

/-- The ECDSA P-384 signature by the identity key over a message's SHA-384, with a nonce by its draw of the entropy source (R560). -/
opaque quoteSig (msg : List Byte) (nonce : Nat) : Nat

/-- Where the data of a firmware chunk stands in tier 1 of cellar die 1 (R512 gives the memory, not the place). -/
opaque fwStore (image index : Nat) : Nat

/-- The payload of a pull request but for its check (R513): image, first index and count. The spec gives its fields and no layout. -/
opaque pullRequest (image first count : Nat) : Nat

/-- The length in core cycles of bubble b of a job's step, which a request's entry program must fit (R485). The spec does not say where it stands. -/
opaque bubbleLen (job b : Nat) : Nat

/-- Phodel's manufacturer code, 11 bits, as the BSDL file gives it, and the stepping (R582). -/
opaque manufacturer : BitVec 11
opaque stepping : BitVec 4

end Sys2Proof.Config
end

