-- ==== Sys2Proof/Machine/Addr.lean ====
section
/-! DEFINITION. Global addresses (R24): the windows of the die maps (R26, R30 to R32), what is open to an engine (R30, R33,
R285), and the checks of R25 in their order. -/
namespace Sys2Proof.Machine

/-- A window of a die's map. Offsets are within the store room, accumulator memory, attic or peg word. -/
inductive Place where
  | store (c off : Nat)
  | acc (c e off : Nat)
  | attic (k off : Nat)
  | peg (p off : Nat)
  | setup
  | tier (va : Nat)
  | phys
  | hole
deriving DecidableEq, Repr

def addrPkg (a : W64) : Nat := bitsOf a.toNat 51 13
def addrDie (a : W64) : Nat := bitsOf a.toNat 48 3
def addrOff (a : W64) : Nat := bitsOf a.toNat 0 48

/-- The Britum die map (R26). -/
def britumWindow (off : Nat) : Place :=
  if off < 0x4000000 then
    if off % 0x100000 < storeSize then .store (off / 0x100000) (off % 0x100000) else .hole
  else if off < 0x5000000 then
    .acc ((off - 0x4000000) / 0x40000) ((off - 0x4000000) / 0x20000 % 2) ((off - 0x4000000) % 0x20000)
  else if off < 0x6000000 then .hole
  else if off < 0x8000000 then .attic ((off - 0x6000000) / 0x200000) ((off - 0x6000000) % 0x200000)
  else if off < 0x8080000 then .peg ((off - 0x8000000) / 8) (off % 8)
  else if 0x7F0000000000 ≤ off ∧ off < 0x7F0000800000 then .setup
  else if 0x800000000000 ≤ off then .tier (off - 0x800000000000)
  else .hole

/-- The installed tier-2 capacity of a cellar die in bytes (R31). -/
def State.tier2Cap (s : State) (die : Nat) : Nat := s.fld (0x840008 + (die - 1) * 0x100000) 16 11 * 2 ^ 30

/-- The window an offset of a die lies in; cap is the die's installed tier-2 capacity. -/
def dieWindow (die off cap : Nat) : Place :=
  if die = 0 then britumWindow off
  else if 0x7F0000000000 ≤ off ∧ off < 0x7F0000100000 then .setup
  else if die ≤ 4 ∧ (off < 2 ^ 36 ∨ (0x10000000000 ≤ off ∧ off < 0x10000000000 + cap)) then .phys
  else .hole

/-- The window a global address names; on another package the whole tier-2 window counts as mapped here, since only that
package knows its capacity. -/
def State.window (s : State) (a : W64) : Place :=
  dieWindow (addrDie a) (addrOff a) (if addrPkg a = s.pkg then s.tier2Cap (addrDie a) else 2 ^ 40)

/-- Does the core's job run in region q (R284)? A core in no job reaches its own region only. -/
def State.runsHere (s : State) (c q : Nat) : Bool :=
  match s.jobOfCore c with
  | some j => s.partitionRuns q j
  | none => q == c / 16

/-- Is the window open to an access of n bytes by the control core of core c (R33, R285)? -/
def State.openToCtl (s : State) (c : Nat) (a : W64) (store : Bool) (w : Place) : Bool :=
  let own := addrPkg a == s.pkg
  match w with
  | .store _ _ => true
  | .attic _ _ => true
  | .tier _ => true
  | .acc _ _ _ => own
  | .peg p _ => own && s.runsHere c (p / 16384) && (!store || p / 4096 == c / 4)
  | _ => false

/-- The address check of a control-core access of n bytes (R25): the fault code, if one fails. -/
def State.ctlAddrFault (s : State) (c : Nat) (a : W64) (n : Nat) (store : Bool) : Option Nat :=
  if s.torus ≤ addrPkg a then some 0x044
  else if addrDie a = 7 then some 0x041
  else
    match s.window a with
    | .hole => some 0x042
    | w =>
      if !s.openToCtl c a store w then some 0x043
      else
        match w with
        | .peg _ off => if n ≠ 8 ∨ off ≠ 0 then some 0x045 else none
        | _ => if a.toNat % n ≠ 0 then some 0x122 else none

/-- The core whose reset refuses an access to the window (R525). -/
def Place.coreOf : Place → Option Nat
  | .store c _ => some c
  | .acc c _ _ => some c
  | _ => none

def State.windowInReset (s : State) (w : Place) : Bool :=
  match w.coreOf with
  | some c => s.coreInReset c
  | none => false

end Sys2Proof.Machine
end

