-- ==== Sys2Proof/Machine/Check.lean ====
section
/-! DEFINITION. The check values of R546 and the message with its fold value of R547. -/
namespace Sys2Proof.Machine

/-- One bit of an unreflected CRC of width w. -/
def crcBit (w poly c : Nat) : Nat := if c.testBit (w - 1) then ((c <<< 1) % 2 ^ w) ^^^ poly else (c <<< 1) % 2 ^ w

/-- One bit of a reflected CRC; poly is bit-reversed. -/
def crcBitR (poly c : Nat) : Nat := if c % 2 = 1 then (c >>> 1) ^^^ poly else c >>> 1

def crc8 (f : Nat → Nat) (c : Nat) : Nat := f (f (f (f (f (f (f (f c)))))))

def crcStep (w poly c b : Nat) : Nat := crc8 (crcBit w poly) (c ^^^ (b <<< (w - 8)))
def crcStepR (poly c b : Nat) : Nat := crc8 (crcBitR poly) (c ^^^ b)

def crc32c (bs : List Byte) : Nat := bs.foldl (fun c b => crcStepR 0x82F63B78 c b.toNat) 0xFFFFFFFF ^^^ 0xFFFFFFFF
def crc32 (bs : List Byte) : Nat := bs.foldl (fun c b => crcStepR 0xEDB88320 c b.toNat) 0xFFFFFFFF ^^^ 0xFFFFFFFF
def crc64 (bs : List Byte) : Nat := bs.foldl (fun c b => crcStep 64 0x42F0E1EBA9EA3693 c b.toNat) 0
def crc16 (bs : List Byte) : Nat := bs.foldl (fun c b => crcStep 16 0x1021 c b.toNat) 0xFFFF

/-- The bytes of a fold value F (R547). -/
def foldBytes (f : Nat) : List Byte := (List.range 8).map (fun i => BitVec.ofNat 8 (f >>> (8 * i)))

/-- The check of a message of bytes and fold value F, CRC-32C. -/
def check32c (bs : List Byte) (f : Nat) : Nat := crc32c (bs ++ foldBytes f)

/-- The check value of a peg word (R268, class 2 of R547). -/
def pegCheck (p : Nat) (w : W64) : W16 := BitVec.ofNat 16 (crc16 (foldBytes w.toNat ++ foldBytes p))

end Sys2Proof.Machine
end

