-- ==== Sys2Proof/Machine/Net.lean ====
section
/-! DEFINITION. The guyline fabric's packets (R392 to R394), routing (R395 to R397), payload encryption (R406, R570), injection and
forwarding, frames and their sending (R387 to R391, R398), and requests to other packages (R401 to R405). -/
namespace Sys2Proof.Machine

namespace Reg
def guy (die : Nat) : Nat := 0xC00000 + (die - 5) * 0x100000
/-- The registers of port g (R380). -/
def port (g : Nat) : Nat := guy (5 + g / 4) + 0x100 * (g % 4)
def portCfg (g : Nat) : Nat := port g
def portStatus (g : Nat) : Nat := port g + 8
def portCtrl (g : Nat) : Nat := port g + 0x10
def portErrA (g : Nat) : Nat := port g + 0x18
def portErrB (g : Nat) : Nat := port g + 0x20
def e2eCfg (die : Nat) : Nat := guy die + 0x800
def mapStatus (die : Nat) : Nat := guy die + 0x808
def guyDrops (die : Nat) : Nat := guy die + 0x810
def timLink (g : Nat) : Nat := guy (5 + g / 4) + 0x80000 + 8 * (g % 4)
def timMaster : Nat := 0x30000
def timStatus : Nat := 0x30008
end Reg

def guyDie (g : Nat) : Nat := 5 + g / 4

/-! ### Packets (R392) -/

def Pkt.field (p : Pkt) (i n : Nat) : Nat := fieldAt p.bytes i n
def Pkt.dst (p : Pkt) : Nat := p.field 0 2 % 8192
def Pkt.ddie (p : Pkt) : Nat := p.field 0 2 / 8192
def Pkt.src (p : Pkt) : Nat := p.field 2 2 % 8192
def Pkt.sdie (p : Pkt) : Nat := p.field 2 2 / 8192
def Pkt.typ (p : Pkt) : Nat := p.field 4 1
def Pkt.vc (p : Pkt) : Nat := p.field 5 1 % 4
def Pkt.len (p : Pkt) : Nat := p.field 6 2 % 2048
def Pkt.route (p : Pkt) : Nat := p.field 8 1 % 16
def Pkt.key (p : Pkt) : Nat := p.field 9 1 % 32
def Pkt.fill (p : Pkt) : Bool := p.field 10 1 % 2 == 1
def Pkt.reason (p : Pkt) : Nat := p.field 11 1
def Pkt.peg (p : Pkt) : Nat := p.field 12 2
def Pkt.addr (p : Pkt) : Nat := p.field 16 6
def Pkt.tag (p : Pkt) : Nat := p.field 24 4

/-- CRC-32C over bytes 0 to 27 of a header with byte 5 taken as zero. -/
def headerCheck (bs : List Byte) : Nat := crc32c ((bs.take 28).set 5 0)
def Pkt.checkOk (p : Pkt) : Bool := p.field 28 4 == headerCheck p.bytes

/-- Bytes of the payload area of LEN payload bytes; a READ's is 64 bytes of zero. -/
def areaBytes (typ len : Nat) : Nat := if typ = 3 then 64 else max 1 ((len + 63) / 64) * 64
/-- Flits of a packet. -/
def flitsOf (typ len : Nat) : Nat := (32 + areaBytes typ len + 63) / 64
def Pkt.flits (p : Pkt) : Nat := flitsOf p.typ p.len

/-- A packet's fields, in the order of the header. -/
structure Head where
  dst : Nat
  ddie : Nat
  src : Nat
  sdie : Nat
  typ : Nat
  len : Nat
  route : Nat := 0
  key : Nat := 0
  fill : Option Nat := none
  reason : Nat := 0
  addr : Nat := 0
  tag : Nat := 0
deriving DecidableEq, Repr

/-- The bytes of a packet with its header check, filled up to whole flits. -/
def Head.packet (h : Head) (pay : List Byte) : List Byte :=
  let b := leBytes 2 (h.dst + h.ddie * 8192) ++ leBytes 2 (h.src + h.sdie * 8192) ++ leBytes 1 h.typ ++ leBytes 1 0 ++
    leBytes 2 h.len ++ leBytes 1 h.route ++ leBytes 1 h.key ++ leBytes 1 (boolNat h.fill.isSome) ++ leBytes 1 h.reason ++
    leBytes 2 (h.fill.getD 0) ++ leBytes 2 0 ++ leBytes 8 h.addr ++ leBytes 4 h.tag
  let p := b ++ leBytes 4 (headerCheck b) ++ pay
  p ++ List.replicate (64 * flitsOf h.typ h.len - p.length) 0

/-- The packet with the virtual channel of its next link. -/
def Pkt.onVc (p : Pkt) (vc : Nat) : Pkt := { p with bytes := p.bytes.set 5 (BitVec.ofNat 8 (p.field 5 1 / 4 * 4 + vc)) }

/-- The payload bytes as they travel. -/
def Pkt.payload (p : Pkt) : List Byte := (p.bytes.drop 32).take (if p.typ = 3 then 0 else p.len)

/-- Classes of R393. -/
def isResponse (typ : Nat) : Bool := typ == 4 || typ == 5 || typ == 6
def isRequest (typ : Nat) : Bool := decide (1 ≤ typ ∧ typ ≤ 3) || typ == 8 || typ == 9 || decide (0x10 ≤ typ ∧ typ ≤ 0x1F)
def isReserved (typ : Nat) : Bool := !isResponse typ && !isRequest typ && typ != 0x20

/-! ### Routing (R395 to R397) -/

/-- Size of dimension d of the torus (R20). -/
def State.dim (s : State) (d : Nat) : Nat := s.fld Reg.pkgId (16 + 4 * d) 4 + 1
/-- The place value of dimension d in a package number. -/
def State.place (s : State) (d : Nat) : Nat := ((List.range d).map s.dim).foldl (· * ·) 1
def State.coord (s : State) (n d : Nat) : Nat := n / s.place d % s.dim d
/-- Package n with its coordinate d replaced. -/
def State.withCoord (s : State) (n d v : Nat) : Nat := n - s.coord n d * s.place d + v * s.place d

def State.isDown (s : State) (n g : Nat) : Bool := Tab.get (fun _ => false) s.linkMap (8 * n + g)

/-- The coordinate one hop on in a dimension of size n. -/
def hop (n : Nat) (minus : Bool) (a : Nat) : Nat := if minus then (a + n - 1) % n else (a + 1) % n

/-- The path of k hops from package cur crosses a down port. -/
def State.pathDown (s : State) (d : Nat) (minus : Bool) : Nat → Nat → Bool
  | 0, _ => false
  | k + 1, cur =>
    let next := s.withCoord cur d (hop (s.dim d) minus (s.coord cur d))
    s.isDown cur (2 * d + boolNat minus) || s.isDown next (2 * d + boolNat (!minus)) || s.pathDown d minus k next

/-- The directions from dimension d on: bit d is set for minus; none: unreachable. -/
def State.routeFrom (s : State) (dst : Nat) : List Nat → Nat → Option Nat
  | [], _ => some 0
  | d :: ds, cur =>
    let a := s.coord cur d
    let b := s.coord dst d
    let n := s.dim d
    let up := (b + n - a) % n
    let dn := (a + n - b) % n
    let pref := decide (dn < up)
    let rest := s.routeFrom dst ds (s.withCoord cur d b)
    if a = b then rest
    else if !s.pathDown d pref (if pref then dn else up) cur then rest.map (· + boolNat pref * 2 ^ d)
    else if !s.pathDown d (!pref) (if pref then up else dn) cur then rest.map (· + boolNat (!pref) * 2 ^ d)
    else none

def State.route (s : State) (src dst : Nat) : Option Nat := s.routeFrom dst [0, 1, 2, 3] src

/-- The port on which a packet of a route leaves package n, if it is not there yet (R396). -/
def State.exitPort (s : State) (n dst route : Nat) : Option Nat :=
  ((List.range 4).find? (fun d => s.coord n d != s.coord dst d)).map (fun d => 2 * d + boolNat (route.testBit d))

/-- The virtual channel on the link of port g (R397): after the date-line of its ring the odd one, and again the even one in a
new dimension. -/
def State.vcFor (s : State) (p : Pkt) (g : Nat) : Nat :=
  let d := g / 2
  let minus := g % 2 == 1
  let a := s.coord s.pkg d
  let date := if minus then a == 0 else a + 1 == s.dim d
  let crossed := decide (p.gin < 8 ∧ p.gin / 2 = d ∧ p.vc % 2 = 1)
  (if isResponse p.typ then 2 else 0) + boolNat (date || crossed)

/-! ### Ports -/

def State.port (s : State) (g : Nat) : Port := Tab.get (fun _ => {}) s.ports g
def State.setPort (s : State) (g : Nat) (p : Port) : State := { s with ports := Tab.set (fun _ => {}) s.ports g p }
/-- GUY_PORT_STATUS.STATE and WIDTH. -/
def State.portState (s : State) (g : Nat) : Nat := s.fld (Reg.portStatus g) 0 3
def State.portWidth (s : State) (g : Nat) : Nat := s.fld (Reg.portStatus g) 3 2
/-- A port that takes packets: up, held out of the map, or narrowing. -/
def State.portTakes (s : State) (g : Nat) : Bool := s.portState g == 2 || s.portState g == 3 || s.portState g == 6

/-! ### Keys (R569, R570) -/

def State.guyKey (s : State) (die slot : Nat) : Nat := Tab.get (fun _ => 0) s.keys (die * 32 + slot)

/-- Byte i of a payload XORed with the key stream of its header. -/
def cryptByte (key base i : Nat) (b : Byte) : Byte :=
  b ^^^ BitVec.ofNat 8 (Config.aes key (base + i / 16 * 2 ^ 120) >>> (8 * (i % 16)))

/-- The counter block of a header with block index 0 (R570). -/
def counterBase (p : Pkt) : Nat :=
  p.field 2 2 + p.field 0 2 * 2 ^ 16 + p.typ * 2 ^ 32 + p.addr * 2 ^ 40 + p.tag * 2 ^ 88

/-- The payload encrypted or decrypted under a key. -/
def Pkt.crypt (p : Pkt) (key : Nat) : List Byte := p.payload.mapIdx (fun i b => cryptByte key (counterBase p) i b)

def Pkt.withPayload (p : Pkt) (pay : List Byte) : Pkt :=
  { p with bytes := p.bytes.take 32 ++ pay ++ p.bytes.drop (32 + pay.length) }

/-- Types whose payload is encrypted (R406). -/
def encrypted (typ : Nat) : Bool := typ == 1 || typ == 2 || typ == 4 || decide (0x10 ≤ typ ∧ typ ≤ 0x1F)

/-- The payload in the clear, decrypted by the guyline die that delivers the packet. -/
def State.clear (s : State) (p : Pkt) : List Byte :=
  if encrypted p.typ && p.key != 0 then p.crypt (s.guyKey (guyDie (p.gin % 8)) p.key) else p.payload

/-- The slot in which a job's packets are encrypted now (R569); no job: 0. -/
def State.sendSlot (s : State) (space : Option Nat) : Nat :=
  match space.bind (fun n => (s.jobs.find? (fun j => j.1 == n)).map (·.2)) with
  | some j => j.fabric + j.period % 3
  | none => 0

/-! ### Forwarding and injection (R396, R398, R402) -/

/-- Put a packet into this package's inbox. One of this package's own is stamped with the time base; one that came by a port carries the time
at which its last flit was accepted (R420, R441). -/
def State.deliver (s : State) (p : Pkt) : State := { s with inbox := s.inbox ++ [if p.gin < 8 then p else { p with stamp := s.time }] }

/-- Queue a packet for port g on its virtual channel. -/
def State.queueFor (s : State) (g : Nat) (p : Pkt) : State :=
  s.setPort g { s.port g with txq := (s.port g).txq ++ [p.onVc (s.vcFor p g)] }

/-- A response to a package: the NAK, ACK or READ_DATA of a request whose fields are given. -/
def State.respond (s : State) (sdie : Nat) (h : Head) (pay : List Byte) : State :=
  let seal' := fun (p : Pkt) (die : Nat) => if encrypted p.typ && p.key != 0 then p.withPayload (p.crypt (s.guyKey die p.key)) else p
  if h.dst = s.pkg then s.deliver (seal' { bytes := h.packet pay } 5)
  else
    match s.route s.pkg h.dst with
    | none => s
    | some r =>
      match s.exitPort s.pkg h.dst r with
      | none => s
      | some g =>
        let h := { h with route := r, src := s.pkg, sdie := sdie }
        let p := seal' { bytes := h.packet pay } (guyDie g)
        if s.portTakes g then s.queueFor g p else s.bump (Reg.guyDrops (guyDie g)) 32 32

/-- NAK of a request packet. -/
def State.nak (s : State) (p : Pkt) (die reason : Nat) (pay : List Byte) : State :=
  s.respond die { dst := p.src, ddie := p.sdie, src := s.pkg, sdie := die, typ := 6, len := 4, reason := reason, addr := p.addr, tag := p.tag } pay

/-- ACK of a request: it carries the request's TAG and ADDR. -/
def State.ack (s : State) (dst ddie tag addr sdie : Nat) : State :=
  s.respond sdie { dst := dst, ddie := ddie, src := s.pkg, sdie := sdie, typ := 5, len := 1, addr := addr, tag := tag } [0]
def State.ackPkt (s : State) (p : Pkt) (sdie : Nat) : State := s.ack p.src p.sdie p.tag p.addr sdie

/-- NAK reason 4 of a request: its payload's first byte gives the cause of R263. -/
def State.refuse (s : State) (dst ddie tag addr cause : Nat) : State :=
  s.respond 0 { dst := dst, ddie := ddie, src := s.pkg, sdie := 0, typ := 6, len := 4, reason := 4, addr := addr, tag := tag } (leBytes 4 cause)

/-- A packet that cannot be forwarded on port g: a request is answered with NAK reason 2, which names the port; a response is
discarded and counted, and one that is neither, or tells the state of links, is discarded. -/
def State.blocked (s : State) (g : Nat) (p : Pkt) : State :=
  if isResponse p.typ then s.bump (Reg.guyDrops (guyDie g)) 32 32
  else if p.typ = 9 ∨ !isRequest p.typ then s
  else s.nak p (guyDie g) 2 (leBytes 4 (s.pkg + g * 2 ^ 16))

/-- The router's step for one packet (R393, R396). -/
def State.forward (s : State) (p : Pkt) : State :=
  if isReserved p.typ then s.bump (Reg.guyDrops (guyDie (p.gin % 8))) 0 32
  else if p.typ = 0x20 then s.deliver p
  else
    match s.exitPort s.pkg p.dst p.route with
    | none => s.deliver p
    | some g => if s.portTakes g then s.queueFor g p else s.blocked g p

/-! ### Requests (R401) -/

/-- Types whose payload area ends in the control-payload check (R550), and its fold value (R547). -/
def ctlChecked (typ : Nat) : Bool := typ == 9 || typ == 0x11 || typ == 0x12 || typ == 0x14 || typ == 0x15
def ctlFold (tag src dst : Nat) : Nat := tag + src * 2 ^ 32 + dst * 2 ^ 48

/-- The job of a request: the one of its core, or the one it names. -/
def State.reqSpace (s : State) (r : Req) : Option Nat := if r.kind ≤ 3 then s.jobOfCore (r.tag % 64) else r.space

/-- Send or resend a request by the route of the map as it now stands (R395, R403), encrypted in the slot of the job's current
period. A request to this package itself goes over the internal link. -/
def State.emit (s : State) (r : Req) : State :=
  let pay := if ctlChecked r.kind then r.bytes ++ List.replicate (60 - r.len) 0 ++
    leBytes 4 (check32c (r.bytes ++ List.replicate (60 - r.len) 0) (ctlFold r.tag s.pkg r.dst)) else r.bytes
  let key := if r.kind = 8 then 0 else s.sendSlot (s.reqSpace r)
  let h : Head := { dst := r.dst, ddie := r.die, src := s.pkg, sdie := if r.kind < 0x10 then 0 else r.die, typ := r.kind, len := r.len, key := key,
                    fill := r.fill, addr := r.addr.toNat % 2 ^ 48, tag := r.tag }
  let send := fun (route die : Nat) =>
    let p : Pkt := { bytes := ({ h with route := route }).packet pay }
    if encrypted p.typ && key != 0 then p.withPayload (p.crypt (s.guyKey die key)) else p
  if r.dst = s.pkg then s.deliver (send 0 5)
  else
    match s.route s.pkg r.dst with
    | none => s
    | some rt => s.forward (send rt (match s.exitPort s.pkg r.dst rt with | some g => guyDie g | none => 5))

/-- Send a request: it is the requester's until answered. -/
def State.sendReq (s : State) (r : Req) : State := ({ s with reqs := s.reqs ++ [r] }).emit r

/-! ### Frames (R387 to R391, R398) -/

/-- A virtual channel's packets queued at a port, and its credit and what it owes its partner. -/
def Port.creditOf (p : Port) (vc : Nat) : Nat := Tab.get (fun _ => 256) p.credit vc
def Port.owes (p : Port) (vc : Nat) : Nat := Tab.get (fun _ => 0) p.owed vc

/-- The source of a queued packet at port g: the three other ports of its die, the partner die's link, the Britum die's link. -/
def sourceOf (g : Nat) (p : Pkt) : Nat := if p.gin = 8 then 5 else if p.gin / 4 = g / 4 then p.gin % 4 else 4

/-- The next packet of a virtual channel: round-robin by source, first in first out within one. -/
def Port.pickIn (p : Port) (g vc : Nat) : Option Pkt :=
  let q := p.txq.filter (fun k => k.vc == vc && k.typ != 0x20)
  let last := Tab.get (fun _ => 5) p.lastSrc vc
  (List.range 6).findSome? (fun i => q.find? (fun k => sourceOf g k == (last + 1 + i) % 6))

/-- The next packet that may start: SYNC first, then responses, then requests; the two channels of a class alternate; a packet
starts only with credit for all its flits. -/
def Port.pick (p : Port) (g : Nat) : Option Pkt :=
  let fits := fun (k : Pkt) => decide (k.flits ≤ p.creditOf k.vc)
  match p.txq.find? (fun k => k.typ == 0x20 && fits k) with
  | some k => some k
  | none =>
    [1, 0].findSome? (fun cls =>
      let a := 2 * cls + (1 - Tab.get (fun _ => 1) p.lastVc cls)
      let b := 2 * cls + Tab.get (fun _ => 1) p.lastVc cls
      [a, b].findSome? (fun vc => (p.pickIn g vc).filter fits))

/-- A packet as it starts onto the link: a SYNC carries the time base at its departure (R419). -/
def Pkt.departs (k : Pkt) (time : W64) : Pkt := if k.typ = 0x20 then k.withPayload (leBytes 8 time.toNat ++ k.payload.drop 8) else k

/-- Fill a frame's flits: the rest of the packet begun, then packets that may start; n bounds the packets. -/
def Port.fillFrame (g : Nat) (time : W64) : Nat → Port → List Byte → Port × List Byte
  | 0, p, out => (p, out)
  | n + 1, p, out =>
    let room := 2048 - out.length
    if room = 0 then (p, out)
    else if p.begun ≠ [] then Port.fillFrame g time n { p with begun := p.begun.drop room } (out ++ p.begun.take room)
    else
      match p.pick g with
      | none => (p, out)
      | some k =>
        let p := { p with
          txq := p.txq.erase k, begun := (k.departs time).bytes, sentPay := p.sentPay + k.payload.length,
          credit := Tab.set (fun _ => 256) p.credit k.vc (p.creditOf k.vc - k.flits),
          lastVc := Tab.set (fun _ => 1) p.lastVc (k.vc / 2) (k.vc % 2),
          lastSrc := if k.typ = 0x20 then p.lastSrc else Tab.set (fun _ => 5) p.lastSrc k.vc (sourceOf g k) }
        Port.fillFrame g time n p out

/-- The trailer of R388. -/
def trailer (flits : List Byte) (seq fack : Nat) (nak : Bool) (cvc cred : Nat) (idle : Bool) : List Byte :=
  let hi := fun (fcrc : Nat) => leBytes 8 (fcrc + seq % 1024 * 2 ^ 32 + fack % 1024 * 2 ^ 42 + boolNat nak * 2 ^ 52 + cvc * 2 ^ 53 +
    cred * 2 ^ 55 + boolNat idle * 2 ^ 63)
  hi (crc32 (flits ++ (hi 0).drop 4))

/-- A whole frame's bytes. -/
def Port.frameBytes (p : Port) (f : Frame) (idle : Bool) : List Byte :=
  let flits := f.flits ++ List.replicate (2048 - f.flits.length) 0
  flits ++ trailer flits f.seq (p.rxNext + 1023) p.nak f.cvc f.cred idle

/-- The virtual channel whose credit the next frame returns. -/
def Port.creditVc (p : Port) : Option Nat := (List.range 4).find? (fun v => p.owes v != 0)

/-- The port puts its next frame on the link: a resend that is due, a new frame while fewer than 128 are unacknowledged and there
is something to carry, else an idle frame. Also how many frames it resent. -/
def Port.sendFrame (p : Port) (g now : Nat) (time : W64) : Port × Nat :=
  match p.unacked[p.sent]? with
  | some f =>
    let f := { f with resends := f.resends + 1 }
    ({ p with unacked := p.unacked.set p.sent f, sent := p.sent + 1, wire := p.frameBytes f false, nak := false }, 1)
  | none =>
    let idle := ({ p with wire := p.frameBytes ⟨p.txSeq, [], 0, 0, 0⟩ true, nak := false }, 0)
    if 128 ≤ p.unacked.length then idle
    else
      let r := Port.fillFrame g time 64 p []
      match r.2.isEmpty, p.creditVc with
      | true, none => idle
      | _, v =>
        let vc := v.getD 0
        let c := min 255 (p.owes vc)
        let f : Frame := ⟨p.txSeq, r.2, vc, c, 0⟩
        let q := r.1
        ({ q with txSeq := (p.txSeq + 1) % 1024, unacked := q.unacked ++ [f], sent := p.sent + 1,
                  ackAt := if p.unacked.isEmpty then now else p.ackAt,
                  owed := Tab.set (fun _ => 0) q.owed vc (p.owes vc - c), wire := p.frameBytes f false, nak := false }, 0)

/-- A codeword of 514 message symbols, 10 bits each, with its parity (R387). -/
def codeword (msg : Nat) : List Nat :=
  let m := (List.range 514).map (fun i => bitsOf msg (10 * i) 10)
  m ++ (List.range 30).map (fun i => (Config.rsParity m i).toNat)

/-- The frame last put on the link goes out in codewords, which take the lanes in use in rotation (R387); bits that fill none wait for the next
frame. -/
def Port.encode (p : Port) : Port :=
  let v := p.cwVal + leNat p.wire * 2 ^ p.cwLen
  let n := p.cwLen + 8 * p.wire.length
  let k := n / 5140
  let on := (List.range 4).filter p.used.testBit
  let m := max 1 on.length
  { p with cwVal := v / 2 ^ (5140 * k), cwLen := n % 5140, cwLane := (p.cwLane + k) % m,
           words := (List.range k).map (fun i => ((on[(p.cwLane + i) % m]?).getD 0, codeword (bitsOf v (5140 * i) 5140))) }

/-- Hundredths of a nanosecond a frame takes: 2,048 flit bytes at the rates of R386. -/
def State.frameTime (s : State) (g : Nat) : Nat := 2048 * 2 ^ (s.portWidth g) * (1 + s.fld (Reg.portStatus g) 5 1)

/-- One nanosecond of a port: a frame that is due is sent. A port that is not up, or is narrowing, sends none. -/
def State.portTick (s : State) (g : Nat) : State :=
  let p := s.port g
  if (s.portState g = 2 ∨ s.portState g = 6) ∧ p.due ≤ 100 * s.ns then
    let r := p.sendFrame g s.ns s.time
    let s := s.dieCount (16 + g) r.1.sentPay
    let p := { r.1.encode with sentPay := 0, due := (if p.due + s.frameTime g ≤ 100 * s.ns then 100 * s.ns else p.due) + s.frameTime g }
    let s := s.setPort g p
    if r.2 = 0 then s else s.bump (Reg.portErrB g) 32 32
  else s

/-! ### TAGs of memory requests (R394) -/

def tagCore (t : Nat) : Nat := t % 64
def tagSlot (t : Nat) : Nat := t / 64 % 16
def tagEpoch (t : Nat) : Nat := t / 1024 % 64
def tagSeq (t : Nat) : Nat := t / 65536
/-- A control core's TAG. -/
def tagCtl (t : Nat) : Bool := tagSlot t == 15 && tagEpoch t == 0x3F

/-- A stream at its destination, by source and TAG: the space of its job plus one (0: not seen), and the next sequence number to commit. -/
def State.conn (s : State) (src tag : Nat) : Nat × Nat := Tab.get (fun _ => (0, 0)) s.conns ((src * 1024 + tag % 1024) * 64 + tagEpoch tag)
def State.setConn (s : State) (src tag : Nat) (v : Nat × Nat) : State :=
  { s with conns := Tab.set (fun _ => (0, 0)) s.conns ((src * 1024 + tag % 1024) * 64 + tagEpoch tag) v }

/-- Serially before, of 16-bit sequence numbers. -/
def seqBefore (a b : Nat) : Bool := a != b && decide ((b + 65536 - a) % 65536 < 32768)

/-- Is a held WRITE or ADD the next of its stream? A control core's is held by nothing. -/
def State.nextUp (s : State) (r : InReq) : Bool := tagCtl r.tag || (s.conn r.src r.tag).2 == tagSeq r.tag

end Sys2Proof.Machine
end

