-- ==== Sys2Proof/Machine/Tier.lean ====
section
/-! DEFINITION. The memory tiers: channels (R310), encryption of data units (R317, R318), the translation walk (R313 to R315), cached
translations (R316), and reads, writes and atomic adds of memory by window (R45, R319). -/
namespace Sys2Proof.Machine

namespace Reg
def memSpace (n : Nat) : Nat := 0xC0000 + 8 * n
def memCoreSpace (q : Nat) : Nat := 0xC0100 + 8 * q
def memInval : Nat := 0xC0140
def xlateCount : Nat := 0xC0148
def cellar (d : Nat) : Nat := 0x800000 + (d - 1) * 0x100000
def t1Cfg (d : Nat) : Nat := cellar d + 0x40000
def t2Cfg (d : Nat) : Nat := cellar d + 0x40008
def retrain (d : Nat) : Nat := cellar d + 0x40010
def chStatus (d ch : Nat) : Nat := cellar d + 0x40100 + 8 * ch
def attZero (k : Nat) : Nat := 0x200000 + k * 0x10000
def attAdds (k : Nat) : Nat := 0x200008 + k * 0x10000
def chkFails (k : Nat) : Nat := 0x60100 + 4 * k
end Reg

/-! ### Channels and data units -/

def t2Base : Nat := 0x10000000000

/-- The channel of a cellar die's physical offset, numbered as MEM_RETRAIN.CHANNEL (R310). -/
def chanOf (off : Nat) : Nat := if off < t2Base then off / 512 % 16 else 16 + (off - t2Base) / 512 % 4

/-- Does a channel of the data units of n bytes stand in a state of MEM_CH_STATUS: 1 retraining, 2 down? Sixteen units lie in every channel of
their tier. -/
def State.chanAny (s : State) (die off n st : Nat) : Bool :=
  (List.range (min 16 ((off % 512 + n + 511) / 512))).any (fun i => s.fld (Reg.chStatus die (chanOf (off + 512 * i))) 0 2 == st)

/-- Is a channel of the n bytes down, or held by a retrain (R325)? -/
def State.chanDown (s : State) (die off n : Nat) : Bool := s.chanAny die off n 2
def State.chanHeld (s : State) (die off n : Nat) : Bool := s.chanAny die off n 1

/-- The number of a physical data unit among all of the package. -/
def unitOf (die off : Nat) : Nat := cellarKey die off / 512

/-- The identity of the key in a slot of a die; 0 when the slot is empty. -/
def State.keyAt (s : State) (die slot : Nat) : Nat := Tab.get (fun _ => 0) s.keys (die * 32 + slot)
def State.setKey (s : State) (die slot id : Nat) : State := { s with keys := Tab.set (fun _ => 0) s.keys (die * 32 + slot) id }

def State.sealAt (s : State) (die off : Nat) : Option Seal := Tab.get (fun _ => none) s.sealed (unitOf die off)

/-- The 512 bytes that stand in memory for the data unit of an offset: the plaintext of a sealed unit, else what the devices hold. -/
def State.unitBytes (s : State) (die off : Nat) : List Byte := s.rdBytes (cellarKey die (off / 512 * 512)) 512

/-- A byte of a tier read under a key and data-unit number (R317): under another key or number than it was written under, it is that unit's
ciphertext decrypted. -/
def State.tierByte (s : State) (die off key dun : Nat) : Byte :=
  match s.sealAt die off with
  | some x =>
    if x.key = key ∧ x.dun = dun then s.rd8 (cellarKey die off)
    else Config.xtsDec key dun ((List.range 512).map (Config.xtsEnc x.key x.dun (s.unitBytes die off))) (off % 512)
  | none => Config.xtsDec key dun (s.unitBytes die off) (off % 512)

/-- Make a data unit stand under a key and number: the merge of R318 decrypts and encrypts the whole unit. -/
def State.resealUnit (s : State) (die off key dun : Nat) : State :=
  if s.sealAt die off = some ⟨key, dun⟩ then s
  else
    let base := off / 512 * 512
    let bytes := (List.range 512).map (fun i => s.tierByte die (base + i) key dun)
    let s := s.wr (cellarKey die base) bytes
    { s with sealed := Tab.set (fun _ => none) s.sealed (unitOf die off) (some ⟨key, dun⟩) }

/-- Read n bytes of physical tier memory: dun is the data-unit number of the first byte's unit. -/
def State.physRead (s : State) (die off key dun n : Nat) : List Byte :=
  (List.range n).map (fun i => s.tierByte die (off + i) key (dun + ((off + i) / 512 - off / 512)))

/-- Write bytes of physical tier memory (R318). -/
def State.physWrite (s : State) (die off key dun : Nat) (bs : List Byte) : State :=
  if bs.isEmpty then s
  else
    let last := (off + bs.length - 1) / 512 - off / 512
    let s := (List.range (last + 1)).foldl (fun t i => t.resealUnit die (off + 512 * i) key (dun + i)) s
    s.wr (cellarKey die off) bs

/-- Supervisor memory: key slot 0, and the physical tier offset over 512 as number (R317). -/
def physDun (off : Nat) : Nat := (if off < t2Base then off else off - t2Base) / 512
def State.supRead (s : State) (die off n : Nat) : List Byte := s.physRead die off (s.keyAt die 0) (physDun off) n
def State.supWrite (s : State) (die off : Nat) (bs : List Byte) : State := s.physWrite die off (s.keyAt die 0) (physDun off) bs

/-! ### The walk (R313 to R315) -/

/-- A page-table entry read at a tier-1 offset of a cellar die, and whether its check holds (class 3 of R547). -/
def State.pte (s : State) (die off : Nat) : Nat × Bool :=
  let bs := s.supRead die off 16
  (leNat bs, bitsOf (leNat bs) 96 32 == check32c (bs.take 12) (off + (die - 1) * 2 ^ 40))

/-- Where the leaf of va stands: the cellar die, the tier-1 offset, the entry, and whether it maps 2 MiB. A corrupt path has
none. -/
def State.leafAt (s : State) (space va : Nat) : Option (Nat × Nat × Nat × Bool) :=
  let sp := Reg.memSpace space
  if s.fld sp 0 1 = 0 ∨ s.fld sp 32 27 ≤ va / 0x200000 then none
  else
    let die := s.fld sp 1 2 + 1
    let a := s.fld sp 4 27 * 512 + 16 * (va / 0x200000)
    let e := s.pte die a
    if !e.2 then none
    else if e.1.testBit 1 then some (die, a, e.1, true)
    else if !e.1.testBit 0 then none
    else
      let d2 := bitsOf e.1 4 2 + 1
      let a2 := bitsOf e.1 16 27 * 512 + 16 * (va % 0x200000 / 65536)
      let f := s.pte d2 a2
      if f.2 then some (d2, a2, f.1, false) else none

/-- The size of tier 1 of a cellar die (R306). -/
def tier1Cap : Nat := 2 ^ 36

/-- Reserved fields of a leaf are zero and its key slot is not the supervisor's. -/
def leafOk (e : Nat) : Bool :=
  bitsOf e 3 1 == 0 && bitsOf e 7 1 == 0 && bitsOf e 8 5 != 0 && bitsOf e 13 3 == 0 && bitsOf e 40 3 == 0 && bitsOf e 43 53 == 0

def pointerOk (e : Nat) : Bool :=
  bitsOf e 2 2 == 0 && bitsOf e 6 2 == 0 && bitsOf e 8 8 == 0 && bitsOf e 43 53 == 0

/-- The mapping of a leaf, or the cause of its fault. -/
def State.leaf (s : State) (e : Nat) (big : Bool) : Except Nat Map :=
  let die := bitsOf e 4 2 + 1
  let off := bitsOf e 16 24 * 65536
  let size := if big then 0x200000 else 0x10000
  let cap := if bitsOf e 6 1 = 0 then tier1Cap else s.tier2Cap die
  if !leafOk e then .error 4
  else if cap < off + size || (big && bitsOf e 16 24 % 32 != 0) then .error 5
  else .ok ⟨die, if bitsOf e 6 1 = 0 then off else t2Base + off, bitsOf e 8 5, e.testBit 2, big⟩

/-- The level-1 entry of va in a space: its cellar die and tier-1 offset. -/
def State.level1 (s : State) (space va : Nat) : Nat × Nat :=
  (s.fld (Reg.memSpace space) 1 2 + 1, s.fld (Reg.memSpace space) 4 27 * 512 + 16 * (va / 0x200000))

/-- The entry of va in the level-2 table a pointer names. -/
def level2 (e va : Nat) : Nat × Nat := (bitsOf e 4 2 + 1, bitsOf e 16 27 * 512 + 16 * (va % 0x200000 / 65536))

/-- Is space enabled, and va below its level-1 bound (R313)? -/
def State.inSpace (s : State) (space va : Nat) : Bool :=
  s.fld (Reg.memSpace space) 0 1 == 1 && decide (va / 0x200000 < s.fld (Reg.memSpace space) 32 27)

/-- Is a table the walk of va reads on a channel that a retrain holds (R325)? -/
def State.walkHeld (s : State) (space va : Nat) : Bool :=
  let a := s.level1 space va
  let e := s.pte a.1 a.2
  s.inSpace space va &&
    (s.chanHeld a.1 a.2 16 ||
     (e.2 && e.1.testBit 0 && !e.1.testBit 1 && s.chanHeld (level2 e.1 va).1 (level2 e.1 va).2 16))

/-- The walk of va in a space: its mapping, or the cause of R315. A table on a channel that is down gives cause 6 (R325). -/
def State.walk (s : State) (space va : Nat) : Except Nat Map :=
  if !s.inSpace space va then .error 3
  else
    let a := s.level1 space va
    if tier1Cap < a.2 + 16 then .error 5
    else if s.chanDown a.1 a.2 16 then .error 6
    else
      let e := s.pte a.1 a.2
      if !e.2 then .error 4
      else if !e.1.testBit 0 then .error 1
      else if e.1.testBit 1 then s.leaf e.1 true
      else if !pointerOk e.1 then .error 4
      else if s.chanDown (level2 e.1 va).1 (level2 e.1 va).2 16 then .error 6
      else
        let f := s.pte (level2 e.1 va).1 (level2 e.1 va).2
        if !f.2 then .error 4
        else if !f.1.testBit 0 then .error 1
        else if !f.1.testBit 1 then .error 4
        else s.leaf f.1 false

def Map.size (m : Map) : Nat := if m.big then 0x200000 else 0x10000
/-- The die offset a virtual address maps to. -/
def Map.phys (m : Map) (va : Nat) : Nat := m.off + va % m.size

/-! ### Cached translations (R316): caches 0 to 15 are the clusters' translation units, 16 + c is the STR's of core c -/

def tlbKey (u space page : Nat) (big : Bool) : Nat := ((u * 16 + space) * 2 ^ 31 + page) * 2 + boolNat big

/-- The caches an access looks up, in their order: a stream's of core c, and any other made through a cluster's unit. -/
def strCaches (c : Nat) : List Nat := [16 + c, c / 4]
def unitCaches (cl : Nat) : List Nat := [cl]

/-- Entries of a cache. -/
def cacheSize (u : Nat) : Nat := if u < 16 then 2048 else 64

/-- The mapping one cache holds for va. -/
def State.cachedIn (s : State) (u space va : Nat) : Option Map :=
  match Tab.get (fun _ => none) s.tlb (tlbKey u space (va / 65536) false) with
  | some m => some m
  | none => Tab.get (fun _ => none) s.tlb (tlbKey u space (va / 0x200000 * 32) true)

/-- The mapping of va in the first of the caches that holds one; none outside an enabled space, where every access faults with cause 3
(R313). -/
def State.cached (s : State) (us : List Nat) (space va : Nat) : Option Map :=
  if s.inSpace space va then us.findSome? (fun u => s.cachedIn u space va) else none

/-- The keys of the entries a cache holds. -/
def State.cacheKeys (s : State) (u : Nat) : List Nat := (s.tlb.map (·.1)).filter (fun k => k / 2 ^ 36 == u)

/-- A mapping enters a cache; a full one gives up an entry, whose choice the spec does not define: a free value (R316). -/
def State.cacheIn (s : State) (u space va : Nat) (m : Map) : State :=
  let k := if m.big then tlbKey u space (va / 0x200000 * 32) true else tlbKey u space (va / 65536) false
  let held := (s.cacheKeys u).filter (fun x => x != k)
  let s := if held.length < cacheSize u then s
    else
      let out := (held[(Config.freeValue s.free).toNat % held.length]?).getD k
      { s with tlb := Tab.set (fun _ => none) s.tlb out none, free := s.free + 1 }
  { s with tlb := Tab.set (fun _ => none) s.tlb k (some m) }

/-- A walk's result enters the caches that missed. -/
def State.cache (s : State) (us : List Nat) (space va : Nat) (m : Map) : State := us.foldl (fun t u => t.cacheIn u space va m) s

/-- The mapping n bytes of an access of a kind (0 read, 1 write, 2 add) can use now: cached, writable where it writes, its channels up. -/
def State.usable (s : State) (us : List Nat) (space va kind n : Nat) : Option Map :=
  match s.cached us space va with
  | some m => if (kind = 0 ∨ m.w) ∧ !s.chanDown m.die (m.phys va) n then some m else none
  | none => none

/-- Read n bytes of a space through a mapping. -/
def State.mapRead (s : State) (m : Map) (va n : Nat) : List Byte :=
  s.physRead m.die (m.phys va) (s.keyAt m.die m.key) (va / 512) n

/-- Count bytes read from or written to a tier of a cellar die (R597). -/
def State.tierCount (s : State) (die off n : Nat) (write : Bool) : State :=
  s.dieCount ((if off < t2Base then 0 else 8) + (if write then 4 else 0) + die - 1) n

def State.mapWrite (s : State) (m : Map) (va : Nat) (bs : List Byte) : State :=
  (s.physWrite m.die (m.phys va) (s.keyAt m.die m.key) (va / 512) bs).tierCount m.die (m.phys va) bs.length true

/-- Count the bytes of a read through a mapping. -/
def State.mapCount (s : State) (m : Map) (va n : Nat) : State := s.tierCount m.die (m.phys va) n false

/-- The FP32 words of a byte list. -/
def words32 : List Byte → List W32
  | a :: b :: c :: d :: rest => BitVec.ofNat 32 (leNat [a, b, c, d]) :: words32 rest
  | _ => []

/-- The bytes after an atomic FP32 add of one list of words to another (R143, R319). -/
def addWords : List W32 → List W32 → List Byte
  | x :: xs, y :: ys => leBytes 4 (add32 x y).toNat ++ addWords xs ys
  | _, _ => []

def State.mapAdd (s : State) (m : Map) (va : Nat) (bs : List Byte) : State :=
  (s.mapCount m va bs.length).mapWrite m va (addWords (words32 (s.mapRead m va bs.length)) (words32 bs))

/-! ### On-die memory -/

/-- Is the window on-die memory that streams move bytes of (R224)? -/
def Place.onDie : Place → Bool
  | .store _ _ => true
  | .acc _ _ _ => true
  | .attic _ _ => true
  | _ => false

/-- Write or add bytes at a Britum offset (R319); an add in an attic is counted. -/
def State.dieWrite (s : State) (off : Nat) (add : Bool) (bs : List Byte) : State :=
  if add then
    let s := match britumWindow off with
      | .attic k _ => s.setRegN (Reg.attAdds k) (s.regN (Reg.attAdds k) + bs.length / 4)
      | _ => s
    s.wr off (addWords (words32 (s.rdBytes off bs.length)) (words32 bs))
  else s.wr off bs

/-- The space of core c (R313). -/
def State.coreSpace (s : State) (c : Nat) : Nat := s.fld (Reg.memCoreSpace (c / 16)) (4 * (c % 16)) 4

/-- The MEM_XLATE record (R315, R532) and its count. -/
def State.xlateFault (s : State) (unit : W32) (space cause kind slot va tile : Nat) : State :=
  let s := s.bump Reg.xlateCount 0 32
  let s := if cause = 4 then s.bump (Reg.chkFails 3) 0 32 else s
  s.record 0 0x301 2 unit (space + cause * 16 + kind * 128 + slot * 512) (va % 2 ^ 32) (va / 2 ^ 32) tile

end Sys2Proof.Machine
end

