-- ==== Sys2Proof/Machine/Stream.lean ====
section
/-! DEFINITION. The stream engine (R224 to R265): the acceptance window, the descriptor's checks, the walk, requests and class
credit, in-order commit with transforms and peg fills, suspension and abort. -/
namespace Sys2Proof.Machine

def State.str (s : State) (c : Nat) : Str := (s.core c).str
def State.setStr (s : State) (c : Nat) (x : Str) : State := s.setCore c { s.core c with str := x }
def Str.strm (x : Str) (slot : Nat) : Strm := Tab.get (fun _ => {}) x.slots slot
def Str.setStrm (x : Str) (slot : Nat) (m : Strm) : Str := { x with slots := Tab.set (fun _ => {}) x.slots slot m }
def State.strm (s : State) (c slot : Nat) : Strm := (s.str c).strm slot
def State.setStrm (s : State) (c slot : Nat) (m : Strm) : State := s.setStr c ((s.str c).setStrm slot m)

/-! ### The descriptor (R233) -/

def parseDesc (bs : List Byte) : Desc :=
  { kind := byteAt bs 0 % 16, xform := byteAt bs 0 / 16, fmt := byteAt bs 1 % 16, tsc := (byteAt bs 1).testBit 4,
    list := (byteAt bs 1).testBit 5, lkind := (byteAt bs 1).testBit 6,
    look := if byteAt bs 2 % 16 = 0 then 4 else byteAt bs 2 % 16, fillev := byteAt bs 2 / 16,
    tileW := fieldAt bs 4 2 % 2048, slots := fieldAt bs 6 2, near := fieldAt bs 8 3 % 2 ^ 20,
    counts := (List.range 5).map (fun i => fieldAt bs (11 + 3 * i) 3), listRows := fieldAt bs 26 2,
    strides := (List.range 5).map (fun i => signedOf (fieldAt bs (28 + 4 * i) 4) 32),
    far := BitVec.ofNat 64 (fieldAt bs 48 8), peg := fieldAt bs 56 2, pegPkg := bitsOf (fieldAt bs 56 4) 16 13 }

def Desc.bytes (d : Desc) : Nat := 4 * d.tileW
def Desc.count (d : Desc) (i : Nat) : Nat := (d.counts[i]?).getD 0
def Desc.stride (d : Desc) (i : Nat) : Int := (d.strides[i]?).getD 0
/-- Tiles of one list entry. -/
def Desc.inner (d : Desc) : Nat := d.count 0 * d.count 1 * d.count 2
/-- The tile total N. -/
def Desc.total (d : Desc) : Nat := if d.list then d.count 4 * d.inner else d.inner * d.count 3 * d.count 4
/-- Slot bytes of a format and tile scale (R201): 0 where there is no such slot. -/
def slotBytes (fmt : Nat) (tsc : Bool) : Nat := if tsc then (if fmt ≤ 3 then tileBytes fmt + 4 else 0) else tileBytes fmt

/-- A reserved field or value of the descriptor (R233). -/
def descReserved (bs : List Byte) (d : Desc) : Bool :=
  decide (2 < d.kind) || decide (3 < d.xform) || decide (11 < d.fmt) || (byteAt bs 1).testBit 7 || decide (8 < d.look) ||
  byteAt bs 3 != 0 || decide (2048 ≤ fieldAt bs 4 2) || decide (2 ^ 20 ≤ fieldAt bs 8 3) ||
  (if d.list && !d.lkind then d.listRows == 0 else !d.list && d.listRows != 0)

/-- Combinations refused by R244, R248 and R249. -/
def Desc.badCombo (d : Desc) : Bool :=
  let turn := decide (d.fmt ≤ 3) || (decide (10 ≤ d.fmt) && !d.tsc)
  let reb := isBlock d.fmt && !d.tsc
  (d.xform != 0 && (decide (1 < d.kind) || d.bytes != slotBytes d.fmt d.tsc ||
    !(if d.xform = 1 then turn else if d.xform = 2 then reb else turn || reb))) ||
  (d.list && (if !d.lkind then d.bytes != slotBytes d.fmt d.tsc || decide (65535 < d.count 3)
    else d.stride 3 != 0 || d.listRows != 0 || isBlock d.fmt || d.tsc || d.bytes != lineBytes d.fmt || d.xform != 0))

/-- The class of a stream (R255): 0 read, 1 write, 2 remote. -/
def State.classOf (s : State) (d : Desc) : Nat := if addrPkg d.far ≠ s.pkg then 2 else if d.kind = 0 then 0 else 1

/-- The global address of a byte of core c's own store room. -/
def State.ownAddr (s : State) (c off : Nat) : W64 := BitVec.ofNat 64 (s.pkg * 2 ^ 51 + storeKey c off)

/-- The peg field of R259. -/
def State.badPeg (s : State) (bs : List Byte) (d : Desc) : Bool :=
  if d.fillev = 0 then fieldAt bs 56 4 != 0
  else decide (2 ^ 29 ≤ fieldAt bs 56 4) || d.pegPkg != (if d.kind = 0 then s.pkg else addrPkg d.far)

/-- The detail code of R234 after detail 11; 0 when every check passes. -/
def State.descDetail (s : State) (c off : Nat) (laq : Bool) (bs : List Byte) (d : Desc) : Nat :=
  if fieldAt bs 60 4 ≠ check32c (bs.take 60) (s.ownAddr c off).toNat then 1
  else if descReserved bs d then 2
  else if d.counts.contains 0 || d.tileW == 0 || decide (1024 < d.tileW) || d.slots == 0 ||
      decide (2 ^ 32 ≤ d.counts.foldl (· * ·) 1) then 3
  else if d.near % 4 ≠ 0 ∨ storeSize < d.near + d.slots * d.bytes then 4
  else if d.kind = 1 ∧ (List.range (if d.list then 3 else 5)).any (fun i => decide (1 < d.count i) && d.stride i == 0) then 5
  else if d.badCombo then 6
  else if d.list ≠ laq then 7
  else if s.badPeg bs d then 8
  else if s.fld (Reg.strSplit c) (4 * s.classOf d) 4 = 0 then 9
  else if d.xform = 3 ∧ !(d.kind == 0 && !d.list && d.far == s.ownAddr c d.near && d.count 0 == d.slots &&
      d.stride 0 == (d.bytes : Int) && (List.range 4).all (fun i => d.count (i + 1) == 1)) then 10
  else 0

/-- Where a list may lie (R214): n entries from an own-package die-0 offset. -/
def State.listOk (c base n : Nat) : Bool :=
  let size := 4 * max n 1
  base % 4 == 0 && decide (base + size ≤ 2 ^ 48) &&
  (match britumWindow base with
   | .store c' o => c' == c && decide (o + size ≤ storeSize)
   | .attic k o => k == c / 4 && decide (o + size ≤ 0x200000)
   | .tier _ => true
   | _ => false)

/-- The row of a die's map an offset lies in (R237), 0 where it lies in none: two bytes of one tile must share it. -/
def Place.row : Place → Nat
  | .store c _ => 16 + c
  | .acc _ _ _ => 2
  | .attic _ _ => 3
  | .peg _ _ => 4
  | .setup => 5
  | .tier _ => 6
  | .phys => 7
  | .hole => 0

/-- The checks of R25 and R235 on a far address: the fault code, if one fails. -/
def State.farFault (s : State) (a : W64) (n kind : Nat) : Option Nat :=
  if s.torus ≤ addrPkg a then some 0x044
  else if addrDie a = 7 then some 0x041
  else
    let w := s.window a
    let e := if addrOff a + n ≤ 2 ^ 48 then s.window (a + BitVec.ofNat 64 (n - 1)) else .hole
    if w.row = 0 ∨ e.row ≠ w.row then some 0x042
    else
      match w with
      | .store _ _ => if a.toNat % 4 ≠ 0 ∨ kind = 2 then some 0x045 else none
      | .acc _ _ _ => if addrPkg a ≠ s.pkg then some 0x043 else if a.toNat % 4 ≠ 0 then some 0x045 else none
      | .attic _ _ => if a.toNat % 4 ≠ 0 then some 0x045 else none
      | .tier _ => if a.toNat % 4 ≠ 0 then some 0x045 else none
      | .peg _ _ => some 0x045
      | _ => some 0x043

/-- The far span of R252, as the lowest and highest offset of a far byte. -/
def Desc.span (d : Desc) : Int × Int :=
  let dims := if d.list then [(d.count 0, d.stride 0), (d.count 1, d.stride 1), (d.count 2, d.stride 2),
      (d.listRows, d.stride 4), (d.count 3, d.stride 3)]
    else (List.range 5).map (fun i => (d.count i, d.stride i))
  let r := dims.foldl (fun (x : Int × Int) p =>
    let e := ((p.1 : Int) - 1) * p.2
    (x.1 + min 0 e, x.2 + max 0 e)) ((addrOff d.far : Int), (addrOff d.far : Int))
  (r.1, r.2 + d.bytes - 1)

def State.overlaps (s : State) (c : Nat) (d : Desc) : Bool :=
  (d.xform == 1 || d.xform == 2) && addrPkg d.far == s.pkg && (s.window d.far).row == 16 + c &&
  (let lo : Int := storeKey c d.near
   let hi : Int := lo + d.slots * d.bytes - 1
   decide (d.span.1 ≤ hi ∧ lo ≤ d.span.2))

/-! ### STRM (R226 to R231) -/


/-- The entry that a flag's use takes (R227), in the order descriptor, far, near, list. -/
def State.strmEntry (s : State) (c : Nat) (w : EngW) (b : Nat) : Nat :=
  let n := ((List.range (b - 20)).filter (fun i => strmFlag w (20 + i))).length
  (((s.eng c 4).aq[n]?).getD 0).toNat

/-- The descriptor read and the first failing check, of cycles a to a + 3 (R228, R234, R235, R252). -/
def State.accept (s : State) (c : Nat) (w : EngW) : Desc × Option (Nat × Nat × Nat) :=
  let e0 := s.strmEntry c w 20
  let off := if strmFlag w 20 then bitsOf e0 0 20 else bitsOf w.opnd.toNat 0 20
  let bad := fun (n : Nat) => some (0x181, n, off)
  if off % 64 ≠ 0 ∨ storeSize < off + 64 ∨ (strmFlag w 20 ∧ 2 ^ 20 ≤ e0) then ({}, bad 11)
  else
    let bs := s.rdBytes (storeKey c off) 64
    let d := parseDesc bs
    let d := if strmFlag w 21 then { d with far := BitVec.ofNat 64 (s.strmEntry c w 21) } else d
    let e2 := s.strmEntry c w 22
    let d := if strmFlag w 22 then { d with near := bitsOf e2 0 20 } else d
    let e3 := s.strmEntry c w 23
    let d := if strmFlag w 23 then { d with listBase := bitsOf e3 0 48 } else d
    if (strmFlag w 22 && decide (2 ^ 20 ≤ e2)) || (strmFlag w 23 && (decide (2 ^ 48 ≤ e3) || !State.listOk c d.listBase (d.count 4))) then
      (d, bad 11)
    else
      let n := s.descDetail c off (strmFlag w 23) bs d
      if n ≠ 0 then (d, bad n)
      else if s.overlaps c d then (d, some (0x182, 0, 0))
      else match s.farFault d.far 1 d.kind with
        | some f => (d, some (f, 0, 0))
        | none => (d, none)

/-- The lowest free stream slot (R229). -/
def Str.free (x : Str) : Option Nat := (List.range 16).find? (fun k => (x.strm k).state == 0)

/-- The slot a stream starts in: the lowest free one, and for a stream to another package the lowest whose next epoch it has not
used in the key period (R571). -/
def Str.startSlot (x : Str) (remote : Bool) : Option Nat :=
  (List.range 16).find? (fun k => (x.strm k).state == 0 && !(remote && x.used.contains (k, ((x.strm k).epoch + 1) % 63)))

/-- The instruction at the program counter is this STRM, and every condition of cycle a holds (R228). -/
def State.windowReady (s : State) (c : Nat) (w : EngW) : Bool :=
  s.front c 4 (engEnc w 0x10) == .ok && strmOwn w && engFieldsOk w && s.waitsOk c 4 w &&
  decide (strmEntries w ≤ (s.eng c 4).aq.length) && (s.str c).free.isSome

def execStrmWindowOpen (c : Fin 64) (w : EngW) (s : State) : Out :=
  if s.windowReady c w && (s.str c).window.isNone then
    let r := s.accept c w
    .next (s.setStr c { s.str c with window := some ⟨(s.eng c 4).pc, w, (s.core c).cycles, r.1, r.2⟩ })
  else .next s

/-- STRM's own part in cycle a + 4. -/
def strmBody (c : Nat) (w : EngW) (t : State) : IssueRes :=
  let x := t.str c
  let k := t.eng c 4
  if k.aq.length < strmEntries w then .stall .stallQueue
  else
    match x.window with
    | some v =>
      if v.pc ≠ k.pc ∨ (t.core c).cycles < v.opened + 4 then .stall .stallBusy
      else
        match v.bad with
        | some (code, n, off) => .fault code n off 0
        | none =>
          let cls := t.classOf v.d
          match x.startSlot (cls == 2) with
          | none => .stall .stallBusy
          | some slot =>
            let epoch := ((x.strm slot).epoch + 1) % 63
            let m : Strm := { state := 1, pc := k.pc, sig0 := w.sig0, sig1 := w.sig1, d := v.d, cls := cls,
                              total := v.d.total, epoch := epoch }
            let x := x.setStrm slot m
            let used := if cls = 2 then (slot, epoch) :: x.used else x.used
            let t := t.setEng c 4 { k with aq := k.aq.drop (strmEntries w) }
            .go (t.setStr c { x with window := none, used := used }) none (engLeft w t c 4 0x10 0 0 0)
    | none => .stall .stallBusy

/-- A window whose waits do not hold in cycle a + 4, or in which the engine stands in no state to issue, is abandoned as that cycle ends
(R228). One whose waits held stays open until the STRM issues. -/
def State.closeWindow (s : State) (c : Nat) : State :=
  match (s.str c).window with
  | some v =>
    if v.opened + 4 ≤ (s.core c).cycles ∧ !s.waitsOk c 4 v.w then s.setStr c { s.str c with window := none } else s
  | none => s

/-- Did STRM take the fault of a descriptor check value: the failure is counted once it is raised (class 1 of R547)? -/
def State.descCheckRaised (s t : State) (c : Nat) : Bool :=
  (s.eng c 4).st.runs && (t.eng c 4).st == .faulted && (t.eng c 4).fault == 0x181 &&
  (match (s.str c).window with
   | some v => v.bad.map (fun b => (b.1, b.2.1)) == some (0x181, 1)
   | none => false)

/-- STRM issues at the end of its window (R228). A window that ends is closed. -/
def execStrm (c : Fin 64) (w : EngW) (s : State) : Out :=
  let ripe := match (s.str c).window with
    | some v => decide (v.opened + 4 ≤ (s.core c).cycles)
    | none => false
  match s.issue c 4 0x10 w (insnOwn 4 0x10 w) (strmBody c w) with
  | .next t =>
    let t := if s.descCheckRaised t c then t.bump (Reg.chkFails 0) 0 32 else t
    .next (if ripe && (t.eng c 4).st != .stallBusy then t.setStr c { t.str c with window := none } else t)
  | o => o

/-! ### The walk (R236 to R246) -/

/-- What the walk gives for a tile: a list entry not yet read, a null entry, a refused entry, or the far offset. -/
inductive TileAt where
  | unknown
  | null
  | refused (pos : Nat)
  | far (off : Int)
deriving DecidableEq, Repr

/-- List entry e, once its piece has been read. -/
def Strm.entry (m : Strm) (e : Nat) : Option Nat :=
  let a := m.d.listBase + 4 * e
  (m.pieces.find? (fun p => p.1 == a / 64)).map (fun p => leNat ((p.2.drop (a % 64)).take 4))

/-- The offset of n dimensions for tile index r within them. -/
def walkOff (d : Desc) (r : Nat) : Nat → Int
  | 0 => 0
  | n + 1 =>
    let below := ((List.range n).map d.count).foldl (· * ·) 1
    ((r / below % d.count n : Nat) : Int) * d.stride n + walkOff d r n

/-- The list entry's part: refused under R212, R213 and R215, null, or its offset. -/
def Strm.entryAt (m : Strm) (e : Nat) : TileAt :=
  match m.entry e with
  | none => .unknown
  | some x =>
    if x = 0xFFFFFFFF then .null
    else if m.d.lkind then
      if 2 ^ 31 ≤ x ∨ m.d.count 3 ≤ x then .refused e else .far ((x : Int) * m.d.stride 4)
    else
      let i := x % 65536
      let j := x / 65536
      if i = 0xFFFF ∨ j = 0xFFFF ∨ m.d.listRows ≤ i ∨ m.d.count 3 ≤ j then .refused e
      else .far ((i : Int) * m.d.stride 4 + (j : Int) * m.d.stride 3)

def Strm.tileAt (m : Strm) (t : Nat) : TileAt :=
  let base : Int := addrOff m.d.far
  if m.d.list then
    match m.entryAt (t / m.d.inner) with
    | .far o => .far (base + o + walkOff m.d (t % m.d.inner) 3)
    | r => r
  else .far (base + walkOff m.d t 5)

/-- The global address of a far offset. -/
def Strm.farAddr (m : Strm) (off : Int) : W64 := BitVec.ofNat 64 (m.d.far.toNat / 2 ^ 48 * 2 ^ 48 + off.toNat)

/-- Near-side key of tile t (R225). -/
def Strm.nearKey (m : Strm) (c t : Nat) : Nat := storeKey c (m.d.near + t % m.d.slots * m.d.bytes)

/-- The next tile with a request: the first from the next request on, within the lookahead, whose entry is not null. -/
def Strm.nextTile (m : Strm) : Option Nat :=
  match (List.range 9).find? (fun i => m.tileAt (m.tile + i) != .null) with
  | some i => if m.tile + i < m.total ∧ m.tile + i < m.done + m.d.look then some (m.tile + i) else none
  | none => none

/-- The bytes of the next request of a tile at a (R257). -/
def Strm.reqLen (m : Strm) (a : W64) (part : Nat) : Nat :=
  let win := if m.cls = 2 then 1024 else 512
  min (m.d.bytes - part) (win - (a.toNat + part) % win)

/-- A request's cost (R252, R257). -/
def reqCost (w : Place) (cls xform a n : Nat) : Nat :=
  let unit := if cls = 2 then 1024 else match w with
    | .tier _ => 512
    | _ => 64
  (((a + n - 1) / unit - a / unit + 1) * unit) * (if xform = 0 then 1 else 2)

/-- Does a stop discard the data of a tile? -/
def Strm.drops (m : Strm) (t : Nat) : Bool := m.stop.any (fun x => decide (x.tile ≤ t))

/-- Landing-buffer bytes held by a stream (R253): every tile with a request that is not committed and that no stop discards. -/
def Str.landing (x : Str) (slot : Nat) : Nat :=
  let m := x.strm slot
  if m.state = 1 ∨ m.state = 3 then
    m.d.bytes * ((List.range 9).filter (fun i => x.xfers.any (fun f => f.slot == slot && f.tile == m.done + i) && !m.drops (m.done + i))).length
  else 0

def Str.landingAll (x : Str) : Nat := (List.range 16).foldl (fun a k => a + x.landing k) 0

/-- Peg fills of a stream still to be acknowledged count as transfers (R258). -/
def Str.inFlight (x : Str) : Nat :=
  (x.xfers.filter (fun f => !f.retired)).length + (List.range 16).foldl (fun a k => a + ((x.strm k).fills - (x.strm k).filled)) 0

/-! ### Class credit (R255) -/

def State.credit (s : State) (c k : Nat) : Int :=
  let x := s.str c
  let old := Tab.get (fun _ => 0) x.credit k
  let gone := s.netCycle - Tab.get (fun _ => 0) x.creditAt k
  min (old + 8 * (s.fld (Reg.strSplit c) (4 * k) 4 : Nat) * (gone : Int)) 2048

def State.charge (s : State) (c k cost : Nat) : State :=
  let x := s.str c
  let v := s.credit c k - (cost : Int)
  s.setStr c { x with credit := Tab.set (fun _ => 0) x.credit k v, creditAt := Tab.set (fun _ => 0) x.creditAt k s.netCycle }

/-- Every class's credit is zero from now on. -/
def State.zeroCredit (s : State) (c : Nat) : State :=
  let x := s.str c
  s.setStr c { x with credit := [], creditAt := (List.range 3).foldl (fun t k => Tab.set (fun _ => 0) t k s.netCycle) [] }

/-- Has a request of the class been started in this network cycle (R255)? -/
def State.classBusy (s : State) (c k : Nat) : Bool := Tab.get (fun _ => 0) (s.str c).startAt k == s.netCycle + 1

/-! ### Stops (R262 to R264) -/

/-- The late STR_ABORT or TEN_INDEX of a stream (R531): its STRM never completes. -/
def State.strmFault (s : State) (c slot : Nat) (x : Stop) : State :=
  let m := s.strm c slot
  let k := s.eng c 4
  let gone := k.out.find? (fun i => i.pc == m.pc && i.opc == 0x10 && i.sig0 == m.sig0 && i.sig1 == m.sig1)
  let s := match gone with
    | some i => s.setEng c 4 { k with out := k.out.erase i }
    | none => s
  if x.code = 0x172 then s.late c 4 m.pc 0x172 slot m.done x.pos
  else s.late c 4 m.pc x.code (slot + x.cause % 8 * 16) m.done (min m.filled 65535 + x.pos * 65536)

/-- A stopped stream ends or is suspended once every tile before the stop is committed and every transfer and fill has
retired. -/
def State.settle (s : State) (c slot : Nat) : State :=
  let m := s.strm c slot
  match m.stop with
  | none => s
  | some x =>
    if m.done < x.tile ∨ m.filled < m.fills ∨ (s.str c).xfers.any (fun f => f.slot == slot && !f.retired) then s
    else
      let y := s.str c
      let y := { y with xfers := y.xfers.filter (fun f => f.slot != slot) }
      if x.abort then
        ((s.setStr c (y.setStrm slot { m with state := 0, stop := none })).strmFault c slot x).stirNext c
      else
        (s.setStr c (y.setStrm slot { m with state := 2 })).stirNext c

/-- Stop a stream at a tile: an earlier stop stands. Data of that tile and later ones is discarded. -/
def State.stopAt (s : State) (c slot : Nat) (x : Stop) : State :=
  let m := s.strm c slot
  if m.state != 1 && m.state != 3 then s
  else if m.drops x.tile then s.settle c slot
  else
    let back := (((s.str c).xfers.filter (fun f => f.slot == slot && decide (x.tile ≤ f.tile))).map (·.seq) ++
        (m.nulls.filter (fun n => decide (x.tile ≤ n.2.2))).map (·.1)).foldl
      (fun a b => if (b + 65536 - a) % 65536 < 32768 then a else b) m.seq
    (s.setStrm c slot { m with state := if x.abort then 3 else 1, stop := some x, seq := back }).settle c slot

/-- A stream stops at a tile by a translation fault at an address (cause 1), of another package's translation where away is 1, or because its
destination cannot be reached (cause 3); the supervisor is told (R262, R405). -/
def State.suspendAt (s : State) (c slot tile va cause away : Nat) : State :=
  let s := s.stopAt c slot ⟨tile, false, away, cause, va⟩
  { s with notices := s.notices ++ [[0x262, c, slot, va, tile]] }

/-- A suspended stream restarts at its first undelivered tile (R263). -/
def State.resumeStream (s : State) (c slot : Nat) : State :=
  let m := s.strm c slot
  if m.state = 2 then (s.setStrm c slot { m with state := 1, stop := none, tile := m.done, part := 0 }).stirNext c else s

/-- Abort a stream at its first undelivered tile (R263). -/
def State.abortStream (s : State) (c slot cause pkg : Nat) : State :=
  let m := s.strm c slot
  let x : Stop := ⟨m.done, true, 0x183, cause, pkg⟩
  if m.state = 2 then
    ((s.setStrm c slot { m with state := 0, stop := none }).strmFault c slot x).stirNext c
  else s.stopAt c slot x

/-- Package an abort record names: the far package. -/
def Strm.farPkg (m : Strm) : Nat := addrPkg m.d.far

/-! ### Requests -/

/-- The state of a slot's next request: nothing, a stop to make, or a request (tile, its address, length and cost). -/
inductive NextReq where
  | none
  | stop (x : Stop)
  | req (tile : Nat) (part : Nat) (a : W64) (n cost : Nat)
deriving DecidableEq, Repr

def State.nextReq (s : State) (c slot : Nat) : NextReq :=
  let m := s.strm c slot
  if m.state ≠ 1 ∨ m.stop.isSome then .none
  else
    match m.nextTile with
    | none => .none
    | some t =>
      let part := if t = m.tile then m.part else 0
      match m.tileAt t with
      | .unknown => .none
      | .null => .none
      | .refused pos => .stop ⟨t, true, 0x172, 0, pos⟩
      | .far off =>
        let a := m.farAddr off
        if off < 0 ∨ 2 ^ 48 ≤ off ∨ (s.farFault a m.d.bytes m.d.kind).isSome then .stop ⟨t, true, 0x183, 2, m.farPkg⟩
        else
          let n := m.reqLen a part
          .req t part (a + BitVec.ofNat 64 part) n (reqCost (s.window a) m.cls m.d.xform (a.toNat + part) n)

/-- Is a slot's next request ready to start: its stop known, or room in the landing buffer and its translation cached? -/
def State.reqReady (s : State) (c slot : Nat) : Bool :=
  match s.nextReq c slot with
  | .none => false
  | .stop _ => true
  | .req _ part a n _ =>
    let m := s.strm c slot
    (part != 0 || decide ((s.str c).landingAll + m.d.bytes ≤ 65536)) &&
    (match s.window a with
     | .tier va => m.cls == 2 || (s.usable (strCaches c) (s.coreSpace c) va m.d.kind n).isSome
     | _ => true)

/-- The slot whose turn it is in a class: the first ready one after the slot that went last, in slot order. -/
def State.turnOf (s : State) (c k : Nat) : Option Nat :=
  let last := Tab.get (fun _ => 15) (s.str c).turn k
  ((List.range 16).map (fun i => (last + 1 + i) % 16)).find? (fun slot => (s.strm c slot).cls == k && s.reqReady c slot)

/-! ### Transforms (R249, R250) -/

/-- A tile's bytes as a reader. -/
def bytesRd (bs : List Byte) (o : Nat) : Nat := byteAt bs o

/-- Turn: element m of line l becomes element l of line m; a tile scale stays. -/
def turnTile (fmt : Nat) (tsc : Bool) (bs : List Byte) : List Byte :=
  let head := if tsc then bs.take 4 else []
  let rd := bytesRd (if tsc then bs.drop 4 else bs)
  head ++ (List.range 1024).flatMap (fun k => leBytes (elemBits fmt / 8) (elemCode rd fmt (k % 32) (k / 32)))

/-- Re-block: new blocks along the other axis, and whether one was written with scale 0xFF. -/
def reblockTile (fmt : Nat) (bs : List Byte) : List Byte × Bool :=
  let rd := bytesRd bs
  let elem := fun (l m : Nat) => (elemNum fmt (elemCode rd fmt l m)).mul (e8m0 (rd (scaleAt fmt l)))
  let emax := match fmtOf fmt with
    | some f => f.emax
    | none => 0
  let block := fun (m : Nat) =>
    let v := (List.range 32).map (fun l => elem l m)
    match scaleExp v emax (-127) 127 with
    | none => (0xFF, List.replicate 32 0)
    | some e => ((e + 127).toNat, v.map (fun x => match fmtOf fmt with
        | some f => f.elemOut .rne x e
        | none => mxint8Out .rne x e))
  let blocks := (List.range 32).map block
  let line := fun (m : Nat) => leBytes (lineBytes fmt)
    ((List.range 32).foldl (fun a i => a + (((blocks[m]?).getD (0, [])).2[i]?).getD 0 * 2 ^ (elemBits fmt * i)) 0)
  ((List.range 8).flatMap (fun g =>
    (List.range 4).flatMap (fun b => leBytes 1 ((blocks[4 * g + b]?).getD (0, [])).1) ++ (List.range 4).flatMap (fun b => line (4 * g + b))),
   blocks.any (fun b => b.1 == 0xFF))

/-- A tile's bytes after the stream's transform, and the NAN flag of R250. -/
def Desc.apply (d : Desc) (bs : List Byte) : List Byte × Bool :=
  if d.xform = 0 then (bs, false)
  else if isBlock d.fmt then reblockTile d.fmt bs else (turnTile d.fmt d.tsc bs, false)

/-- The zero tile of a null entry (R216). -/
def Desc.zeroTile (d : Desc) : List Byte :=
  if d.lkind then List.replicate d.bytes 0
  else if d.tsc then leBytes 4 0x3F800000 ++ List.replicate (d.bytes - 4) 0
  else if isBlock d.fmt then
    (List.range 8).flatMap (fun _ => List.replicate 4 (0x7F : Byte) ++ List.replicate (4 * lineBytes d.fmt) 0)
  else List.replicate d.bytes 0

/-! ### Groups and fills (R259 to R261) -/

/-- Does a fill follow tile t? -/
def Strm.fillAfter (m : Strm) (t : Nat) : Bool :=
  let f := m.d.fillev
  f != 0 && (t + 1 == m.total || (decide (2 ≤ f) && (t + 1) % 2 ^ (f - 2) == 0))

/-- The job a core's fills belong to, by its space here; a core in no job stands for its region. -/
def State.fillSpace (s : State) (c : Nat) : Nat := (s.jobOfCore c).getD (16 + c / 16)

/-- The TAG of a stream's next request (R394). -/
def Strm.tagOf (m : Strm) (c slot : Nat) : Nat := c + slot * 64 + m.epoch * 1024 + m.seq % 65536 * 65536

/-- Start the next request of a class's turn (R253 to R258). -/
def execStreamRequestStart (c : Fin 64) (slot : Fin 16) (s : State) : Out :=
  let m := s.strm c slot
  if s.still c then .next s else
  match s.nextReq c slot with
  | .none => .next s
  | .stop x => .next (s.stopAt c slot x)
  | .req t part a n cost =>
    if s.turnOf c m.cls ≠ some slot.val ∨ s.credit c m.cls ≤ 0 ∨ s.classBusy c m.cls ∨ 768 ≤ (s.str c).inFlight then .next s
    else
      let near := m.d.apply (s.rdBytes (m.nearKey c t) m.d.bytes)
      let bytes := if m.d.kind = 0 then [] else (near.1.drop part).take n
      let s := if m.d.kind ≠ 0 ∧ near.2 then s.orReg (Reg.strFlags c) 1 else s
      let last := part + n == m.d.bytes
      let tag := m.tagOf c slot
      let s := ((s.charge c m.cls cost).pmu c 9 m.cls ((cost + 63) / 64)).stirNext c
      let y := s.str c
      let y := { y with xfers := y.xfers ++ [({ slot := slot, tile := t, off := part, len := n, seq := m.seq % 65536, bytes := bytes } : Xfer)],
                        turn := Tab.set (fun _ => 15) y.turn m.cls slot, startAt := Tab.set (fun _ => 0) y.startAt m.cls (s.netCycle + 1) }
      let m := { m with tile := if last then t + 1 else t, part := if last then 0 else part + n, seq := (m.seq + 1) % 65536 }
      let s := s.setStr c (y.setStrm slot m)
      if m.cls = 2 then
        let r : Req :=
          { tag := tag, kind := if m.d.kind = 0 then 3 else m.d.kind, dst := m.farPkg, addr := a, len := n, bytes := bytes,
            fill := if last && m.d.kind != 0 && m.fillAfter t then some m.d.peg else none, first := s.ns, last := s.ns }
        .next (s.sendReq r)
      else .next s

/-- The next list piece to read (R246): the first not held of those whose first entry the lookahead needs, at most two ahead of
the entry in use. -/
def Strm.nextPiece (m : Strm) : Option Nat :=
  let first := m.d.listBase / 64
  let use := (m.d.listBase + 4 * (m.tile / m.d.inner)) / 64
  let final := (m.d.listBase + 4 * (m.d.count 4 - 1)) / 64
  (List.range 3).findSome? (fun i =>
    let p := use + i
    let e0 := if p = first then 0 else (p * 64 - m.d.listBase) / 4
    if p ≤ final ∧ e0 * m.d.inner < m.done + m.d.look ∧ (m.pieces.any (fun q => q.1 == p)) = false then some p else none)

/-- The first tile that needs a list piece. -/
def Strm.pieceTile (m : Strm) (p : Nat) : Nat :=
  max m.done ((if p = m.d.listBase / 64 then 0 else (p * 64 - m.d.listBase) / 4) * m.d.inner)

/-- A piece of the list is read, at the cost of 64 bytes at its place; pieces behind the first undelivered tile are dropped. -/
def execListPieceRead (c : Fin 64) (slot : Fin 16) (s : State) : Out :=
  let m := s.strm c slot
  if m.state ≠ 1 ∨ m.stop.isSome ∨ !m.d.list then .next s
  else
    match m.nextPiece with
    | none => .next s
    | some p =>
      let w := britumWindow (p * 64)
      let bytes : Option (List Byte) := match w with
        | .tier va => match s.usable (strCaches c) (s.coreSpace c) va 0 64 with
          | some x => if s.chanHeld x.die (x.phys va) 64 then none else some (s.mapRead x va 64)
          | none => none
        | _ => some (s.rdBytes (p * 64) 64)
      match bytes with
      | none => .next s
      | some bs =>
        if s.still c ∨ s.credit c 0 ≤ 0 ∨ s.classBusy c 0 ∨ 768 ≤ (s.str c).inFlight then .next s
        else
          let use := (m.d.listBase + 4 * (m.done / m.d.inner)) / 64
          let s := (s.charge c 0 (match w with | .tier _ => 512 | _ => 64)).stirNext c
          let y := s.str c
          .next (s.setStr c { (y.setStrm slot { m with pieces := m.pieces.filter (fun q => decide (use ≤ q.1)) ++ [(p, bs)] }) with
            startAt := Tab.set (fun _ => 0) y.startAt 0 (s.netCycle + 1) })

/-- The address of a transfer's bytes. -/
def Strm.xferAddr (m : Strm) (f : Xfer) : W64 :=
  match m.tileAt f.tile with
  | .far off => m.farAddr off + BitVec.ofNat 64 f.off
  | _ => 0

def State.setXfer (s : State) (c n : Nat) (f : Xfer) : State := s.setStr c { s.str c with xfers := (s.str c).xfers.set n f }

/-- The n-th transfer in flight arrives at its destination on the die: an IN request's data at the near side, where it is held;
an OUT or ADD request's at the far side. A store room or accumulator memory under reset refuses it (R525). -/
def execTransferArrive (c : Fin 64) (n : Nat) (s : State) : Out :=
  match (s.str c).xfers[n]? with
  | none => .next s
  | some f =>
    let m := s.strm c f.slot
    let a := m.xferAddr f
    let w := s.window a
    if f.arrived || m.drops f.tile then .next s
    else if m.cls ≠ 2 ∧ s.windowInReset w then
      .next ((s.setXfer c n { f with retired := true }).stopAt c f.slot ⟨f.tile, true, 0x183, 4, m.farPkg⟩)
    else if m.d.kind = 0 then
      if m.cls ≠ 2 ∧ w.onDie then .next ((s.setXfer c n { f with arrived := true, bytes := s.rdBytes (addrOff a) f.len }).stirNext c)
      else if f.bytes.isEmpty then .next s
      else .next ((s.setXfer c n { f with arrived := true }).stirNext c)
    else if m.cls = 2 then .next s
    else .next ((s.setXfer c n { f with arrived := true }).stirNext c)

/-- Does the tier still hold the transfer's bytes unwritten (R254)? -/
def State.awaitsWrite (s : State) (m : Strm) (f : Xfer) : Bool :=
  match s.window (m.xferAddr f) with
  | .tier _ => m.d.kind != 0 && m.cls != 2 && !f.written
  | _ => false

/-- The transfer's acknowledgement or data has come back: it retires (R258). -/
def execTransferRetire (c : Fin 64) (n : Nat) (s : State) : Out :=
  match (s.str c).xfers[n]? with
  | none => .next s
  | some f =>
    let m := s.strm c f.slot
    if f.retired || ((!f.arrived || s.awaitsWrite m f) && !(m.drops f.tile && m.cls != 2)) then .next s
    else
      let s := (s.setXfer c n { f with retired := true }).stirNext c
      let s := s.setStr c { s.str c with xfers := (s.str c).xfers.filter (fun g => !(g.slot == f.slot && g.retired && decide (g.tile < m.done))) }
      .next (s.settle c f.slot)

/-- The transfers of a tile. -/
def State.tileXfers (s : State) (c slot t : Nat) : List Xfer := (s.str c).xfers.filter (fun f => f.slot == slot && f.tile == t)

/-- Write a tile's far bytes on the die. -/
def State.writeFar (s : State) (m : Strm) (xs : List Xfer) : State :=
  xs.foldl (fun t f => t.dieWrite (addrOff (m.xferAddr f)) (m.d.kind == 2) f.bytes) s

/-- Commit tile t (R253, R254): its effect at the destination, then the count, the bytes moved and the group's fill. -/
def State.commitTile (s : State) (c slot t : Nat) (null : Bool) : State :=
  let m := s.strm c slot
  let xs := s.tileXfers c slot t
  let s :=
    if m.d.kind = 0 then
      let r := if null then (m.d.zeroTile, false) else m.d.apply (xs.flatMap (·.bytes))
      let s := s.wr (m.nearKey c t) r.1
      if r.2 then s.orReg (Reg.strFlags c) 1 else s
    else if null || m.cls == 2 then s
    else match s.window (m.xferAddr (xs.headD { slot := 0, tile := 0, off := 0, len := 0, seq := 0 })) with
      | .tier _ => s
      | _ => s.writeFar m xs
  let s := if null && m.d.kind != 0 then s else s.setRegN (Reg.strMoved c) (s.regN (Reg.strMoved c) + m.d.bytes)
  let fill := m.fillAfter t
  let local' := fill && !(m.cls == 2 && m.d.kind != 0)
  let s := if local' then
      { s with pegs := { s.pegs with fills := s.pegs.fills ++ [⟨m.d.peg, s.fillSpace c, s.unitEng c 4, some (c, slot, m.gstart), none⟩] } }
    else s
  let remoteFill := fill && !local'
  let s := if remoteFill && null then
      s.sendReq { tag := m.tagOf c slot, kind := 1, dst := m.farPkg, addr := m.d.far, len := 0, fill := some m.d.peg, first := s.ns, last := s.ns }
    else s
  let m := { m with nulls := if remoteFill && null then m.nulls ++ [(m.seq % 65536, m.gstart, t)] else m.nulls, done := t + 1, tile := max m.tile (t + 1), part := if m.tile ≤ t then 0 else m.part,
                    seq := if remoteFill && null then (m.seq + 1) % 65536 else m.seq,
                    gstart := if fill then t + 1 else m.gstart, fills := m.fills + boolNat fill, filled := m.filled + boolNat (remoteFill && !null) }
  let y := s.str c
  ((s.setStr c { (y.setStrm slot m) with xfers := y.xfers.filter (fun f => !(f.slot == slot && f.retired && decide (f.tile ≤ t))) }).stirNext c).settle c slot

/-- Must tile t wait to be committed: a stop discards it, its fill would be a transfer past the limit of R258, or a fill packet before it is
not answered? -/
def State.commitHeld (s : State) (c slot t : Nat) : Bool :=
  let m := s.strm c slot
  (m.state != 1 && m.state != 3) || m.drops t || decide (m.total ≤ t) || !m.nulls.isEmpty || s.still c ||
  (m.fillAfter t && decide (768 ≤ (s.str c).inFlight))

/-- The stream's next tile is committed once every byte of it can be written (R253, R254); a tile at or after a stop is not. For OUT and ADD
to another package the command is the event of the tile's commit there, which no packet reports (DEDUCED, log entry 91): it follows every
acknowledgement of the tile. -/
def execTileCommit (c : Fin 64) (slot : Fin 16) (s : State) : Out :=
  let m := s.strm c slot
  let t := m.done
  if s.commitHeld c slot t then .next s
  else
    match m.tileAt t with
    | .null => .next (s.commitTile c slot t true)
    | .far off =>
      let xs := s.tileXfers c slot t
      let whole := decide ((xs.map (·.len)).foldl (· + ·) 0 = m.d.bytes)
      let tierFar := match s.window (m.farAddr off) with
        | .tier _ => m.d.kind != 0 && m.cls != 2
        | _ => false
      if whole && xs.all (fun f => f.arrived && (!tierFar || f.written)) then .next (s.commitTile c slot t false) else .next s
    | _ => .next s

/-- Every tile is committed, every transfer and fill is acknowledged: the STRM completes and its slot is free (R231). -/
def execStreamComplete (c : Fin 64) (slot : Fin 16) (s : State) : Out :=
  let m := s.strm c slot
  if !s.still c ∧ m.state = 1 ∧ m.stop.isNone ∧ m.done = m.total ∧ m.filled = m.fills ∧ !(s.str c).xfers.any (fun f => f.slot == slot.val) then
    let s := s.setStrm c slot { m with state := 0 }
    let k := s.eng c 4
    match k.out.find? (fun i => i.pc == m.pc && i.opc == 0x10 && i.sig0 == m.sig0 && i.sig1 == m.sig1) with
    | none => .next s
    | some i => .next (((s.setEng c 4 { k with out := k.out.erase i }).signals c 4 i.pc true i.sig0 i.sig1).tryHalt c 4)
  else .next s

/-! ### The supervisor's answers (R263, R315) -/

/-- The request a held remote access of the control core makes again. -/
def State.resendHeld (s : State) (c : Nat) : State :=
  let k := s.core c
  let reqs := k.loads.filterMap (fun l => if l.held then l.tag.map (fun t =>
        ({ tag := t, kind := 3, dst := addrPkg l.addr, addr := l.addr, len := l.size, first := s.ns, last := s.ns } : Req)) else none)
    ++ k.stores.filterMap (fun x => if x.held then x.tag.map (fun t =>
        ({ tag := t, kind := 1, dst := addrPkg x.addr, addr := x.addr, len := x.size, bytes := leBytes x.size x.data.toNat,
           first := s.ns, last := s.ns } : Req)) else none)
  reqs.foldl (fun t r => t.sendReq r) s

/-- A resumed stream restarts at its first undelivered tile; with no slot, the control core's held accesses are made. -/
def execSuspensionResume (who : Suspended) (s : State) : Out :=
  match who with
  | .sender ch =>
    let x := s.chan ch
    .next (s.setChan ch { x with send := x.send.map (fun y => { y with suspended := false }) })
  | .stream c slot => .next (s.resumeStream c slot)
  | .ctl c =>
    let s := s.resendHeld c
    let k := s.core c
    let stores := k.stores.map (fun x => if x.held then { x with held := false } else x)
    let go := k.stores.filter (fun x => x.held && addrPkg x.addr == s.pkg && (s.window x.addr).onDie)
    let s := s.setCore c { k with
      loads := k.loads.map (fun l => { l with held := false }),
      stores := stores.map (fun x => if go.any (fun y => y.pc == x.pc && y.addr == x.addr) then { x with done := true } else x) }
    .next (go.foldl (fun t x => t.wr (addrOff x.addr) (leBytes x.size x.data.toNat)) s)

/-- An aborted stream ends with STR_ABORT; an aborted control-core access leaves its STR_ABORT to the instruction that stalls on
it (R315); an aborted send unit contributes no more to its instance (R430). -/
def execSuspensionAbort (who : Suspended) (cause : Fin 5) (pkg : BitVec 13) (s : State) : Out :=
  match who with
  | .sender ch => if ((s.chan ch).send.map (·.suspended)).getD false then .next (s.stopSend ch) else .next s
  | .stream c slot => if (s.strm c slot).state = 2 then .next (s.abortStream c slot cause pkg.toNat) else .next s
  | .ctl c =>
    let k := s.core c
    let gone := (k.stores.filter (·.held)).map (fun x => (cause.val, x.addr))
    .next (s.setCore c { k with
      loads := k.loads.map (fun l => if l.held then { l with held := false, aborted := some cause.val } else l),
      stores := k.stores.filter (fun x => !x.held),
      aborted := k.aborted ++ gone })

/-- STR_SPLIT: shares that sum to 16, and every class's credit to zero (R255). -/
def State.splitWrite (s : State) (c : Nat) (v : Nat) : State :=
  if bitsOf v 0 4 + bitsOf v 4 4 + bitsOf v 8 4 ≠ 16 then s.unmapped (Reg.strSplit c)
  else (s.setRegN (Reg.strSplit c) (v % 4096)).zeroCredit c

def execStrSplitWrite (c : Fin 64) (path : Path) (v : BitVec 32) (s : State) : Out :=
  s.guarded path (Reg.strSplit c) (fun s => s.splitWrite c v.toNat)

end Sys2Proof.Machine
end

