-- ==== Sys2Proof/Machine/Memory.lean ====
section
/-! DEFINITION. Commands of the memory tiers: walks and accesses for local requesters, invalidation, page moves, channel retrains
and the zeroing of an attic (R304, R313 to R327). -/
namespace Sys2Proof.Machine

/-! ### Walks and accesses of local requesters -/

/-- The virtual address, kind and tile of a stream's next request or list piece, where it lies in the tier window. -/
def State.streamVa (s : State) (c slot : Nat) : Option (Nat × Nat × Nat) :=
  let m := s.strm c slot
  let va := fun (a : W64) => match s.window a with
    | .tier va => some va
    | _ => none
  let piece := fun (_ : Unit) => m.nextPiece.bind (fun p =>
    match britumWindow (p * 64) with
    | .tier va => some (va, 0, m.pieceTile p)
    | _ => none)
  -- an issued request whose cached translation was given up since walks again
  let again := (s.str c).xfers.findSome? (fun f =>
    if f.slot = slot ∧ !f.written ∧ !f.retired ∧ m.cls ≠ 2 then
      (va (m.xferAddr f)).bind (fun v => if (s.cached (strCaches c) (s.coreSpace c) v).isNone then some (v, m.d.kind, f.tile) else none)
    else none)
  again.or <| match s.nextReq c slot with
  | .req t _ a n _ => if m.cls = 2 then piece () else match va a with
    | some v => if (s.usable (strCaches c) (s.coreSpace c) v m.d.kind n).isSome then piece () else some (v, m.d.kind, t)
    | none => piece ()
  | _ => if m.state = 1 ∧ m.stop.isNone ∧ m.d.list then piece () else none

/-- What a mapping gives an access of n bytes of a kind: nothing, or the cause of its fault (R315). -/
def State.mapFault (s : State) (m : Map) (va kind n : Nat) : Option Nat :=
  if kind ≠ 0 ∧ !m.w then some 2 else if s.chanDown m.die (m.phys va) n then some 6 else none

/-- The translation of va for an access of n bytes of a kind: a cached one gives its result and counts nothing; else a walk is made and counted
and its result cached (R316). The cause of the fault, if it ends in one. A walk whose tables a retrain holds waits. -/
def State.doWalk (s : State) (us : List Nat) (space va kind n : Nat) : State × Option Nat :=
  match s.cached us space va with
  | some m => (s, s.mapFault m va kind n)
  | none =>
    if s.walkHeld space va then (s, none)
    else
      let s := s.setFld Reg.xlateCount 32 32 (s.fld Reg.xlateCount 32 32 + 1)
      match s.walk space va with
      | .error cause => (s, some cause)
      | .ok m => (s.cache us space va m, s.mapFault m va kind n)

/-- Hold the control core's load or store at place n of its list, and tell the supervisor (R315). -/
def State.holdLoad (s : State) (c n : Nat) : State :=
  let k := s.core c
  let s := s.setCore c { k with loads := (k.loads.zipIdx).map (fun x => if x.2 = n then { x.1 with held := true } else x.1) }
  { s with notices := s.notices ++ [[0x262, c, 15, n, 0]] }

def State.holdStore (s : State) (c n : Nat) : State :=
  let k := s.core c
  let s := s.setCore c { k with stores := (k.stores.zipIdx).map (fun x => if x.2 = n then { x.1 with held := true } else x.1) }
  { s with notices := s.notices ++ [[0x262, c, 15, n, 1]] }

/-- The tier address of a load or store of this package. -/
def State.tierVa (s : State) (a : W64) : Option Nat :=
  if addrPkg a ≠ s.pkg then none else match s.window a with
    | .tier va => some va
    | _ => none

def State.walkStream (s : State) (c slot : Nat) : State :=
  match s.streamVa c slot with
  | none => s
  | some (va, kind, tile) =>
    match s.doWalk (strCaches c) (s.coreSpace c) va kind 1 with
    | (t, none) => t
    | (t, some cause) => (t.xlateFault (t.unitEng c 4) (t.coreSpace c) cause kind slot va tile).suspendAt c slot tile va 1 0

def State.walkLoad (s : State) (c n : Nat) : State :=
  match (s.core c).loads[n]? with
  | none => s
  | some l =>
    match s.tierVa l.addr with
    | none => s
    | some va =>
      if l.data.isSome || l.held || l.aborted.isSome then s
      else match s.doWalk (unitCaches (c / 4)) (s.coreSpace c) va 0 l.size with
        | (t, none) => t
        | (t, some cause) => (t.xlateFault (t.unitEng c 5) (t.coreSpace c) cause 0 15 va 0).holdLoad c n

def State.walkStore (s : State) (c n : Nat) : State :=
  match (s.core c).stores[n]? with
  | none => s
  | some x =>
    match s.tierVa x.addr with
    | none => s
    | some va =>
      if x.done || x.held then s
      else match s.doWalk (unitCaches (c / 4)) (s.coreSpace c) va 1 x.size with
        | (t, none) => t
        | (t, some cause) => (t.xlateFault (t.unitEng c 5) (t.coreSpace c) cause 1 15 va 0).holdStore c n

/-- An access of n bytes in a space: none where no translation is cached or a channel is held (R325); else the mapping, or cause 2 or
6 where it faults. -/
def State.tierTry (s : State) (us : List Nat) (space va kind n : Nat) : Option (Except Nat Map) :=
  match s.cached us space va with
  | none => none
  | some m =>
    match s.mapFault m va kind n with
    | some cause => some (.error cause)
    | none => if s.chanHeld m.die (m.phys va) n then none else some (.ok m)

/-- The tier access of transfer n of core c: an IN request's data is read; an OUT or ADD request's bytes are written or added once
every earlier tile is committed. -/
def State.accessStream (s : State) (c n : Nat) : State :=
  match (s.str c).xfers[n]? with
  | none => s
  | some f =>
    let m := s.strm c f.slot
    match (if m.cls = 2 then none else s.tierVa (m.xferAddr f)) with
    | none => s
    | some va =>
      if f.written || f.retired || (m.d.kind != 0 && (!f.arrived || f.tile != m.done)) then s
      else match s.tierTry (strCaches c) (s.coreSpace c) va m.d.kind f.len with
        | none => s
        | some (.error cause) =>
          (s.xlateFault (s.unitEng c 4) (s.coreSpace c) cause m.d.kind f.slot va f.tile).suspendAt c f.slot f.tile va 1 0
        | some (.ok p) =>
          let t := match m.d.kind with
            | 0 => (s.mapCount p va f.len).setXfer c n { f with bytes := s.mapRead p va f.len, written := true }
            | 1 => (s.mapWrite p va f.bytes).setXfer c n { f with written := true }
            | _ => (s.mapAdd p va f.bytes).setXfer c n { f with written := true }
          t.stirNext c

def State.accessLoad (s : State) (c n : Nat) : State :=
  match (s.core c).loads[n]? with
  | none => s
  | some l =>
    match s.tierVa l.addr with
    | none => s
    | some va =>
      if l.data.isSome || l.held || l.aborted.isSome then s
      else match s.tierTry (unitCaches (c / 4)) (s.coreSpace c) va 0 l.size with
        | none => s
        | some (.error cause) => (s.xlateFault (s.unitEng c 5) (s.coreSpace c) cause 0 15 va 0).holdLoad c n
        | some (.ok p) =>
          let k := s.core c
          (s.mapCount p va l.size).setCore c { k with loads := k.loads.set n { l with data := some (BitVec.ofNat 64 (leNat (s.mapRead p va l.size))) }, stirNext := true }

def State.accessStore (s : State) (c n : Nat) : State :=
  match (s.core c).stores[n]? with
  | none => s
  | some x =>
    match s.tierVa x.addr with
    | none => s
    | some va =>
      if x.done || x.held then s
      else match s.tierTry (unitCaches (c / 4)) (s.coreSpace c) va 1 x.size with
        | none => s
        | some (.error cause) => (s.xlateFault (s.unitEng c 5) (s.coreSpace c) cause 1 15 va 0).holdStore c n
        | some (.ok p) =>
          let s := s.mapWrite p va (leBytes x.size x.data.toNat)
          let k := s.core c
          s.setCore c { k with stores := k.stores.set n { x with done := true }, stirNext := true }

/-! ### Invalidation (R316) -/

/-- Does a MEM_INVAL of a space, all or one region, cover the page of a key of the cache? -/
def invalCovers (space : Nat) (all : Bool) (region key : Nat) : Bool :=
  (key / 2 ^ 32) % 16 == space && (all || (key / 2 % 2 ^ 31) / 32 == region)

/-- Is a transfer that uses a cached translation of the region in flight: a request of this package's streams, or one of a control core or of
another package whose translation is cached (R316)? -/
def State.inRegion (s : State) (space : Nat) (all : Bool) (region : Nat) : Bool :=
  let hit := fun (sp : Nat) (a : W64) => sp == space && (match s.tierVa a with
    | some va => all || va / 0x200000 == region
    | none => false)
  let cached := fun (cl : Nat) (a : W64) => (s.tierVa a).any (fun va => (s.cached (unitCaches cl) space va).isSome)
  (List.range 64).any (fun c =>
    (s.str c).xfers.any (fun f => !f.retired && (s.strm c f.slot).cls != 2 && hit (s.coreSpace c) ((s.strm c f.slot).xferAddr f)) ||
    (s.core c).loads.any (fun l => l.data.isNone && !l.held && l.aborted.isNone && hit (s.coreSpace c) l.addr && cached (c / 4) l.addr) ||
    (s.core c).stores.any (fun x => !x.done && !x.held && hit (s.coreSpace c) x.addr && cached (c / 4) x.addr))
  || s.inreqs.any (fun r => hit r.space r.addr && (r.kind == 3 || s.nextUp r) && cached r.cl r.addr)

/-- Drop the covered translations. -/
def State.dropCached (s : State) (space : Nat) (all : Bool) (region : Nat) : State :=
  { s with tlb := Tab.keep (fun k => !invalCovers space all region k) s.tlb }

def State.invalWrite (s : State) (v : Nat) : State :=
  if s.fld Reg.memInval 63 1 = 1 then s.unmapped Reg.memInval
  else s.setRegN Reg.memInval (bitsOf v 0 5 + bitsOf v 32 26 * 2 ^ 32 + bitsOf v 63 1 * 2 ^ 63)

def execMemInval (path : Path) (v : BitVec 64) (s : State) : Out :=
  s.guarded path Reg.memInval (fun s => s.invalWrite v.toNat)

/-! ### Page moves (R322) -/

/-- Write a page-table entry with its check. -/
def State.putPte (s : State) (die off e : Nat) : State :=
  let bs := leBytes 12 e
  s.supWrite die off (bs ++ leBytes 4 (check32c bs (off + (die - 1) * 2 ^ 40)))

/-- Copy n bytes of ciphertext: the plaintext and what its data units are encrypted under move together. -/
def State.copyCipher (s : State) (src dst n : Nat) : State :=
  let cells := (s.mem.filter (fun c => decide (src ≤ c.1 ∧ c.1 < src + n))).map (fun c => (c.1 - src + dst, c.2))
  let seals := (s.sealed.filter (fun c => decide (src / 512 ≤ c.1 ∧ c.1 < (src + n) / 512))).map (fun c => (c.1 - src / 512 + dst / 512, c.2))
  let s := s.zeroMem dst n
  { s with mem := Tab.setAll Memory.dflt s.mem cells,
           sealed := Tab.setAll (fun _ => none) (Tab.keep (fun u => !decide (dst / 512 ≤ u ∧ u < (dst + n) / 512)) s.sealed) seals }

/-- Resume the streams that this package's translation suspends at an address of the page, and the control-core accesses of the space held on
it (R322, R263). -/
def State.resumePage (s : State) (space va n : Nat) : State :=
  let on := fun (a : Nat) => decide (va ≤ a ∧ a < va + n)
  let held := fun (a : W64) => (s.tierVa a).any on
  (List.range 64).foldl (fun t c =>
    if t.coreSpace c = space then
      let t := (List.range 16).foldl (fun t slot =>
        if (t.strm c slot).stop.any (fun x => !x.abort && x.cause == 1 && x.code == 0 && on x.pos) then t.resumeStream c slot else t) t
      t.setCore c { t.core c with loads := (t.core c).loads.map (fun l => if held l.addr then { l with held := false } else l),
                                  stores := (t.core c).stores.map (fun x => if held x.addr then { x with held := false } else x) }
    else t) s

/-! ### Channel retrains (R325, R326) -/

/-- A retrain of a channel begins. -/
def State.retrainStart (s : State) (die ch : Nat) : State :=
  ((s.setFld (Reg.retrain die) 8 1 0).setFld (Reg.retrain die) 9 1 1).setFld (Reg.chStatus die ch) 0 2 1

/-- A write to MEM_RETRAIN. -/
def State.retrainWrite (s : State) (die v : Nat) : State :=
  let r := Reg.retrain die
  let ch := bitsOf v 0 5
  if 20 ≤ ch ∨ (v.testBit 8 ∧ s.fld (Reg.chStatus die ch) 0 2 = 2) then s.unmapped r
  else
    let s := s.setFld r 0 5 ch
    if !v.testBit 8 then s
    else if s.fld r 9 1 = 1 then s.setFld r 8 1 1
    else s.retrainStart die ch

def execMemRetrain (cellar : Fin 4) (path : Path) (v : BitVec 32) (s : State) : Out :=
  s.guarded path (Reg.retrain (cellar.val + 1)) (fun s => s.retrainWrite (cellar.val + 1) v.toNat)

/-- The slowest speed code of a channel's tier (R306, R308). -/
def slowest (ch : Nat) : Nat := if ch < 16 then 3 else 2

/-- A retrain ends: 0 at the channel's rate, 1 at the next lower rate, 2 down. A failure at the slowest rate is a channel down. -/
def execRetrainDone (cellar : Fin 4) (result : Fin 3) (heldUs : BitVec 16) (s : State) : Out :=
  let die := cellar.val + 1
  match (List.range 20).find? (fun ch => s.fld (Reg.chStatus die ch) 0 2 == 1) with
  | none => .next s
  | some ch =>
    let r := Reg.chStatus die ch
    let speed := s.fld r 2 4
    let down := result.val = 2 ∨ (result.val = 1 ∧ slowest ch ≤ speed)
    let s := (s.bump r 8 24).setFld r 32 32 (min (s.fld r 32 32 + heldUs.toNat) (2 ^ 32 - 1))
    let tried := if slowest ch ≤ speed then speed else speed + 1
    let s := if down then (s.setFld r 0 2 2).record die 0x302 2 (s.unitDie die) ch tried 0 0
      else (s.setFld r 0 2 0).setFld r 2 4 (if result.val = 1 then speed + 1 else speed)
    let s := s.setFld (Reg.retrain die) 9 1 0
    let next := s.fld (Reg.retrain die) 0 5
    if s.fld (Reg.retrain die) 8 1 = 1 then
      if s.fld (Reg.chStatus die next) 0 2 = 2 then .next (s.setFld (Reg.retrain die) 8 1 0) else .next (s.retrainStart die next)
    else .next s

/-! ### The attic (R304) -/

/-- A write to ATT_ZERO: ignored and recorded while a core of the cluster runs. -/
def State.attZeroWrite (s : State) (k v : Nat) : State :=
  if !v.testBit 0 then s
  else if (List.range 4).any (fun i => s.coreRuns (4 * k + i)) then s.unmapped (Reg.attZero k)
  else s.setFld (Reg.attZero k) 0 1 1

def execAttZero (k : Fin 16) (path : Path) (v : BitVec 32) (s : State) : Out :=
  s.guarded path (Reg.attZero k) (fun s => s.attZeroWrite k v.toNat)

/-- Zero the whole attic of a cluster. -/
def State.zeroAttic (s : State) (k : Nat) : State := s.zeroMem (atticKey k 0) 0x200000

def execAttZeroDone (k : Fin 16) (s : State) : Out :=
  if s.fld (Reg.attZero k) 0 1 = 1 then .next ((s.zeroAttic k).setFld (Reg.attZero k) 0 1 0) else .next s

end Sys2Proof.Machine
end

