-- ==== Sys2Proof/Machine/Control.lean ====
section
/-! DEFINITION. The control core (R79 to R87): its formats, ALU, loads and stores, branches, queue, tally and peg
instructions, and the return of loads and retirement of stores. -/
namespace Sys2Proof.Machine

/-! ### Encodings (R79) -/

def encA (opc : Nat) (i : FmtA) : Nat :=
  opc * 2 ^ 26 + i.gd.toNat * 2 ^ 21 + i.ga.toNat * 2 ^ 16 + i.gb.toNat * 2 ^ 11 + i.func.toNat
def encI (opc : Nat) (i : FmtI) : Nat := opc * 2 ^ 26 + i.gd.toNat * 2 ^ 21 + i.ga.toNat * 2 ^ 16 + i.imm.toNat
def encB (opc : Nat) (i : FmtB) : Nat := opc * 2 ^ 26 + i.ga.toNat * 2 ^ 21 + i.gb.toNat * 2 ^ 16 + i.off.toNat
def encJ (opc : Nat) (i : FmtJ) : Nat := opc * 2 ^ 26 + i.gd.toNat * 2 ^ 21 + i.off.toNat
def encQ (opc : Nat) (i : FmtQ) : Nat :=
  opc * 2 ^ 26 + i.ga.toNat * 2 ^ 21 + i.gb.toNat * 2 ^ 16 + i.eng.toNat * 2 ^ 13 + i.rsvd.toNat
def encT (opc : Nat) (i : FmtT) : Nat := opc * 2 ^ 26 + i.g.toNat * 2 ^ 21 + i.tally.toNat * 2 ^ 15 + i.imm.toNat
def encP (opc : Nat) (i : FmtP) : Nat := opc * 2 ^ 26 + i.take.toNat * 2 ^ 25 + i.rsvd.toNat * 2 ^ 12 + i.peg.toNat

/-! ### Pending registers and held accesses (R85 to R87, R315) -/

/-- Is register n pending now? -/
def State.gBusy (s : State) (c n : Nat) : Bool :=
  match s.gpend c n with
  | .no => false
  | .fixed r => decide ((s.core c).cycles < r)
  | .variable => true

/-- Cycles remaining of a pending register (R87, R531). -/
def State.gLeft (s : State) (c n : Nat) : Nat :=
  match s.gpend c n with
  | .fixed r => r - (s.core c).cycles
  | _ => 0xFFFF

/-- What a register the instruction reads or names does to it. -/
inductive RegUse where
  | ok
  | stall
  | fault (code x d2 d3 : Nat)
deriving DecidableEq, Repr

/-- The STR_ABORT of a control-core access (R315, R531). -/
def abortFault (cause : Nat) (addr : W64) : RegUse :=
  .fault 0x183 (0xF + 16 * cause) (addr.toNat % 2 ^ 32) (addr.toNat / 2 ^ 32)

/-- The load on its way into register n, if any. -/
def State.loadInto (s : State) (c n : Nat) : Option CtlLoad := (s.core c).loads.find? (fun l => l.gd == n)

/-- One register: a held load stalls, an aborted one faults, any other pending result is a hazard. -/
def State.regUse (s : State) (c n : Nat) : RegUse :=
  if n = 0 || !s.gBusy c n then .ok
  else
    match s.loadInto c n with
    | some l =>
      match l.aborted with
      | some cause => abortFault cause l.addr
      | none => if l.held then .stall else .fault 0x121 n (s.gLeft c n) 0
    | none => .fault 0x121 n (s.gLeft c n) 0

/-- The first register of the list that is not ready: of several, the fault names the first in the order GA, GB, GD (DESIGN CHOICE, log
entry 96). -/
def State.regsUse (s : State) (c : Nat) : List Nat → RegUse
  | [] => .ok
  | n :: ns =>
    match s.regUse c n with
    | .ok => s.regsUse c ns
    | r => r

/-- The abort of a load has been told, by the instruction that named one of these registers: the load is gone, and its register is not pending and
keeps its value (R315; DESIGN CHOICE, log entry 17). -/
def State.toldAbort (s : State) (c : Nat) (regs : List Nat) : State :=
  match regs.findSome? (fun n => (s.loadInto c n).filter (fun l => n != 0 && l.aborted.isSome)) with
  | some l => s.setCore c { s.core c with
      loads := (s.core c).loads.erase l, gpend := Tab.set (fun _ => Pend.no) (s.core c).gpend l.gd Pend.no }
  | none => s

/-- Does an outstanding store of the control core carry one of n bytes from an address: a load of them waits until its destination has
taken it (R84; a stall under R89)? -/
def State.storeCovers (s : State) (c : Nat) (a : W64) (n : Nat) : Bool :=
  (s.core c).stores.any (fun x => !x.done && decide (x.addr.toNat < a.toNat + n ∧ a.toNat < x.addr.toNat + x.size))

/-- The gate of R85 at a load, store, TADD, TWAIT, TTAKE, PWAIT, WAITG or HALT. -/
def State.storeGate (s : State) (c : Nat) : RegUse :=
  match (s.core c).aborted with
  | (cause, addr) :: _ => abortFault cause addr
  | [] => if (s.core c).stores.any (·.held) then .stall else .ok

/-! ### Issue -/

/-- Issue of a control-core instruction: its word, whether its own bits hold no reserved value, whether R85 gates it, a
stall of its own, the registers it reads and names, its part, and what it applies once it has issued. The STR_ABORT of an aborted store
is taken before CTL_HAZARD (DESIGN CHOICE, log entry 96). -/
def State.ctl (s : State) (c word : Nat) (own gate : Bool) (stall : Option EngSt) (regs : List Nat)
    (body : State → IssueRes) (post : State → State) : Out :=
  match s.front c 5 word with
  | .idle => .next s
  | .stall => .next (s.stalled c 5 .stallBusy)
  | .fault code => .next (s.precise c 5 code 0 0 0)
  | .ok =>
    if !own then .next (s.precise c 5 0x101 0 0 0)
    else
      match (if gate then s.storeGate c else .ok) with
      | .stall => .next (s.stalled c 5 .stallBusy)
      | .fault code x d2 d3 => .next ((s.setCore c { s.core c with aborted := (s.core c).aborted.drop 1 }).precise c 5 code x d2 d3)
      | .ok =>
        match stall with
        | some k => .next (s.stalled c 5 k)
        | none =>
          match s.regsUse c regs with
          | .stall => .next (s.stalled c 5 .stallBusy)
          | .fault code x d2 d3 => .next ((if code = 0x183 then s.toldAbort c regs else s).precise c 5 code x d2 d3)
          | .ok =>
            match body s with
            | .stall k => .next (s.stalled c 5 k)
            | .fault code x d2 d3 => .next (s.precise c 5 code x d2 d3)
            | .go t target left => .next (post (t.finish c 5 (s.eng c 5).pc 0 0 target left))

/-- Write a result readable lat cycles from now (R86). -/
def State.result (s : State) (c gd : Nat) (v : W64) (lat : Nat) : State :=
  s.setG c gd v (.fixed ((s.core c).cycles + lat))

/-- An instruction that only computes a register from registers. -/
def State.compute (s : State) (c word : Nat) (own : Bool) (reads : List Nat) (gd lat : Nat) (f : State → W64) : Out :=
  s.ctl c word own false none (reads ++ [gd]) (fun t => .go (t.result c gd (f t) lat) none none) id

def sx16 (i : BitVec 16) : W64 := i.signExtend 64
def zx16 (i : BitVec 16) : W64 := i.zeroExtend 64

/-! ### ALU and immediates (R80) -/

/-- The ALU function, none where FUNC is reserved. -/
def aluOp (func : Nat) (a b : W64) : Option W64 :=
  let sh := b.toNat % 64
  match func with
  | 0x000 => some (a + b)
  | 0x001 => some (a - b)
  | 0x002 => some (a &&& b)
  | 0x003 => some (a ||| b)
  | 0x004 => some (a ^^^ b)
  | 0x005 => some (a <<< sh)
  | 0x006 => some (a >>> sh)
  | 0x007 => some (a.sshiftRight sh)
  | 0x008 => some (if a.slt b then 1 else 0)
  | 0x009 => some (if a.ult b then 1 else 0)
  | 0x00A => some (if a.slt b then a else b)
  | 0x00B => some (if a.slt b then b else a)
  | 0x00C => some (if a.ult b then a else b)
  | 0x00D => some (if a.ult b then b else a)
  | 0x010 => some (a * b)
  | 0x011 => some (BitVec.ofNat 64 (a.toNat * b.toNat / 2 ^ 64))
  | _ => none

def aluLat (func : Nat) : Nat := if func = 0x010 ∨ func = 0x011 then 3 else 1

def execAlu (c : Fin 64) (i : FmtA) (s : State) : Out :=
  s.compute c (encA 1 i) (aluOp i.func.toNat 0 0).isSome [i.ga.toNat, i.gb.toNat] i.gd.toNat (aluLat i.func.toNat)
    (fun t => (aluOp i.func.toNat (t.g c i.ga.toNat) (t.g c i.gb.toNat)).getD 0)

/-- An immediate instruction of latency 1. -/
def State.immOp (s : State) (c opc : Nat) (i : FmtI) (own : Bool) (f : W64 → W64) : Out :=
  s.compute c (encI opc i) own [i.ga.toNat] i.gd.toNat 1 (fun t => f (t.g c i.ga.toNat))

def execAddi (c : Fin 64) (i : FmtI) (s : State) : Out := s.immOp c 0x02 i true (fun a => a + sx16 i.imm)
def execAndi (c : Fin 64) (i : FmtI) (s : State) : Out := s.immOp c 0x03 i true (fun a => a &&& zx16 i.imm)
def execOri (c : Fin 64) (i : FmtI) (s : State) : Out := s.immOp c 0x04 i true (fun a => a ||| zx16 i.imm)
def execXori (c : Fin 64) (i : FmtI) (s : State) : Out := s.immOp c 0x05 i true (fun a => a ^^^ zx16 i.imm)
def execSlti (c : Fin 64) (i : FmtI) (s : State) : Out :=
  s.immOp c 0x06 i true (fun a => if a.slt (sx16 i.imm) then 1 else 0)
def execSltiu (c : Fin 64) (i : FmtI) (s : State) : Out :=
  s.immOp c 0x07 i true (fun a => if a.ult (sx16 i.imm) then 1 else 0)

/-- SHI: imm[7:6] selects SLL, SRL or SRA. -/
def shiftImm (imm : BitVec 16) (a : W64) : W64 :=
  let n := bitsOf imm.toNat 0 6
  match bitsOf imm.toNat 6 2 with
  | 0 => a <<< n
  | 1 => a >>> n
  | _ => a.sshiftRight n

def execShi (c : Fin 64) (i : FmtI) (s : State) : Out :=
  s.immOp c 0x08 i (decide (i.imm.toNat < 256 ∧ bitsOf i.imm.toNat 6 2 ≠ 3)) (shiftImm i.imm)

def execLui (c : Fin 64) (i : FmtI) (s : State) : Out :=
  s.compute c (encI 0x09 i) (i.ga == 0) [] i.gd.toNat 1 (fun _ => (i.imm ++ 0#16).signExtend 64)

/-- Replace 16 bits of a word from bit lo. -/
def putHalf (a : W64) (lo : Nat) (imm : BitVec 16) : W64 := BitVec.ofNat 64 (withBits a.toNat lo 16 imm.toNat)

def execLih (c : Fin 64) (i : FmtI) (s : State) : Out := s.immOp c 0x0A i true (fun a => putHalf a 32 i.imm)
def execLit (c : Fin 64) (i : FmtI) (s : State) : Out := s.immOp c 0x0B i true (fun a => putHalf a 48 i.imm)

/-! ### Loads (R83, R84, R86) -/

/-- The register value of n loaded bytes. -/
def extend (n : Nat) (signed : Bool) (v : Nat) : W64 :=
  if signed then BitVec.ofInt 64 (signedOf v (8 * n)) else BitVec.ofNat 64 v

/-- The TAG of a control core's next remote access (R394). -/
def State.ctlTag (s : State) (c : Nat) : Nat := c + 15 * 64 + 0x3F * 1024 + ((s.core c).remoteSeq % 65536) * 65536

def addrLo (a : W64) : Nat := a.toNat % 2 ^ 32
def addrHi (a : W64) : Nat := a.toNat / 2 ^ 32

/-- A core makes at most 65536 accesses to other packages in a key period (R571). -/
def State.remoteSpent (s : State) (c : Nat) (a : W64) : Bool := addrPkg a != s.pkg && decide (65536 ≤ (s.core c).remotePeriod)

/-- A load from outside the own store room begins. -/
def State.loadBegin (s : State) (c gd : Nat) (a : W64) (n : Nat) (signed : Bool) : State :=
  let k := s.core c
  let remote := addrPkg a != s.pkg
  let l : CtlLoad := { pc := (s.eng c 5).pc, gd := gd, seq := k.pegSeq, addr := a, size := n, signed := signed,
                       held := !remote && s.windowInReset (s.window a),
                       tag := if remote then some (s.ctlTag c) else none }
  let k' := { k with loads := k.loads ++ [l], pegSeq := k.pegSeq + 1,
                     remoteSeq := if remote then k.remoteSeq + 1 else k.remoteSeq,
                     remotePeriod := if remote then k.remotePeriod + 1 else k.remotePeriod }
  let s := (s.setCore c k').setG c gd 0 .variable
  if remote then
    s.sendReq { tag := (l.tag).getD 0, kind := 3, dst := addrPkg a, addr := a, len := n, first := s.ns, last := s.ns }
  else s

/-- A load of n bytes. -/
def State.load (s : State) (c opc : Nat) (i : FmtI) (n : Nat) (signed : Bool) : Out :=
  s.ctl c (encI opc i) true true none [i.ga.toNat, i.gd.toNat] (fun t =>
    let a := t.g c i.ga.toNat + sx16 i.imm
    match t.ctlAddrFault c a n false with
    | some f => .fault f 0 (addrLo a) (addrHi a)
    | none =>
      let own := match t.window a with
        | .store c' _ => addrPkg a == t.pkg && c' == c
        | _ => false
      if t.remoteSpent c a || t.storeCovers c a n then .stall .stallBusy
      else if own then .go (t.result c i.gd.toNat (extend n signed (t.rdLE (addrOff a) n)) 4) none none
      else .go (t.loadBegin c i.gd.toNat a n signed) none none) id

def execLb (c : Fin 64) (i : FmtI) (s : State) : Out := s.load c 0x10 i 1 true
def execLbu (c : Fin 64) (i : FmtI) (s : State) : Out := s.load c 0x11 i 1 false
def execLh (c : Fin 64) (i : FmtI) (s : State) : Out := s.load c 0x12 i 2 true
def execLhu (c : Fin 64) (i : FmtI) (s : State) : Out := s.load c 0x13 i 2 false
def execLw (c : Fin 64) (i : FmtI) (s : State) : Out := s.load c 0x14 i 4 true
def execLwu (c : Fin 64) (i : FmtI) (s : State) : Out := s.load c 0x15 i 4 false
def execLd (c : Fin 64) (i : FmtI) (s : State) : Out := s.load c 0x16 i 8 false

/-- The bytes of a local load outside the tiers and peg memory, where it may be read now. -/
def State.localBytes (s : State) (l : CtlLoad) : Option Nat :=
  if addrPkg l.addr ≠ s.pkg then none
  else
    match s.window l.addr with
    | .store _ _ => some (s.rdLE (addrOff l.addr) l.size)
    | .acc _ _ _ => some (s.rdLE (addrOff l.addr) l.size)
    | .attic _ _ => some (s.rdLE (addrOff l.addr) l.size)
    | _ => none

/-- The data of the n-th oldest load reaches its register (R86): what a store room, accumulator memory or attic holds now,
or what a peg unit, a tier or another package has answered. -/
def execLoadDataReturn (c : Fin 64) (n : Nat) (s : State) : Out :=
  match (s.core c).loads[n]? with
  | none => .next s
  | some l =>
    if l.held || l.aborted.isSome || s.still c then .next s
    else
      let v : Option W64 := match l.data with
        | some d => some d
        | none => (s.localBytes l).map (fun b => BitVec.ofNat 64 b)
      match v with
      | none => .next s
      | some d =>
        let k := s.core c
        let s := s.setCore c { k with loads := k.loads.eraseIdx n, stirNext := true }
        .next (s.setG c l.gd (extend l.size l.signed d.toNat) .no)

/-- A result whose latency has passed is readable: its pending mark clears (R86). -/
def execCtlResultReady (c : Fin 64) (g : BitVec 5) (s : State) : Out :=
  match s.gpend c g.toNat with
  | .fixed r =>
    if r ≤ (s.core c).cycles then
      let k := s.core c
      .next (s.setCore c { k with gpend := Tab.set (fun _ => Pend.no) k.gpend g.toNat Pend.no })
    else .next s
  | _ => .next s

/-! ### Stores (R83 to R85, R283) -/

/-- A stored value that keeps the table of R283. -/
def armOk (v : W64) : Bool :=
  let m := bitsOf v.toNat 60 3
  let t := bitsOf v.toNat 32 16
  bitsOf v.toNat 48 12 == 0 && (if m == 0 then t == 0 else m == 1 && t != 0 && !v.getLsbD 63)

/-- A store of n bytes once its address has passed. -/
def State.storeTo (s : State) (c : Nat) (a : W64) (n : Nat) (v : W64) : State :=
  let k := s.core c
  let remote := addrPkg a != s.pkg
  let w := s.window a
  let bytes := leBytes n v.toNat
  let x : CtlStore := { pc := (s.eng c 5).pc, addr := a, size := n, data := v }
  if remote then
    let tag := s.ctlTag c
    let s := s.setCore c { k with stores := k.stores ++ [{ x with tag := some tag }], remoteSeq := k.remoteSeq + 1, remotePeriod := k.remotePeriod + 1 }
    s.sendReq { tag := tag, kind := 1, dst := addrPkg a, addr := a, len := n, bytes := bytes, first := s.ns, last := s.ns }
  else
    match w with
    | .store c' _ =>
      if c' = c then s.wr (addrOff a) bytes
      else if s.coreInReset c' then s.setCore c { k with stores := k.stores ++ [{ x with held := true }] }
      else (s.setCore c { k with stores := k.stores ++ [{ x with done := true }] }).wr (addrOff a) bytes
    | .acc c' _ _ =>
      if s.coreInReset c' then s.setCore c { k with stores := k.stores ++ [{ x with held := true }] }
      else (s.setCore c { k with stores := k.stores ++ [{ x with done := true }] }).wr (addrOff a) bytes
    | .attic _ _ => (s.setCore c { k with stores := k.stores ++ [{ x with done := true }] }).wr (addrOff a) bytes
    | .peg p _ => s.setCore c { k with arms := k.arms ++ [⟨p, v, x.pc, k.pegSeq⟩], pegSeq := k.pegSeq + 1 }
    | _ => s.setCore c { k with stores := k.stores ++ [x] }

/-- A store of n bytes (GD is GS). -/
def State.store (s : State) (c opc : Nat) (i : FmtI) (n : Nat) : Out :=
  s.ctl c (encI opc i) true true none [i.ga.toNat, i.gd.toNat] (fun t =>
    let a := t.g c i.ga.toNat + sx16 i.imm
    let v := t.g c i.gd.toNat
    match t.ctlAddrFault c a n true with
    | some f => .fault f 0 (addrLo a) (addrHi a)
    | none =>
      match t.window a with
      | .peg _ _ => if armOk v then .go (t.storeTo c a n v) none none else .fault 0x217 0 (addrLo a) (addrHi a)
      | _ => if t.remoteSpent c a then .stall .stallBusy else .go (t.storeTo c a n v) none none) id

def execSb (c : Fin 64) (i : FmtI) (s : State) : Out := s.store c 0x18 i 1
def execSh (c : Fin 64) (i : FmtI) (s : State) : Out := s.store c 0x19 i 2
def execSw (c : Fin 64) (i : FmtI) (s : State) : Out := s.store c 0x1A i 4
def execSd (c : Fin 64) (i : FmtI) (s : State) : Out := s.store c 0x1B i 8

/-- The n-th oldest outstanding store retires once its destination has taken it (R85). -/
def execStoreRetire (c : Fin 64) (n : Nat) (s : State) : Out :=
  match (s.core c).stores[n]? with
  | none => .next s
  | some x =>
    if x.done && !x.held then
      let k := s.core c
      .next (s.setCore c { k with stores := k.stores.eraseIdx n })
    else .next s

/-! ### Branches and jumps (R52, R69, R80, R82) -/

/-- A branch: R69 is checked on its place and target whether it is taken or not. -/
def State.branch (s : State) (c opc : Nat) (i : FmtB) (cond : W64 → W64 → Bool) : Out :=
  s.ctl c (encB opc i) true false none [i.ga.toNat, i.gb.toNat] (fun t =>
    let target : Int := (t.eng c 5).pc + 4 * i.off.toInt
    if !(t.eng c 5).jumpOk target then .fault 0x104 0 0 0
    else if cond (t.g c i.ga.toNat) (t.g c i.gb.toNat) then .go t (some (target % 2 ^ 20).toNat) none
    else .go t none none) id

def execBeq (c : Fin 64) (i : FmtB) (s : State) : Out := s.branch c 0x20 i (fun a b => a == b)
def execBne (c : Fin 64) (i : FmtB) (s : State) : Out := s.branch c 0x21 i (fun a b => a != b)
def execBlt (c : Fin 64) (i : FmtB) (s : State) : Out := s.branch c 0x22 i (fun a b => a.slt b)
def execBge (c : Fin 64) (i : FmtB) (s : State) : Out := s.branch c 0x23 i (fun a b => b.sle a)
def execBltu (c : Fin 64) (i : FmtB) (s : State) : Out := s.branch c 0x24 i (fun a b => a.ult b)
def execBgeu (c : Fin 64) (i : FmtB) (s : State) : Out := s.branch c 0x25 i (fun a b => b.ule a)

/-- Jump to target with the link in gd. -/
def State.jumpLink (t : State) (c gd : Nat) (target : Int) : IssueRes :=
  match t.jumpFault c 5 target with
  | some f => .fault f 0 0 0
  | none => .go (t.result c gd (BitVec.ofNat 64 ((t.eng c 5).pc + 4)) 1) (some target.toNat) none

def execJal (c : Fin 64) (i : FmtJ) (s : State) : Out :=
  s.ctl c (encJ 0x26 i) true false none [i.gd.toNat] (fun t =>
    t.jumpLink c i.gd.toNat ((t.eng c 5).pc + 4 * i.off.toInt)) id

def execJalr (c : Fin 64) (i : FmtI) (s : State) : Out :=
  s.ctl c (encI 0x27 i) true false none [i.ga.toNat, i.gd.toNat] (fun t =>
    t.jumpLink c i.gd.toNat (((t.g c i.ga.toNat + sx16 i.imm).toNat / 4 * 4 : Nat))) id

/-- LOOP (R82): the count is ga[31:0], the body length imm, unsigned; a count of 0 as in loopBody. -/
def ctlLoopBody (c ga body : Nat) (t : State) : IssueRes :=
  let k := t.eng c 5
  let n := (t.g c ga).toNat % 2 ^ 32
  let last := k.pc + 4 * body
  if 4 ≤ k.loops.length then .fault 0x103 0 0 0
  else if k.loops.any (fun l => decide (l.last < last)) then .fault 0x104 0 0 0
  else if n = 0 then .go (t.setEng c 5 { k with pc := last }) none none
  else .go (t.setEng c 5 { k with loops := ⟨k.pc + 4, last, n, false⟩ :: k.loops }) none none

def execCtlLoop (c : Fin 64) (i : FmtI) (s : State) : Out :=
  s.ctl c (encI 0x28 i) (i.gd == 0 && i.imm != 0) false none [i.ga.toNat] (ctlLoopBody c i.ga.toNat i.imm.toNat) id

/-! ### Queues and tallies -/

def execPusha (c : Fin 64) (i : FmtQ) (s : State) : Out :=
  let e := i.eng.toNat
  s.ctl c (encQ 0x30 i) (decide (e ≤ 4) && i.rsvd == 0) false
    (if 64 ≤ (s.eng c e).aq.length + (s.eng c e).aqNew.length then some .stallQueue else none) [i.ga.toNat, i.gb.toNat] (fun t =>
      let v := BitVec.ofNat 64 ((t.g c i.gb.toNat).toNat % 2 ^ 32 * 2 ^ 32 + (t.g c i.ga.toNat).toNat % 2 ^ 32)
      .go (t.setEng c e { t.eng c e with aqNew := (t.eng c e).aqNew ++ [((t.core c).cycles + 2, v)] }) none none) id

def execPushp (c : Fin 64) (i : FmtQ) (s : State) : Out :=
  let e := i.eng.toNat
  s.ctl c (encQ 0x31 i) (decide (e ≤ 4) && i.rsvd == 0 && i.gb == 0) false
    (if 16 ≤ (s.eng c e).pq.length + (s.eng c e).pqNew.length then some .stallQueue else none) [i.ga.toNat] (fun t =>
      .go (t.setEng c e { t.eng c e with pqNew := (t.eng c e).pqNew ++ [((t.core c).cycles + 2, (t.g c i.ga.toNat).setWidth 32)] }) none none) id

/-- TADD waits until every earlier arm of this control core has been applied (R286). -/
def execTadd (c : Fin 64) (i : FmtT) (s : State) : Out :=
  s.ctl c (encT 0x34 i) (i.g == 0) true (if (s.core c).arms.isEmpty then none else some .stallBusy) []
    (fun t => .go t none none) (fun t => t.postOp c ⟨1, 5, (s.eng c 5).pc, i.tally.toNat, i.imm.toInt⟩)

def execTwait (c : Fin 64) (i : FmtT) (s : State) : Out :=
  s.ctl c (encT 0x35 i) (i.imm == 0) true none [i.g.toNat] (fun t =>
    if (t.g c i.g.toNat).toNat % 65536 ≤ t.tally c i.tally.toNat then .go t none none else .stall .stallWait) id

def execTtake (c : Fin 64) (i : FmtT) (s : State) : Out :=
  s.ctl c (encT 0x36 i) (i.g == 0 && i.imm == 0) true none [] (fun t =>
    if 1 ≤ t.spare c i.tally.toNat then .go (t.takeTally c 5 i.tally.toNat) none none
    else .stall .stallWait) id

def execTrd (c : Fin 64) (i : FmtT) (s : State) : Out :=
  s.compute c (encT 0x37 i) (i.imm == 0) [] i.g.toNat 2 (fun t => BitVec.ofNat 64 (t.tally c i.tally.toNat))

/-- PWAIT: a report of full and live, or the grant of the take (R275, R276). -/
def execPwait (c : Fin 64) (i : FmtP) (s : State) : Out :=
  let p := 4096 * (c.val / 4) + i.peg.toNat
  s.ctl c (encP 0x38 i) (i.rsvd == 0) true none [] (fun t =>
    if (if i.take == 1 then (t.eng c 5).grant == some p
        else (t.eng c 5).reports.any (fun r => r.peg == p && r.full && r.st == 0))
    then .go (t.endWait c 5) none none else .stall .stallWait) id

/-- WAITG: a pending register stalls; with GA 0 it waits until no store is outstanding (R85, R87). -/
def execWaitg (c : Fin 64) (i : FmtA) (s : State) : Out :=
  let n := i.ga.toNat
  s.ctl c (encA 0x39 i) (i.gd == 0 && i.gb == 0 && i.func == 0) true
    (if n = 0 then (if (s.core c).stores.isEmpty && (s.core c).arms.isEmpty then none else some .stallBusy)
     else if s.gBusy c n && ((s.loadInto c n).bind (·.aborted)).isNone then some .stallBusy else none)
    [n] (fun t => .go t none none) id

/-- The RDS selectors (R81). -/
def State.rdsValue (s : State) (c sel : Nat) : W64 :=
  match sel with
  | 0 => BitVec.ofNat 64 c
  | 1 => BitVec.ofNat 64 s.pkg
  | 2 => (s.unitEng c 5).zeroExtend 64
  | 3 => BitVec.ofNat 64 (s.core c).cycles
  | 4 => s.time
  | _ => BitVec.ofNat 64 (s.fld Reg.pkgId 0 32)

def execRds (c : Fin 64) (i : FmtI) (s : State) : Out :=
  s.compute c (encI 0x3C i) (i.ga == 0 && decide (i.imm.toNat ≤ 5)) [] i.gd.toNat 2 (fun t => t.rdsValue c i.imm.toNat)

/-- HALT halts CTL once its earlier loads and stores have completed (R80): until then it stalls. It does not wait for a load that the
supervisor has aborted, whose register no instruction has read (DESIGN CHOICE, log entry 96). -/
def execCtlHalt (c : Fin 64) (rest : BitVec 26) (s : State) : Out :=
  s.ctl c (0x3E * 2 ^ 26 + rest.toNat) (rest == 0) true
    (if (s.core c).loads.all (fun l => l.aborted.isSome) && (s.core c).stores.isEmpty && (s.core c).arms.isEmpty then none
     else some .stallBusy)
    [] (fun t => .go t none none) (fun t => t.setCore c { t.core c with halts := (t.core c).halts ++ [5] })

end Sys2Proof.Machine
end

