-- ==== Sys2Proof/Machine/Pegs.lean ====
section
/-! DEFINITION. Peg units (R267 to R289): the peg word and its check, takes, reports, arms, reads, initialisation and
abandonment; and the lantern (R290 to R292). -/
namespace Sys2Proof.Machine

/-! ### The peg word (R267) -/

def pegFull (w : W64) : Bool := w.getLsbD 63
def pegMode (w : W64) : Nat := bitsOf w.toNat 60 3
def pegOwned (w : W64) : Bool := w.getLsbD 59
def pegOwner (w : W64) : Nat := bitsOf w.toNat 52 2
def pegState (w : W64) : Nat := bitsOf w.toNat 50 2
def pegTarget (w : W64) : Nat := bitsOf w.toNat 32 16
def pegArrivals (w : W64) : Nat := bitsOf w.toNat 0 32

def pegWith (w : W64) (lo len v : Nat) : W64 := BitVec.ofNat 64 (withBits w.toNat lo len v)
def pegSetFull (w : W64) (b : Bool) : W64 := pegWith w 63 1 (boolNat b)
def pegSetState (w : W64) (n : Nat) : W64 := pegWith w 50 2 n

/-- The serial test of R274. -/
def serialFull (a t : Nat) : Bool := decide ((a + 2 ^ 32 - t) % 2 ^ 32 < 2 ^ 31)

/-- A counting peg with the count a, its FULL recomputed. -/
def pegCount (w : W64) (a : Nat) : W64 := pegSetFull (pegWith w 0 32 a) (serialFull (a % 2 ^ 32) (pegTarget w))

/-- A word of the layout of R267 with no reserved encoding. -/
def pegWordOk (w : W64) : Bool :=
  decide (pegMode w ≤ 1) && bitsOf w.toNat 54 5 == 0 && decide (pegState w ≤ 2) && !w.getLsbD 49 &&
  (if pegMode w == 0 then pegTarget w == 0 else pegTarget w != 0)

/-! ### Storage and check (R268) -/

def State.pegWord (s : State) (p : Nat) : W64 := Tab.get (fun _ => 0) s.pegs.word p
def State.pegChk (s : State) (p : Nat) : W16 := Tab.get (fun n => pegCheck n 0) s.pegs.chk p
/-- Does the check value stored beside the word hold? -/
def State.pegGood (s : State) (p : Nat) : Bool := s.pegChk p == pegCheck p (s.pegWord p)

/-- Write a peg word with its check value. -/
def State.putPeg (s : State) (p : Nat) (w : W64) : State :=
  { s with pegs := { s.pegs with word := Tab.set (fun _ => 0) s.pegs.word p w,
                                 chk := Tab.set (fun n => pegCheck n 0) s.pegs.chk p (pegCheck p w) } }

/-- May an operation be applied to the peg in this network cycle: it has had none (R270)? -/
def State.pegFree (s : State) (p : Nat) : Bool := !(s.pegs.busyAt == s.netCycle + 1 && s.pegs.busy.contains p)

/-- The peg has had its operation of this network cycle. -/
def State.pegUsed (s : State) (p : Nat) : State :=
  let old := if s.pegs.busyAt = s.netCycle + 1 then s.pegs.busy else []
  { s with pegs := { s.pegs with busyAt := s.netCycle + 1, busy := p :: old } }

/-- Cores with a watch or a take request on the peg have a cycle that is not quiet (R290). -/
def State.stirWaiters (s : State) (p : Nat) : State :=
  (s.pegs.watches ++ s.pegs.takes).foldl (fun t w => if w.peg == p then t.stirNext w.core else t) s

/-! ### Reports and takes (R275, R276, R279) -/

/-- Report the peg's FULL and STATE to everyone who watches it. -/
def State.report (s : State) (p : Nat) : State :=
  let w := s.pegWord p
  let r : Report := ⟨p, pegFull w, pegState w⟩
  { s with pegs := { s.pegs with reports := s.pegs.reports ++ (s.pegs.watches.filter (·.peg == p)).map (fun x => (x, r)) } }

/-- The word after a take (R276). -/
def pegTaken (w : W64) : W64 :=
  if pegMode w = 0 then pegSetFull w false else pegCount w (pegArrivals w + 2 ^ 32 - pegTarget w)

/-- On a peg that is not live every queued take request is answered with its state (R279, R288). -/
def State.answerTakes (s : State) (p : Nat) : State :=
  let w := s.pegWord p
  if pegState w = 0 then s
  else
    let mine := s.pegs.takes.filter (·.peg == p)
    { s with pegs := { s.pegs with takes := s.pegs.takes.filter (fun x => x.peg != p),
                                   reports := s.pegs.reports ++ mine.map (fun t => (t, ⟨p, pegFull w, pegState w⟩)) } }

/-- The peg's word has changed: watchers are told when FULL or STATE has (R275), and a peg no longer live answers its take requests. -/
def State.pegChanged (s : State) (p : Nat) (old : W64) : State :=
  let w := s.pegWord p
  let s := if pegFull w != pegFull old || pegState w != pegState old then s.report p else s
  (s.stirWaiters p).answerTakes p

/-- Write a peg word and tell its waiters. -/
def State.setPeg (s : State) (p : Nat) (w : W64) (cls : Nat) : State :=
  (((s.pegUsed p).putPeg p w).tracePeg p cls w).pegChanged p (s.pegWord p)

/-- Grant the oldest take request of a peg that is full and live and has had no operation in this network cycle (R270, R276). -/
def State.serve (s : State) (p : Nat) : State :=
  let w := s.pegWord p
  match s.pegs.takes.find? (·.peg == p) with
  | none => s
  | some t =>
    if pegState w = 0 && pegFull w && s.pegFree p then
      let s := { s with pegs := { s.pegs with takes := s.pegs.takes.erase t, grants := s.pegs.grants ++ [t] } }
      s.setPeg p (pegTaken w) 5
    else s

/-- At the end of a network cycle each peg unit serves the requests queued for its pegs. -/
def State.serveAll (s : State) : State := (s.pegs.takes.map (·.peg)).eraseDups.foldl (fun t p => t.serve p) s

/-- The check an operation makes on the word it reads (R268): a word whose check fails becomes corrupt and is recorded. -/
def State.pegScreen (s : State) (p : Nat) : State :=
  if s.pegGood p then s.stirWaiters p
  else
    let w := s.pegWord p
    let s := (s.bump (Reg.pegChecks (p / 4096)) 0 32).bump 0x60108 0 32
    let s := s.record 0 0x216 2 (s.unitCluster (p / 4096)) p 0 (w.toNat % 2 ^ 32) (w.toNat / 2 ^ 32)
    ((s.pegUsed p).putPeg p (pegSetState w 2)).pegChanged p w

/-! ### What an engine's next instruction waits for -/

/-- Peg waits of the next instruction of engine e: (peg, take), WAIT0 first. -/
def State.pegWaits (s : State) (c e : Nat) : List (Nat × Bool) :=
  let k := s.eng c e
  match iqAt k.iq k.pc with
  | none => []
  | some w =>
    if e = 5 then
      if bitsOf w 26 6 = 0x38 ∧ bitsOf w 12 13 = 0 then [(4096 * (c / 4) + bitsOf w 0 12, bitsOf w 25 1 == 1)] else []
    else
      let f := fun (x : Nat) => if bitsOf x 22 2 = 3 then [(4096 * (c / 4) + bitsOf x 0 12, bitsOf x 21 1 == 1)] else []
      if insnOk e w then f (bitsOf w 48 24) ++ f (bitsOf w 72 24) else []

/-- Can the engine still issue the instruction at its program counter, now or once a debug hold ends (R277)? -/
def Eng.waits (k : Eng) : Bool := k.st.runs

/-- Has the engine reached the instruction at its program counter: nothing but the instruction's own conditions keeps it from issuing? -/
def State.reached (s : State) (c e : Nat) : Bool :=
  match iqAt (s.eng c e).iq (s.eng c e).pc with
  | some w => s.front c e w == .ok
  | none => false

/-- A wait that finds its peg not live (R62, R279): 1 abandoned, 2 corrupt. -/
def State.waitFault (s : State) (c e p st : Nat) : State :=
  s.precise c e (if st = 1 then 0x215 else 0x216) p st 0

/-! ### Waits -/

/-- The watch of an engine's peg wait without take reaches the peg unit (R275). -/
def execPegWatch (c : Fin 64) (e : Fin 6) (second : Bool) (s : State) : Out :=
  let ws := s.pegWaits c e
  match (if second then ws[1]? else ws[0]?) with
  | some (p, false) =>
    if !s.reached c e || s.pegs.watches.contains (Watch.mk p c e) then .next s
    else
      let s := if s.pegGood p then s else s.pegScreen p
      let w := s.pegWord p
      if pegState w ≠ 0 then .next (s.waitFault c e p (pegState w))
      else
        .next { s with pegs := { s.pegs with watches := s.pegs.watches ++ [Watch.mk p c e],
                                             reports := s.pegs.reports ++ [(Watch.mk p c e, Report.mk p (pegFull w) 0)] } }
  | _ => .next s

/-- The oldest report on its way to the engine arrives: it counts from the next core cycle (R275, R279). -/
def execPegReport (c : Fin 64) (e : Fin 6) (s : State) : Out :=
  match s.pegs.reports.find? (fun x => x.1.core == c.val && x.1.eng == e.val) with
  | none => .next s
  | some (w, r) =>
    let s := ({ s with pegs := { s.pegs with reports := s.pegs.reports.erase (w, r) } }).stirNext c
    .next (s.setEng c e { s.eng c e with repNew := (s.eng c e).repNew ++ [r] })

/-- A return reaches its peg unit (R277). -/
def execPegReturn (peg : BitVec 16) (s : State) : Out :=
  let p := peg.toNat
  if !s.pegs.returns.contains p || !s.pegFree p then .next s
  else
    let s := ({ s with pegs := { s.pegs with returns := s.pegs.returns.erase p } }).pegScreen p
    let w := s.pegWord p
    if pegState w ≠ 0 then .next s
    else if pegMode w = 0 then .next (s.setPeg p (pegSetFull w true) 4)
    else .next (s.setPeg p (pegCount w (pegArrivals w + pegTarget w)) 4)

/-! ### Arms and reads (R283, R284) -/

/-- The word an arm leaves. -/
def pegArmed (w v : W64) : W64 :=
  let kept := bitsOf w.toNat 59 1 * 2 ^ 59 + bitsOf w.toNat 50 4 * 2 ^ 50
  let base := BitVec.ofNat 64 (kept + bitsOf v.toNat 60 3 * 2 ^ 60 + bitsOf v.toNat 0 48)
  if bitsOf v.toNat 60 3 = 0 then pegSetFull base (v.getLsbD 63) else pegCount base (pegArrivals base)

def State.pegAddr (s : State) (p : Nat) : Nat := s.pkg * 2 ^ 51 + 0x8000000 + 8 * p

/-- The control core's oldest arm is applied, unless an earlier read of that peg is still on its way (R271). -/
def execPegArmApply (c : Fin 64) (s : State) : Out :=
  let k := s.core c
  match k.arms with
  | [] => .next s
  | a :: rest =>
    let p := a.peg
    if !s.pegFree p || k.loads.any (fun l => l.data.isNone && decide (l.seq < a.seq) && s.window l.addr == .peg p 0 && addrPkg l.addr == s.pkg) then .next s
    else
      let s := (s.setCore c { k with arms := rest }).pegScreen p
      let w := s.pegWord p
      let s := if !pegOwned w || pegState w ≠ 0 then
          s.late c 5 a.pc 0x217 0 (s.pegAddr p % 2 ^ 32) (s.pegAddr p / 2 ^ 32)
        else s.setPeg p (pegArmed w a.v) 6
      .next s

/-- Is this load still to be read at a peg unit? -/
def State.pegLoad (s : State) (l : CtlLoad) : Option Nat :=
  if l.data.isSome || l.aborted.isSome || addrPkg l.addr ≠ s.pkg then none
  else match s.window l.addr with
    | .peg p _ => some p
    | _ => none

/-- The control core's oldest unread load of a peg is applied at the peg unit (R284), after its earlier arms of that peg. -/
def execPegRead (c : Fin 64) (s : State) : Out :=
  match (s.core c).loads.find? (fun l => (s.pegLoad l).isSome) with
  | none => .next s
  | some l =>
    let p := (s.pegLoad l).getD 0
    if !s.pegFree p || (s.core c).arms.any (fun a => a.peg == p && decide (a.seq < l.seq)) then .next s
    else
      let s := (s.pegScreen p).pegUsed p
      let s := s.tracePeg p 7 (s.pegWord p)
      let k := s.core c
      .next (s.setCore c { k with loads := k.loads.map (fun x => if x.seq = l.seq then { x with data := some (s.pegWord p) } else x) })

/-! ### Initialisation and abandonment (R287 to R289, R294) -/

/-- A whole word put in place by initialisation or debug: every field as written. -/
def State.placePeg (s : State) (p : Nat) (w : W64) (cls : Nat) : State := s.setPeg p w cls

/-- Abandon a peg (R287): STATE becomes 1, and watches and queued takes are answered (R288). -/
def State.abandonPeg (s : State) (p : Nat) : State := s.setPeg p (pegSetState (s.pegWord p) 1) 2

/-- A run's work at one peg: the word is placed, or the peg abandoned if a region of the mask owns it. A word whose check fails is not
operated on (R268). -/
def State.runPeg (s : State) (r : PegRun) (p : Nat) : State :=
  match r.word with
  | some w => s.placePeg p w 2
  | none =>
    if !(pegOwned (s.pegWord p) && r.mask.testBit (pegOwner (s.pegWord p))) && s.pegGood p then s
    else
      let s := if s.pegGood p then s else s.pegScreen p
      if pegState (s.pegWord p) ≠ 2 && pegOwned (s.pegWord p) && r.mask.testBit (pegOwner (s.pegWord p)) then s.abandonPeg p else s

/-- n more pegs of a run. -/
def State.runPegs (s : State) (r : PegRun) (p : Nat) : Nat → State
  | 0 => s
  | n + 1 => (s.runPeg r p).runPegs r (p + 1) n

/-- A run has reached its last peg: GO or BUSY reads 0 again. -/
def State.runDone (s : State) (r : PegRun) : State :=
  s.setFld (if r.word.isSome then Reg.pegInitCtrl r.cl else Reg.pegAbandon r.cl) 31 1 0

/-- n network cycles of a run; at its end it is gone. -/
def State.advanceRun (s : State) (n : Nat) (r : PegRun) : State :=
  let m := min n r.left
  let s := s.runPegs r r.next m
  let rest := s.pegs.runs.erase r
  if m = r.left then ({ s with pegs := { s.pegs with runs := rest } }).runDone r
  else { s with pegs := { s.pegs with runs := rest ++ [{ r with next := r.next + m, left := r.left - m }] } }

/-- n network cycles of every run. -/
def State.advanceRuns (s : State) (n : Nat) : State := s.pegs.runs.foldl (fun t r => t.advanceRun n r) s

/-- What is left of the runs of one kind in a cluster is done at once. -/
def State.finishRuns (s : State) (cl : Nat) (init : Bool) : State :=
  (s.pegs.runs.filter (fun r => r.cl == cl && r.word.isSome == init)).foldl (fun t r => t.advanceRun r.left r) s

/-- A run begins. -/
def State.beginRun (s : State) (r : PegRun) : State := { s with pegs := { s.pegs with runs := s.pegs.runs ++ [r] } }

/-- The descriptor of a 32-bit register of the map. -/
def regDesc (off : Nat) : RegDesc := (regFind off).getD ⟨"", off, 32, [], []⟩

/-- A write to PEG_INIT_CTRL. -/
def State.pegInitWrite (s : State) (k : Nat) (path : Path) (v : Nat) : State :=
  let off := Reg.pegInitCtrl k
  let first := bitsOf v 0 12
  let count := bitsOf v 12 13
  let w := s.reg (Reg.pegInitWord k)
  if s.fld off 31 1 = 1 then s.unmapped off
  else if !v.testBit 31 then s.plainWrite path (regDesc off) off off v 0xFFFFFFFF
  else if count = 0 ∨ 4096 < count ∨ 4096 < first + count ∨ !pegWordOk w then s.unmapped off
  else (s.setRegN off (v % 2 ^ 25 + 2 ^ 31)).beginRun ⟨k, some w, 0, 4096 * k + first, count⟩

def execPegInit (k : Fin 16) (path : Path) (v : BitVec 32) (s : State) : Out :=
  s.guarded path (Reg.pegInitCtrl k) (fun s => s.pegInitWrite k path v.toNat)

/-- The run writes what pegs are left to it. -/
def execPegInitDone (k : Fin 16) (s : State) : Out := .next ((s.finishRuns k true).setFld (Reg.pegInitCtrl k) 31 1 0)

/-- A sweep of one cluster begins (R287); one under way begins again, with the regions of both. -/
def State.sweepCluster (s : State) (k mask : Nat) : State :=
  let old := s.pegs.runs.filter (fun r => r.cl == k && r.word.isNone)
  let s := { s with pegs := { s.pegs with runs := s.pegs.runs.filter (fun r => !(r.cl == k && r.word.isNone)) } }
  (s.setFld (Reg.pegAbandon k) 31 1 1).beginRun ⟨k, none, old.foldl (fun m r => m ||| r.mask) mask, 4096 * k, 4096⟩

def execPegAbandon (k : Fin 16) (path : Path) (v : BitVec 32) (s : State) : Out :=
  s.guarded path (Reg.pegAbandon k) (fun s => s.sweepCluster k (v.toNat % 16))

/-- The sweep reaches what pegs are left to it. -/
def execPegSweepDone (k : Fin 16) (s : State) : Out := .next ((s.finishRuns k false).setFld (Reg.pegAbandon k) 31 1 0)

/-! ### The lantern (R290 to R293) -/

/-- An engine blocked in the sense of R93. -/
def Eng.blocked (k : Eng) : Bool :=
  k.dhold || (match k.st with
    | .stallWait | .stallQueue | .halted | .stopped | .faulted => true
    | _ => false)

/-- An engine that can issue nothing because its running MMA or TMV waits for an address-queue entry (R109, R165, R173): stalled on a
queue in the sense of R93. -/
def Core.starved (k : Core) (e : Nat) : Bool :=
  let f := if e ≤ 1 then (k.ope e).feed else if e = 2 then k.tpe.feed else none
  (k.eng e).st == .stallBusy && (k.eng e).aq.isEmpty && (match f with | some f => f.left != 0 | none => false)

/-- Are cycles of the core quiet now (R290)? -/
def State.quiet (s : State) (c : Nat) : Bool :=
  let k := s.core c
  !k.stirred && (List.range 6).all (fun e => (k.eng e).blocked || k.starved e) && !((List.range 6).all (fun e => (k.eng e).atRest)) &&
  k.tops.isEmpty && (List.range 16).all (fun i => (Tab.get (fun _ => {}) k.str.slots i : Strm).state == 0) && k.str.xfers.isEmpty &&
  s.pegs.fills.all (fun f => (f.src.map (·.1)) != some c) && k.loads.all (fun l => l.aborted.isSome)

/-- Is it the parameter queue that an engine instruction stalled on a queue waits for? LOOP, BRQ, MMA, TMV and VBCQ pop it, and a DRP with
a row mask pops it before its entry (R122). -/
def wantsParam (e : Nat) (w : EngW) (opc : Nat) (pq : List W32) : Bool :=
  opc == 2 || opc == 4 || (opc == 0x10 && decide (e ≤ 2)) || (opc == 0x12 && decide (e ≤ 1) && drpMasked w.opnd && pq.isEmpty) ||
  (opc == 0x1A && e == 3)

/-- What the engine's next instruction waits on: CAUSE, OBJECT, VALUE (CORE_HANG). An engine under debug hold counts as halted (R588). -/
def State.hangCause (s : State) (c e : Nat) : Nat × Nat × Nat :=
  let k := s.eng c e
  if k.dhold && k.st.runs then (1, 0, 0) else
  match k.st with
  | .halted => (1, 0, 0)
  | .faulted => (2, 0, 0)
  | .stopped => (9, 0, 0)
  | .stallQueue =>
    if e = 5 then
      match iqAt k.iq k.pc with
      | some w => (8, bitsOf w 13 3, 0)
      | none => (8, 0, 0)
    else
      let w := (iqAt k.iq k.pc).getD 0
      if wantsParam e (engWOf w) (bitsOf w 0 8) k.pq then (7, e, 0) else (6, e, 0)
  | _ =>
    if (s.core c).starved e then (6, e, 0) else
    match iqAt k.iq k.pc with
    | none => (0, 0, 0)
    | some w =>
      let peg := fun (p : Nat) (take : Bool) => ((if take then 5 else 4), p, bitsOf (s.pegWord p).toNat 0 16)
      if e = 5 then
        let opc := bitsOf w 26 6
        if opc = 0x38 then peg (4096 * (c / 4) + bitsOf w 0 12) (bitsOf w 25 1 == 1)
        else if opc = 0x35 ∨ opc = 0x36 then (3, bitsOf w 15 6, s.tally c (bitsOf w 15 6))
        else (0, 0, 0)
      else
        let w0 : BitVec 24 := BitVec.ofNat 24 (bitsOf w 48 24)
        let w1 : BitVec 24 := BitVec.ofNat 24 (bitsOf w 72 24)
        let f := if s.waitOk c e w0 && waitKind w1 != 0 then w1 else w0
        match waitKind f with
        | 1 => (3, waitTally f, s.tally c (waitTally f))
        | 2 => (3, waitTally f, s.tally c (waitTally f))
        | 3 => peg (waitPeg c f) (waitTake f)
        | _ => (0, 0, 0)

/-- The quiet count reaches the span: the lantern latches CORE_HANG and writes its HANG record (R291, R292). -/
def execLanternFire (c : Fin 64) (s : State) : Out :=
  let span := s.fld (Reg.lantern c) 0 5
  if s.fld (Reg.lanternCount c) 0 32 < 2 ^ span ∨ s.fld (Reg.lantern c) 5 1 = 1 ∨ s.fld (Reg.lantern c) 31 1 = 1 then .next s
  else
    let causes := (List.range 6).map (fun e => s.hangCause c e)
    let mask := (List.range 6).foldl (fun m e => if (s.eng c e).st == .halted || (s.eng c e).dhold || (s.eng c e).st == .faulted then m + 2 ^ e else m) 0
    let codes := (List.range 6).foldl (fun m e => m + ((causes[e]?).getD (0, 0, 0)).1 * 16 ^ e) 0
    let first := (List.range 6).find? (fun e => let x := ((causes[e]?).getD (0, 0, 0)).1; decide (3 ≤ x ∧ x ≤ 5))
    let d2 := match first with
      | some e => e + ((causes[e]?).getD (0, 0, 0)).2.1 * 65536
      | none => 0
    let d3 := match first with
      | some e => (s.eng c e).pc
      | none => 0
    let s := (List.range 6).foldl (fun t e =>
      let x := (causes[e]?).getD (0, 0, 0)
      t.setRegN (Reg.hang c e) ((s.eng c e).pc + x.1 * 2 ^ 20 + x.2.1 * 2 ^ 24 + x.2.2 * 2 ^ 40)) s
    let s := (s.setFld (Reg.lantern c) 31 1 1).setFld (Reg.lanternCount c) 32 32 (s.fld (Reg.lanternCount c) 32 32 + 1)
    .next ((s.record 0 0x218 2 (s.unitCore c) (span + mask * 32) codes d2 d3).catchCore c 6)

end Sys2Proof.Machine
end

