-- ==== Sys2Proof/Machine/Special.lean ====
section
/-! DEFINITION. Square root, reciprocals and the special functions of R192. The reciprocals and roots are exact up to their one
rounding. EXP2, LOG2, TANH and ERF round a value computed with an error below 2^-110 of it: the rounding of the exact
value, unless that lies closer than this to the middle of two FP32 values. Mark: DEDUCED (log entry 27). -/
namespace Sys2Proof.Machine

/-- Integer square root of x, bit by bit from bit n - 1 of the root. -/
def isqrtFrom (x : Nat) : Nat → Nat → Nat
  | 0, r => r
  | n + 1, r => if (r + 2 ^ n) * (r + 2 ^ n) ≤ x then isqrtFrom x n (r + 2 ^ n) else isqrtFrom x n r

def isqrt (x : Nat) : Nat := isqrtFrom x (Nat.log2 x / 2 + 1) 0

/-- A quotient or root q of exponent e whose exact value lies strictly above q when inexact: a sticky bit keeps every later
rounding right. -/
def sticky (neg : Bool) (q : Nat) (inexact : Bool) (e : Int) : Num := .fin neg (2 * q + boolNat inexact) (e - 1)

/-- 1/(m·2^e), to be rounded once. -/
def recipExact (neg : Bool) (m : Nat) (e : Int) : Num :=
  let k := 64 + Nat.log2 m
  sticky neg (2 ^ k / m) (2 ^ k % m != 0) (-(k : Int) - e)

/-- √(m·2^e), to be rounded once. -/
def sqrtExact (m : Nat) (e : Int) : Num :=
  let odd := e % 2 != 0
  let m' := if odd then 2 * m else m
  let e' := if odd then e - 1 else e
  let q := isqrt (m' * 2 ^ 128)
  sticky false q (q * q != m' * 2 ^ 128) (e' / 2 - 64)

/-- 1/√(m·2^e), to be rounded once. -/
def rsqrtExact (m : Nat) (e : Int) : Num :=
  let odd := e % 2 != 0
  let m' := if odd then 2 * m else m
  let e' := if odd then e - 1 else e
  let k := 2 * (64 + Nat.log2 m')
  let q := isqrt (2 ^ k / m')
  sticky false q (q * q * m' != 2 ^ k) (-((k / 2 : Nat) : Int) - e' / 2)

/-! ### Fixed-point series with 160 fraction bits -/

def fxP : Nat := 160
def fxOne : Nat := 2 ^ fxP

/-- Σ z^(2k+1)/(2k+1) from k on: atanh of z, n terms; p is z^(2k+1), q is z². -/
def atanhSum (q : Nat) : Nat → Nat → Nat → Nat
  | 0, _, _ => 0
  | n + 1, k, p => p / (2 * k + 1) + atanhSum q n (k + 1) (p * q / fxOne)

def fxAtanh (z : Nat) : Nat := atanhSum (z * z / fxOne) 60 0 z
def fxLn2 : Nat := 2 * fxAtanh (fxOne / 3)

/-- Σ t^k/k! from k on, n terms; p is t^k/k!. -/
def expSum (t : Nat) : Nat → Nat → Nat → Nat
  | 0, _, _ => 0
  | n + 1, k, p => p + expSum t n (k + 1) (p * t / (fxOne * (k + 1)))

/-- 2^f for a fixed-point f in [0, 1). -/
def fxExp2 (f : Nat) : Nat := expSum (f * fxLn2 / fxOne) 48 0 fxOne

/-- 2^v for a signed fixed-point v, as a value. -/
def fxPow (v : Int) : Num :=
  .fin false (fxExp2 (v % fxOne).toNat) (v / fxOne - fxP)

/-- A signed value m·2^e as fixed point, rounded down. -/
def toFx (neg : Bool) (m : Nat) (e : Int) : Int :=
  let sh := e + fxP
  let x : Int := if neg then -(m : Int) else m
  if 0 ≤ sh then x * 2 ^ sh.toNat else x / 2 ^ (-sh).toNat

/-- The alternating arctangent series of 1/d. -/
def atanInv (d : Nat) : Nat → Nat → Nat → Int
  | 0, _, _ => 0
  | n + 1, k, p => (if k % 2 = 0 then ((p / (2 * k + 1) : Nat) : Int) else -((p / (2 * k + 1) : Nat) : Int)) + atanInv d n (k + 1) (p / (d * d))

def fxPi : Nat := (16 * atanInv 5 80 0 (fxOne / 5) - 4 * atanInv 239 30 0 (fxOne / 239)).toNat

/-- 2/√π. -/
def fxErfC : Nat := 2 * fxOne * fxOne / isqrt (fxPi * fxOne)

/-- Σ (-1)^k q^k/(k!(2k+1)), n terms from k on; p is q^k/k!. -/
def erfSum (q : Nat) : Nat → Nat → Nat → Int
  | 0, _, _ => 0
  | n + 1, k, p =>
    (if k % 2 = 0 then ((p / (2 * k + 1) : Nat) : Int) else -((p / (2 * k + 1) : Nat) : Int)) + erfSum q n (k + 1) (p * q / (fxOne * (k + 1)))

def one32 : W32 := 0x3F800000
def inf32 (neg : Bool) : W32 := if neg then 0xFF800000 else 0x7F800000
def zero32 (neg : Bool) : W32 := if neg then 0x80000000 else 0

/-- Is |m·2^e| ≥ 2^b·n? -/
def geScaled (m : Nat) (e : Int) (n : Nat) (b : Int) : Bool :=
  let k := min e b
  decide (n * 2 ^ (b - k).toNat ≤ m * 2 ^ (e - k).toNat)

def fnExp2 (x : W32) : W32 :=
  match num32 x with
  | .nan => nan32
  | .inf neg => if neg then 0 else inf32 false
  | .fin neg m e =>
    if m = 0 then one32
    else if neg && geScaled m e 150 0 then 0
    else if !neg && geScaled m e 128 0 then inf32 false
    else (fxPow (toFx neg m e)).to32

def fnLog2 (x : W32) : W32 :=
  match num32 x with
  | .nan => nan32
  | .inf neg => if neg then nan32 else inf32 false
  | .fin neg m e =>
    if m = 0 then inf32 true
    else if neg then nan32
    else
      let k := Nat.log2 m
      let z := (m - 2 ^ k) * fxOne / (m + 2 ^ k)
      let l : Int := ((2 * fxAtanh z * fxOne / fxLn2 : Nat) : Int) + (e + k) * fxOne
      (dyadNum false (l, -(fxP : Int))).to32

def fnRcp (x : W32) : W32 :=
  match num32 x with
  | .nan => nan32
  | .inf neg => zero32 neg
  | .fin neg m e => if m = 0 then inf32 neg else (recipExact neg m e).to32

def fnRsqrt (x : W32) : W32 :=
  match num32 x with
  | .nan => nan32
  | .inf neg => if neg then nan32 else 0
  | .fin neg m e => if m = 0 then inf32 neg else if neg then nan32 else (rsqrtExact m e).to32

def fnTanh (x : W32) : W32 :=
  match num32 x with
  | .nan => nan32
  | .inf neg => if neg then 0xBF800000 else one32
  | .fin neg m e =>
    if geScaled m e 9 0 then (if neg then 0xBF800000 else one32)
    else if !geScaled m e 1 (-12) then x
    else
      let u := 2 * toFx false m e * fxOne / fxLn2
      let E := match fxPow (-u) with
        | .fin _ a b => toFx false a b
        | _ => 0
      let t := ((fxOne : Int) - E) * fxOne / ((fxOne : Int) + E)
      (Num.fin neg t.toNat (-(fxP : Int))).to32

def fnErf (x : W32) : W32 :=
  match num32 x with
  | .nan => nan32
  | .inf neg => if neg then 0xBF800000 else one32
  | .fin neg m e =>
    if m = 0 then x
    else if geScaled m e 4 0 then (if neg then 0xBF800000 else one32)
    else
      let q := (toFx false (m * m) (2 * e)).toNat
      let g := (erfSum q 140 0 fxOne).toNat * fxErfC / fxOne
      (Num.fin neg (m * g) (e - (fxP : Int))).to32

end Sys2Proof.Machine
end

