-- ==== Sys2Proof/Machine/Lanes.lean ====
section
/-! DEFINITION. The lane functions of the vector engine (R185 to R193): each gives a lane's new value and the flags it raises, 1 INV,
2 OVF, 4 SAT. -/
namespace Sys2Proof.Machine

/-- A lane's value and flags. -/
abbrev Lane := W32 × Nat

/-- A result with the flags of R193 for its operands: INV for a NaN made of no NaN, OVF for an infinity made of finite
values. -/
def flagged (r : W32) (ops : List W32) : Lane :=
  let x := num32 r
  let inv := x.isNan && !ops.any isNan32
  let ovf := x.isInf && !ops.any (fun o => isNan32 o || isInf32 o)
  (r, boolNat inv + 2 * boolNat ovf)

def neg32 (a : W32) : W32 := a ^^^ 0x80000000

/-- The order of R185 on values that are not NaN: −0 below +0. Sign and magnitude read as a signed number. -/
def order32 (a : W32) : Int := if a.msb then -(bitsOf a.toNat 0 31 : Nat) - 1 else (a.toNat : Int)

def minMax32 (max : Bool) (a b : W32) : W32 :=
  if isNan32 a || isNan32 b then nan32
  else if (order32 a < order32 b) == max then b else a

/-- VARITH (R185). -/
def varith (f : Nat) (a b c : W32) : Lane :=
  match f with
  | 0 => flagged (add32 a b) [a, b]
  | 1 => flagged (add32 a (neg32 b)) [a, b]
  | 2 => flagged (mul32 a b) [a, b]
  | 3 => flagged (fma32 a b c) [a, b, c]
  | 4 => flagged (fma32 (neg32 a) b c) [a, b, c]
  | 5 => (minMax32 false a b, 0)
  | 6 => (minMax32 true a b, 0)
  | 7 => (a &&& 0x7FFFFFFF, 0)
  | 8 => (neg32 a, 0)
  | 9 => (a + b, 0)
  | 10 => (a &&& b, 0)
  | 11 => (a ||| b, 0)
  | 12 => (a ^^^ b, 0)
  | 13 => (a <<< (b.toNat % 32), 0)
  | _ => (a >>> (b.toNat % 32), 0)

/-- a < b of two values that are not NaN, −0 equal to +0. -/
def lt32 (a b : W32) : Bool :=
  match num32 a, num32 b with
  | .nan, _ => false
  | _, .nan => false
  | .inf s, .inf t => s && !t
  | .inf s, _ => s
  | _, .inf t => !t
  | x, y => decide ((dyadAdd x.dyad y.neg.dyad).1 < 0)

def eq32 (a b : W32) : Bool := !isNan32 a && !isNan32 b && !lt32 a b && !lt32 b a

/-- VCMP (R186). -/
def vcmp (f : Nat) (a b : W32) : W32 :=
  let hold := match f with
    | 0 => eq32 a b
    | 1 => !eq32 a b
    | 2 => lt32 a b
    | 3 => lt32 a b || eq32 a b
    | 4 => isNan32 a || isNan32 b
    | 5 => a == b
    | _ => a.slt b
  if hold then 0xFFFFFFFF else 0

/-- One level of VRED's tree: adjacent pairs combined, with their flags. -/
def redLevel (f : Nat) : List W32 → List W32 × Nat
  | a :: b :: rest =>
    let x := varith f a b 0
    let r := redLevel f rest
    (x.1 :: r.1, x.2 ||| r.2)
  | l => (l, 0)

/-- g levels. -/
def redTree (f : Nat) : Nat → List W32 → List W32 × Nat
  | 0, l => (l, 0)
  | g + 1, l =>
    let x := redLevel f l
    let r := redTree f g x.1
    (r.1, x.2 ||| r.2)

/-- VRED over all 64 lanes (R187): the tree's level halves every group at once. -/
def vred (f g : Nat) (v : List W32) : List W32 × Nat :=
  let r := redTree f g v
  ((List.range 64).map (fun i => (r.1[i / 2 ^ g]?).getD 0), r.2)

/-- VPERM (R188): j is the VB field. -/
def vperm (f : Nat) (va : Nat → W32) (vb : Nat → W32) (j i : Nat) : W32 :=
  match f with
  | 0 => va ((vb i).toNat % 64)
  | 1 => va j
  | 2 => va ((i + j) % 64)
  | _ => va (i ^^^ j)

/-- Rounding to an integer, as a count: the magnitude. -/
def roundInt (r : Rnd) (m : Nat) (e : Int) : Nat := roundAt r m e 0

/-- The signed limits of an integer target and whether the value falls outside. -/
def clampInt (lo hi v : Int) : Int × Bool := if v < lo then (lo, true) else if hi < v then (hi, true) else (v, false)

/-- Rounding to a signed integer between limits (R152, R189): NaN gives 0. The flag is SAT. -/
def toInt (r : Rnd) (lo hi : Int) (x : Num) : Int × Bool :=
  match x with
  | .nan => (0, true)
  | .inf s => (if s then lo else hi, true)
  | .fin s m e =>
    let n : Int := roundInt r m e
    clampInt lo hi (if s then -n else n)

/-- The FP32 value of an integer: a zero takes the sign given. -/
def ofInt32 (zneg : Bool) (n : Int) : W32 := (if n = 0 then Num.fin zneg 0 0 else Num.fin (decide (n < 0)) n.natAbs 0).to32

/-- VCVT RND (R189): the value on the target's grid, in FP32. -/
def vrnd (sub : Nat) (r : Rnd) (a : W32) : Lane :=
  let x := num32 a
  if sub = 11 then
    let n := toInt r (-128) 127 x
    (ofInt32 (x.sign && !n.2) n.1, 4 * boolNat n.2)
  else
    match fmtOf sub with
    | none => (a, 0)
    | some f =>
      let c := f.narrow r x
      let v := (f.decode c.1).to32
      (v, boolNat (isNan32 v && !x.isNan) + 4 * boolNat c.2)

/-- VCVT (R189). -/
def vcvt (f sub : Nat) (r : Rnd) (a : W32) : Lane :=
  match f with
  | 0 => vrnd sub r a
  | 1 =>
    let n := toInt .rne (-2147483648) 2147483647 (num32 a)
    (BitVec.ofInt 32 n.1, 4 * boolNat n.2)
  | _ => (ofInt32 false a.toInt, 0)

/-- VSFU (R192). -/
def vsfu (f : Nat) (a : W32) : Lane :=
  let g := match f with
    | 0 => fnExp2
    | 1 => fnLog2
    | 2 => fnRcp
    | 3 => fnRsqrt
    | 4 => fnTanh
    | _ => fnErf
  flagged (g a) [a]

/-- One lane stored without block scale (R181): its code and flags. -/
def vstLane (fmt : Nat) (r : Rnd) (v : W32) : Nat × Nat :=
  if fmt = 10 then (v.toNat, 0)
  else if fmt = 11 then
    let n := toInt r (-128) 127 (num32 v)
    ((BitVec.ofInt 8 n.1).toNat, 4 * boolNat n.2)
  else
    match fmtOf fmt with
    | none => (0, 0)
    | some f =>
      let c := f.narrow r (num32 v)
      (c.1, boolNat ((f.decode c.1).isNan && !isNan32 v) + 4 * boolNat c.2)

end Sys2Proof.Machine
end

