-- ==== Sys2Proof/Machine/Cve.lean ====
section
/-! DEFINITION. The arithmetic of the cellar vector engines: instructions by lane (R374), binary64 and the pass scalars (R356), and the
built-in rules (R363 to R371). Every operation's flags are gathered: 1 INV, 2 OVF, 4 SAT. -/
namespace Sys2Proof.Machine

/-! ### Lane functions (R363, R374) -/

/-- sgn: a itself for ±0 and NaN. -/
def cveSgn (a : W32) : W32 :=
  match num32 a with
  | .nan => a
  | x => if x.isZero then a else if x.sign then 0xBF800000 else 0x3F800000

def cveSqrt (a : W32) : W32 :=
  match num32 a with
  | .nan => nan32
  | .inf neg => if neg then nan32 else a
  | .fin neg m e => if m = 0 then a else if neg then nan32 else (sqrtExact m e).to32

/-- The result of a lane instruction by opcode. -/
def cveLane (op sub : Nat) (a b c : W32) : Lane :=
  match op with
  | 0x01 => varith 0 a b c
  | 0x02 => varith 1 a b c
  | 0x03 => varith 2 a b c
  | 0x04 => varith 3 a b c
  | 0x05 => varith 4 a b c
  | 0x06 => varith 5 a b c
  | 0x07 => varith 6 a b c
  | 0x08 => varith 7 a b c
  | 0x09 => varith 8 a b c
  | 0x0A => (cveSgn a, 0)
  | 0x0B => flagged (cveSqrt a) [a]
  | 0x0C => vsfu 3 a
  | 0x0D => vsfu 2 a
  | 0x0E => (vcmp sub a b, 0)
  | 0x0F => (if c = 0 then b else a, 0)
  | _ => (a, 0)

/-! ### Operations with gathered flags -/

/-- A computation that gathers flags. -/
abbrev Fl := StateM Nat

def fl (x : Lane) : Fl W32 := fun f => (x.1, f ||| x.2)

abbrev Lanes := List W32

def laneOf (x : Lanes) (i : Nat) : W32 := (x[i]?).getD 0
def splat (v : W32) : Lanes := List.replicate 32 v

def op1 (f : W32 → Lane) (a : W32) : Fl W32 := fl (f a)
def fmul (a b : W32) : Fl W32 := fl (varith 2 a b 0)
def fadd (a b : W32) : Fl W32 := fl (varith 0 a b 0)
def ffma (a b c : W32) : Fl W32 := fl (varith 3 a b c)
def ffnma (a b c : W32) : Fl W32 := fl (varith 4 a b c)
def frcp (a : W32) : Fl W32 := fl (vsfu 2 a)
def frsqrt (a : W32) : Fl W32 := fl (vsfu 3 a)
def fsqrt (a : W32) : Fl W32 := fl (flagged (cveSqrt a) [a])

def vmap (f : W32 → Fl W32) (a : Lanes) : Fl Lanes := a.mapM f
def vmap2 (f : W32 → W32 → Fl W32) (a b : Lanes) : Fl Lanes := (a.zip b).mapM (fun p => f p.1 p.2)
def vmap3 (f : W32 → W32 → W32 → Fl W32) (a b c : Lanes) : Fl Lanes := (a.zip (b.zip c)).mapM (fun p => f p.1 p.2.1 p.2.2)
def vmul (a b : Lanes) : Fl Lanes := vmap2 fmul a b
def vadd (a b : Lanes) : Fl Lanes := vmap2 fadd a b
def vfma (a b c : Lanes) : Fl Lanes := vmap3 ffma a b c
def smul (a : Lanes) (p : W32) : Fl Lanes := vmap (fun x => fmul x p) a
/-- a · p + c with a scalar p. -/
def sfma (a : Lanes) (p : W32) (c : Lanes) : Fl Lanes := vmap2 (fun x z => ffma x p z) a c

/-- sum32: the pairwise tree of R187 over 32 lanes. -/
def sum32 (x : Lanes) : Fl W32 := fun f => let r := redTree 0 5 x; (laneOf r.1 0, f ||| r.2)

/-! ### Binary64 (R356) -/

def fp64 : FFmt := ⟨11, 52, 1023, .ieee⟩

/-- rne to binary64, as a value. -/
def r64 (x : Num) : Num := fp64.decode (fp64.narrow .rne x).1

def mul64 (a b : Num) : Num := r64 (a.mul b)
def sub64 (a b : Num) : Num := r64 (sumTerms [a, b.neg])
def add64 (a b : Num) : Num := r64 (sumTerms [a, b])

/-- A correctly rounded quotient. -/
def div64 (a b : Num) : Num :=
  match a, b with
  | .nan, _ => .nan
  | _, .nan => .nan
  | .inf _, .inf _ => .nan
  | .inf s, .fin t _ _ => .inf (s != t)
  | .fin s _ _, .inf t => .fin (s != t) 0 0
  | .fin s m e, .fin t n f =>
    if n = 0 then (if m = 0 then .nan else .inf (s != t))
    else
      let k := 128 + Nat.log2 n
      r64 (if m = 0 then .fin (s != t) 0 0 else sticky (s != t) (m * 2 ^ k / n) (m * 2 ^ k % n != 0) (e - f - k))

def sqrt64 (a : Num) : Num :=
  match a with
  | .nan => .nan
  | .inf s => if s then .nan else a
  | .fin s m e => if m = 0 then a else if s then .nan else r64 (sqrtExact m e)

/-- a ≤ b, false with a NaN. -/
def le64 (a b : Num) : Bool :=
  match a, b with
  | .nan, _ => false
  | _, .nan => false
  | .inf s, .inf t => s || !t
  | .inf s, _ => s
  | _, .inf t => !t
  | x, y => decide (0 ≤ (dyadAdd y.dyad x.neg.dyad).1)

def one64 : Num := .fin false 1 0

/-- The bits of t from bit n - 1 down. -/
def pow64 (b : Num) (t : Nat) : Nat → Num → Num
  | 0, y => y
  | n + 1, y =>
    let y := mul64 y y
    pow64 b t n (if t.testBit n then mul64 y b else y)

/-- t mod k = 0 for an FP32 k above 0. -/
def refreshes (t : Nat) (k : W32) : Bool :=
  match num32 k with
  | .fin false m e => m != 0 && (if 0 ≤ e then t % (m * 2 ^ e.toNat) == 0 else t * 2 ^ (-e).toNat % m == 0)
  | _ => false

/-- The pass scalars p1 to p5 of a rule slot: c, bc1, bc2, dk, refresh. -/
def passScalars (t : Nat) (lr ssq cmax b1 b2 lam k : W32) : List W32 :=
  let root := sqrt64 (num32 ssq)
  let c := if (num32 cmax).isZero || le64 root (num32 cmax) then one64 else div64 (num32 cmax) root
  let bits := if t = 0 then 0 else Nat.log2 t + 1
  let bc := fun (b : W32) => div64 one64 (sub64 one64 (pow64 (num32 b) t bits one64))
  let dk := sub64 one64 (mul64 (num32 lr) (num32 lam))
  [c.to32, (bc b1).to32, (bc b2).to32, dk.to32, if refreshes t k then one32 else 0]

/-! ### Built-in rules for one record (R365 to R367) -/

/-- The registers k1, k2, k3 a rule leaves: W, M, V. -/
abbrev Rec := Lanes × Lanes × Lanes

/-- Momentum descent. P: the parameter file. -/
def ruleMomentum (P : Nat → W32) (g w m v : Lanes) : Fl Rec := do
  let g ← smul g (P 1)
  let g ← if (num32 (P 18)).isZero then pure g else sfma w (P 18) g
  let m ← sfma m (P 8) g
  let u ← if P 17 = one32 then sfma m (P 8) g else pure m
  let x ← smul u (neg32 (P 0))
  let w ← sfma w (P 4) x
  pure (w, m, v)

/-- Adaptive moments with decoupled decay. -/
def ruleAdaptive (P : Nat → W32) (g w m v : Lanes) : Fl Rec := do
  let g ← smul g (P 1)
  let a ← smul g (P 12)
  let m ← sfma m (P 8) a
  let q ← vmul g g
  let q ← smul q (P 13)
  let v ← sfma v (P 9) q
  let d ← smul v (P 3)
  let d ← vmap fsqrt d
  let d ← vmap (fun x => fadd x (P 10)) d
  let u ← smul m (P 2)
  let r ← vmap frcp d
  let u ← vmul u r
  let x ← smul u (neg32 (P 0))
  let w ← sfma w (P 4) x
  pure (w, m, v)

/-- Sign momentum. -/
def ruleSign (P : Nat → W32) (g w m v : Lanes) : Fl Rec := do
  let g ← smul g (P 1)
  let a ← smul g (P 12)
  let x ← sfma m (P 8) a
  let b ← smul g (P 13)
  let m ← sfma m (P 9) b
  let y ← smul (x.map cveSgn) (neg32 (P 0))
  let w ← sfma w (P 4) y
  pure (w, m, v)

/-! ### Group rules (R368 to R371) -/

def inv32 : W32 := 0x3D000000

/-- What a group rule's PRE leaves: the group's gradients, the AUX words, the record part's own data (rowst, colst and rbar, or the
preconditioned tile), and whether each root floored a pivot. -/
structure GroupPre where
  gg : List Lanes
  aux : Lanes
  rowst : Lanes := []
  colst : Lanes := []
  rbar : W32 := 0
  pp : List Lanes := []
  flooredL : Bool := false
  flooredR : Bool := false
deriving DecidableEq, Repr

/-- Left fold that gathers flags. -/
def foldFl {α β : Type} (f : β → α → Fl β) : β → List α → Fl β
  | b, [] => pure b
  | b, a :: as => do
    let b ← f b a
    foldFl f b as

/-- Factored second moment, PRE. The loop over r leaves each record's q and its row's state. -/
def factoredPre (P : Nat → W32) (gg : List Lanes) (aux : Lanes) : Fl GroupPre := do
  let rowst := aux.take 32
  let colst := (aux.drop 32).take 32
  let rows ← (gg.zip rowst).mapM (fun (p : Lanes × W32) => do
    let g ← smul p.1 (P 1)
    let q ← vmap (fun x => ffma x x (P 10)) g
    let t ← sum32 q
    let t ← fmul t inv32
    let t ← fmul t (P 13)
    let s ← ffma p.2 (P 9) t
    pure (g, q, s))
  let qs := rows.map (fun r => r.2.1)
  let col ← foldFl vadd (qs.headD (splat 0)) (qs.drop 1)
  let c ← smul col inv32
  let c ← smul c (P 13)
  let colst ← sfma colst (P 9) c
  let rowst := rows.map (fun r => r.2.2)
  let rb ← sum32 rowst
  let rbar ← fmul rb inv32
  pure { gg := rows.map (·.1), aux := rowst ++ colst, rowst := rowst, colst := colst, rbar := rbar }

def factoredRec (P : Nat → W32) (hasM : Bool) (x : GroupPre) (r : Nat) (w m v : Lanes) : Fl Rec := do
  let a ← smul x.colst (laneOf x.rowst r)
  let i ← frcp x.rbar
  let a ← smul a i
  let vh ← smul a (P 3)
  let rs ← vmap frsqrt vh
  let u ← vmul ((x.gg[r]?).getD (splat 0)) rs
  let (m, u) ← if hasM then do
      let b ← smul u (P 12)
      let m ← sfma m (P 8) b
      let u ← smul m (P 2)
      pure (m, u)
    else pure (m, u)
  let y ← smul u (neg32 (P 0))
  let w ← sfma w (P 4) y
  pure (w, m, v)

/-- A 32 × 32 matrix by rows. -/
abbrev Mat := List Lanes

def Mat.at_ (x : Mat) (a b : Nat) : W32 := laneOf ((x[a]?).getD []) b
def transpose (x : Mat) : Mat := (List.range 32).map (fun b => (List.range 32).map (fun a => x.at_ a b))
def matOf (aux : Lanes) (at' : Nat) : Mat := (List.range 32).map (fun a => (aux.drop (at' + 32 * a)).take 32)
def mapMat (f : W32 → Fl W32) (x : Mat) : Fl Mat := x.mapM (vmap f)
def mapMat2 (f : W32 → W32 → Fl W32) (x y : Mat) : Fl Mat := (x.zip y).mapM (fun p => vmap2 f p.1 p.2)

def dot (x y : Lanes) : Fl W32 := foldFl (fun s p => ffma p.1 p.2 s) 0 (x.zip y)

/-- Every row of x against every row of y. -/
def rowsDot (x y : Mat) : Fl Mat := x.mapM (fun r => y.mapM (fun c => dot r c))
def prod (x y : Mat) : Fl Mat := rowsDot x (transpose y)

/-- Cholesky of x from column j on (n columns left): cc by rows, its lower part filled; whether a pivot was floored. -/
def cholesky (x : Mat) (floor : W32) : Nat → Nat → Mat → Bool → Fl (Mat × Bool)
  | 0, _, cc, f => pure (cc, f)
  | n + 1, j, cc, f => do
    let row := (cc[j]?).getD []
    let d ← foldFl (fun d q => ffnma q q d) (x.at_ j j) (row.take j)
    let low := !(lt32 floor d || eq32 floor d)
    let d := if low then floor else d
    let h ← frsqrt d
    let dj ← fmul d h
    let cc := cc.set j (row.set j dj)
    let col ← ((List.range 32).drop (j + 1)).mapM (fun i => do
      let ci := (cc[i]?).getD []
      let e ← foldFl (fun e (p : W32 × W32) => ffnma p.1 p.2 e) (x.at_ i j) ((ci.take j).zip (row.take j))
      fmul e h)
    let cc := cc.mapIdx (fun i r => if i ≤ j then r else r.set j (laneOf col (i - j - 1)))
    cholesky x floor n (j + 1) cc (f || low)

/-- Column j of the inverse of the lower factor: entries from row i on (n rows left), given those above. -/
def invColumn (cc : Mat) (tt : Nat → W32) (j : Nat) : Nat → Nat → Lanes → Fl Lanes
  | 0, _, col => pure col
  | n + 1, i, col => do
    let e ← foldFl (fun e q => ffma (cc.at_ i q) (laneOf col (q - j)) e) 0 ((List.range (i - j)).map (· + j))
    let v ← fmul (neg32 e) (tt i)
    invColumn cc tt j n (i + 1) (col ++ [v])

/-- inv_spd: the inverse by Cholesky with a pivot floor. -/
def invSpd (x : Mat) (floor : W32) : Fl (Mat × Bool) := do
  let zero : Mat := List.replicate 32 (splat 0)
  let (cc, f) ← cholesky x floor 32 0 zero false
  let diag ← (List.range 32).mapM (fun j => frcp (cc.at_ j j))
  let cols ← (List.range 32).mapM (fun j => invColumn cc (laneOf diag) j (31 - j) (j + 1) [laneOf diag j])
  let tt := fun (q a : Nat) => laneOf ((cols[a]?).getD []) (q - a)
  let lower ← (List.range 32).mapM (fun a => (List.range (a + 1)).mapM (fun b =>
    foldFl (fun e q => ffma (tt q a) (tt q b) e) 0 ((List.range (32 - a)).map (· + a))))
  let el := fun (a b : Nat) => laneOf ((lower[a]?).getD []) b
  pure ((List.range 32).map (fun a => (List.range 32).map (fun b => if b ≤ a then el a b else el b a)), f)

def half32 : W32 := 0x3F000000

/-- db: n Denman-Beavers iterations. -/
def denmanBeavers (floor : W32) : Nat → Mat → Mat → Bool → Fl (Mat × Mat × Bool)
  | 0, y, z, f => pure (y, z, f)
  | n + 1, y, z, f => do
    let (yi, f1) ← invSpd y floor
    let (zi, f2) ← invSpd z floor
    let y' ← mapMat2 fadd y zi
    let y' ← mapMat (fun e => fmul e half32) y'
    let z' ← mapMat2 fadd z yi
    let z' ← mapMat (fun e => fmul e half32) z'
    denmanBeavers floor n y' z' (f || f1 || f2)

def identity32 : Mat := (List.range 32).map (fun a => (List.range 32).map (fun b => if a = b then one32 else 0))

/-- The integer an FP32 parameter holds. -/
def natOf32 (p : W32) : Nat :=
  match num32 p with
  | .fin false m e => if 0 ≤ e then m * 2 ^ e.toNat else m / 2 ^ (-e).toNat
  | _ => 0

def iroot4 (P : Nat → W32) (s : Mat) : Fl (Mat × Bool) := do
  let floor := P 14
  let n := natOf32 (P 15)
  let diag ← (List.range 32).mapM (fun j => fadd (s.at_ j j) (P 10))
  let x := s.mapIdx (fun j r => r.set j (laneOf diag j))
  let mu ← foldFl fadd (laneOf diag 0) (diag.drop 1)
  let mu ← fmul mu inv32
  let mu := if lt32 floor mu || eq32 floor mu then mu else floor
  let i ← frcp mu
  let x ← mapMat (fun e => fmul e i) x
  let (_, z1, f1) ← denmanBeavers floor n x identity32 false
  let (y2, _, f2) ← denmanBeavers floor n z1 identity32 false
  let h ← frsqrt mu
  let g ← frsqrt h
  let h ← fmul h g
  let y ← mapMat (fun e => fmul e h) y2
  pure (y, f1 || f2)

/-- Block-preconditioned, PRE. -/
def precondPre (P : Nat → W32) (gg : List Lanes) (aux : Lanes) : Fl GroupPre := do
  let gg ← gg.mapM (fun g => smul g (P 1))
  let upd := fun (old new : Mat) => (old.zip new).mapM (fun (p : Lanes × Lanes) => do
    let b ← smul p.2 (P 13)
    sfma p.1 (P 9) b)
  let dl ← rowsDot gg gg
  let lhs ← upd (matOf aux 0) dl
  let dr ← rowsDot (transpose gg) (transpose gg)
  let rhs ← upd (matOf aux 1024) dr
  let (ql, fL) ← if P 5 = one32 then iroot4 P lhs else pure (matOf aux 2048, false)
  let (qr, fR) ← if P 5 = one32 then iroot4 P rhs else pure (matOf aux 3072, false)
  let t ← prod ql gg
  let pp ← prod t qr
  pure { gg := gg, aux := lhs.flatten ++ rhs.flatten ++ ql.flatten ++ qr.flatten, pp := pp, flooredL := fL, flooredR := fR }

def precondRec (P : Nat → W32) (x : GroupPre) (r : Nat) (w m v : Lanes) : Fl Rec := do
  let b ← smul ((x.pp[r]?).getD (splat 0)) (P 12)
  let m ← sfma m (P 8) b
  let u ← smul m (P 2)
  let y ← smul u (neg32 (P 0))
  let w ← sfma w (P 4) y
  pure (w, m, v)

end Sys2Proof.Machine
end

