-- ==== Sys2Proof/Machine/Update.lean ====
section
/-! DEFINITION. The parameter update beside memory (R342 to R379): update commands, passes, items, runs of the built-in rules and the
programs of custom rules, and the validation of a rule slot. -/
namespace Sys2Proof.Machine

namespace Reg
def upd (d : Nat) : Nat := cellar d + 0x80000
def updCtrl (d : Nat) : Nat := upd d
def updClip (d : Nat) : Nat := upd d + 4
def updSeed (d : Nat) : Nat := upd d + 8
def updFlags (d : Nat) : Nat := upd d + 0x10
def updCounts (d : Nat) : Nat := upd d + 0x18
def ruleCfg (d n : Nat) : Nat := upd d + 0x100 + 8 * n
def ruleProg (d n : Nat) : Nat := upd d + 0x180 + 8 * n
def ruleP (d n j : Nat) : Nat := upd d + 0x200 + 0x80 * n + 4 * j
def updProg (d i : Nat) : Nat := upd d + 0x4000 + 8 * i
def engOk (d : Nat) : Nat := cellar d
def seqStatus (d : Nat) : Nat := cellar d + 8
end Reg

/-! ### Cellar dies -/

/-- The sequencer and engines of cellar die d (1 to 4). -/
def State.cellar (s : State) (d : Nat) : Cellar := Tab.get (fun _ => {}) s.cellars d
def State.setCellar (s : State) (d : Nat) (x : Cellar) : State := { s with cellars := Tab.set (fun _ => {}) s.cellars d x }
def Cellar.cve (x : Cellar) (e : Nat) : Cve := Tab.get (fun _ => {}) x.cves e
def Cellar.setCve (x : Cellar) (e : Nat) (v : Cve) : Cellar := { x with cves := Tab.set (fun _ => {}) x.cves e v }
def State.cve (s : State) (d e : Nat) : Cve := (s.cellar d).cve e
def State.setCve (s : State) (d e : Nat) (v : Cve) : State := s.setCellar d ((s.cellar d).setCve e v)
/-- Change the running pass. -/
def State.mapPass (s : State) (d : Nat) (f : Pass → Pass) : State :=
  s.setCellar d { s.cellar d with running := (s.cellar d).running.map f }

/-- A fault of this chapter, at the cellar die. -/
def State.updFault (s : State) (d code d0 d1 : Nat) : State := s.record d code 2 (s.unitDie d) d0 d1 0 0

def State.updFlag (s : State) (d f : Nat) : State := s.orReg (Reg.updFlags d) f

/-! ### Rule slots (R364, R376) -/

/-- A field of UPD_RULE_CFG. -/
def State.rule (s : State) (d n lo len : Nat) : Nat := s.fld (Reg.ruleCfg d n) lo len
def State.ruleKind (s : State) (d n : Nat) : Nat := s.rule d n 0 4
def State.ruleEn (s : State) (d n : Nat) : Bool := s.rule d n 4 1 == 1
def State.ruleGroup (s : State) (d n : Nat) : Bool := s.rule d n 5 1 == 1
def State.ruleFrz (s : State) (d n : Nat) : Bool := s.rule d n 6 1 == 1
def State.ruleGfmt (s : State) (d n : Nat) : Nat := s.rule d n 8 4
def State.ruleWfmt (s : State) (d n : Nat) : Nat := s.rule d n 12 4
def State.ruleMfmt (s : State) (d n : Nat) : Nat := s.rule d n 16 4
def State.ruleVfmt (s : State) (d n : Nat) : Nat := s.rule d n 20 4
def State.ruleDfmt (s : State) (d n : Nat) : Nat := s.rule d n 24 4
/-- The stochastic-rounding bits of W, M, V, D. -/
def State.ruleSr (s : State) (d n c : Nat) : Bool := s.rule d n (28 + c) 1 == 1
def State.ruleAux (s : State) (d n : Nat) : Nat := 16 * s.rule d n 32 12
def State.ruleParam (s : State) (d n j : Nat) : W32 := BitVec.ofNat 32 (s.fld (Reg.ruleP d n j) 0 32)

/-- A component the slot uses (R352's order: F G W M V AUX D). -/
def State.ruleUses (s : State) (d n c : Nat) : Bool :=
  match c with
  | 0 => s.ruleFrz d n
  | 3 => s.ruleMfmt d n != 15
  | 4 => s.ruleVfmt d n != 15
  | 5 => s.ruleAux d n != 0
  | _ => true

/-- A CVE instruction's opcode, and its fields. -/
def cveOp (w : Nat) : Nat := bitsOf w 0 8

/-- A valid instruction of R373 and R374: no reserved opcode, every field the opcode does not use zero, and every scratch access
within word 16,383 at p7 = 31. -/
def cveInsnOk (w : Nat) : Bool :=
  let op := cveOp w
  let d := bitsOf w 8 6
  let a := bitsOf w 14 6
  let b := bitsOf w 20 6
  let c := bitsOf w 26 6
  let bp := w.testBit 32
  let cp := w.testBit 33
  let soff := bitsOf w 34 14
  let xr := w.testBit 48
  let sub := bitsOf w 49 4
  let noMem := soff == 0 && !xr
  let useB := !bp || decide (b < 32)
  let useC := !cp || decide (c < 32)
  let noB := b == 0 && !bp
  let noC := c == 0 && !cp
  let scratch := decide (soff + 31 + (if xr then 992 else 0) ≤ 16383)
  bitsOf w 53 11 == 0 &&
  (if op = 1 ∨ op = 2 ∨ op = 3 ∨ op = 6 ∨ op = 7 then useB && noC && noMem && sub == 0
   else if op = 4 ∨ op = 5 ∨ op = 0xF then useB && useC && noMem && sub == 0
   else if (8 ≤ op ∧ op ≤ 0xD) ∨ op = 0x10 ∨ op = 0x14 then noB && noC && noMem && sub == 0
   else if op = 0xE then useB && noC && noMem && decide (sub ≤ 4)
   else if op = 0x11 then !bp && decide (b < 32) && noC && noMem && sub == 0
   else if op = 0x12 then a == 0 && noB && noC && sub == 0 && scratch
   else if op = 0x13 then d == 0 && noB && noC && sub == 0 && scratch
   else if op = 0x3F then d == 0 && a == 0 && noB && noC && noMem && sub == 0
   else false)

/-- An entry point reaches an END with every instruction before it valid; n instructions are left in the store. -/
def State.entryOk (s : State) (d : Nat) : Nat → Nat → Bool
  | 0, _ => false
  | n + 1, i =>
    let w := s.regN (Reg.updProg d i)
    cveInsnOk w && (cveOp w == 0x3F || s.entryOk d n (i + 1))

def State.entry (s : State) (d n k : Nat) : Nat := s.fld (Reg.ruleProg d n) (11 * k) 11
def State.entryGood (s : State) (d n k : Nat) : Bool :=
  s.entry d n k == 0x7FF || s.entryOk d (2048 - s.entry d n k) (s.entry d n k)

/-- Conditions of R364 on a parameter. -/
def unitRange (p : W32) : Bool :=
  match num32 p with
  | .fin s m e => (m == 0 || !s) && decide ((dyadAdd (m, e) (-1, 0)).1 < 0)
  | _ => false
def positiveNormal (p : W32) : Bool := !p.msb && decide (1 ≤ bitsOf p.toNat 23 8 ∧ bitsOf p.toNat 23 8 ≤ 254)
def wholeUpTo (p : W32) (lo hi : Nat) : Bool :=
  match num32 p with
  | .fin s m e => (m == 0 || !s) && decide (lo ≤ natOf32 p ∧ natOf32 p ≤ hi) && (decide (0 ≤ e) || m % 2 ^ (-e).toNat == 0)
  | _ => false

/-- The parameters of a built-in slot hold values of R364. -/
def State.paramsOk (s : State) (d n : Nat) : Bool :=
  let P := s.ruleParam d n
  let zero := fun (js : List Nat) => js.all (fun j => P j == 0)
  let tail := zero ((List.range 13).map (· + 19))
  match s.ruleKind d n with
  | 0 => unitRange (P 8) && zero [9, 10, 12, 13, 14, 15, 16] && (P 17 == 0 || P 17 == one32) && tail
  | 1 => unitRange (P 8) && unitRange (P 9) && positiveNormal (P 10) && zero [14, 15, 16, 17, 18] && tail
  | 2 => unitRange (P 8) && unitRange (P 9) && zero [10, 14, 15, 16, 17, 18] && tail
  | 3 => unitRange (P 8) && unitRange (P 9) && positiveNormal (P 10) && zero [14, 15, 16, 17, 18] && tail
  | 4 => unitRange (P 8) && unitRange (P 9) && positiveNormal (P 10) && positiveNormal (P 14) && wholeUpTo (P 15) 1 15 &&
      wholeUpTo (P 16) 0 (2 ^ 24) && zero [17, 18] && tail
  | _ => true

/-- The validation of R376. -/
def State.slotOk (s : State) (d n : Nat) : Bool :=
  let k := s.ruleKind d n
  let g := s.ruleGroup d n
  let moment := fun (f : Nat) => f == 0 || f == 4 || f == 5 || f == 10 || f == 15
  let m := s.ruleMfmt d n
  let v := s.ruleVfmt d n
  (s.ruleGfmt d n == 0 || s.ruleGfmt d n == 10) && (s.ruleWfmt d n == 0 || s.ruleWfmt d n == 10) && moment m && moment v &&
  (s.ruleDfmt d n == 0 || s.ruleDfmt d n == 4) && decide (s.ruleAux d n ≤ 16384) &&
  !(m == 15 && k != 3 && k != 5) && !(v != 15 && k != 1 && k != 5) && !(v == 15 && k == 1) &&
  !(s.ruleSr d n 0 && s.ruleWfmt d n == 10) &&
  (match k with
   | 3 => g && s.rule d n 32 12 == 16
   | 4 => g && s.rule d n 32 12 == 1024
   | 5 => s.entry d n 1 != 0x7FF && s.entryGood d n 0 && s.entryGood d n 1 && s.entryGood d n 2
   | _ => decide (k < 5) && !g && s.ruleAux d n == 0) &&
  s.paramsOk d n

/-- Does a pass run or is one queued? -/
def State.passBusy (s : State) (d : Nat) : Bool := (s.cellar d).running.isSome || (s.cellar d).queued.isSome

/-- A write of the bits in mask of UPD_RULE_CFG (R376, R378). -/
def State.ruleCfgWrite (s : State) (d n v mask : Nat) : State :=
  let r := Reg.ruleCfg d n
  let kept := 0xFFFFFFFFF7F
  let new := ((s.regN r &&& (2 ^ 64 - 1 - mask)) ||| (v &&& mask)) &&& kept
  let clears := !new.testBit 4
  if s.passBusy d ∨ (s.ruleEn d n ∧ !clears) ∨ 6 ≤ new % 16 then s.unmapped r
  else
    let t := s.setRegN r new
    if clears then t
    else if t.slotOk d n then t else (t.setFld r 4 1 0).updFault d 0x314 0 0

def execRuleSlotEnable (cellar : Fin 4) (slot : Fin 16) (path : Path) (v : BitVec 64) (s : State) : Out :=
  s.guarded path (Reg.ruleCfg (cellar.val + 1) slot) (fun s => s.ruleCfgWrite (cellar.val + 1) slot v.toNat (2 ^ 64 - 1))

/-- Writes of UPD_RULE_PROG and UPD_RULE_P (slot n), and of UPD_PROG (no slot), are refused while a pass runs or the slot is
enabled (R378). -/
def State.ruleLocked (s : State) (d : Nat) (slot : Option Nat) : Bool :=
  s.passBusy d || (match slot with | some n => s.ruleEn d n | none => false)

/-! ### Update commands (R355) -/

/-- A pass of a command's bytes. -/
def parsePass (bs : List Byte) : Pass :=
  { step := fieldAt bs 0 8, lr := BitVec.ofNat 32 (fieldAt bs 8 4), ssq := BitVec.ofNat 32 (fieldAt bs 12 4),
    dist := (fieldAt bs 16 4).testBit 0, items := fieldAt bs 20 4, table := fieldAt bs 24 8, report := fieldAt bs 32 8,
    repcap := fieldAt bs 40 4 }

/-- A reserved value in an update command. -/
def commandReserved (bs : List Byte) : Bool :=
  let p := parsePass bs
  p.step == 0 || decide (2 ^ 63 ≤ p.step) || decide (2 ≤ fieldAt bs 16 4) || p.items == 0 || decide (1048576 < p.items) ||
  p.table % 128 != 0 || p.report % 8 != 0 || (bs.drop 44).take 16 != List.replicate 16 0

/-- A command arrives at a sequencer: the pass runs, is queued, or is refused. -/
def State.updateCommand (s : State) (d : Nat) (bs : List Byte) : State :=
  let x := s.cellar d
  let ok := bs.length == 64 && fieldAt bs 60 4 == check32c (bs.take 60) x.cmds
  let s := s.setCellar d { x with cmds := x.cmds + 1 }
  if !ok || commandReserved bs || x.queued.isSome || s.fld (Reg.updCtrl d) 1 1 == 1 then s.updFault d 0x310 0 0
  else
    let p := parsePass bs
    let x := s.cellar d
    s.setCellar d (if x.running.isSome then { x with queued := some p } else { x with running := some p })

/-! ### Items (R347, R352, R353) -/

/-- Bytes of a record in a format; MX components use the state-page layout. -/
def recBytes (fmt : Nat) : Nat := if fmt = 10 then 128 else if fmt = 4 ∨ fmt = 5 then 33 else 64

/-- Where record k of an item lies in a component, from the item's first byte of it: dense, or by the groups of its 64 KiB. -/
def recAt (fmt va k : Nat) : Nat :=
  if fmt = 4 ∨ fmt = 5 then
    let g0 := va % 65536 / 132
    let n := g0 + k / 4
    65536 * (n / 496) + 132 * (n % 496) - 132 * g0
  else k * recBytes fmt

/-- The format of component c of a slot. -/
def State.compFmt (s : State) (d n c : Nat) : Nat :=
  match c with
  | 1 => s.ruleGfmt d n
  | 2 => s.ruleWfmt d n
  | 3 => s.ruleMfmt d n
  | 4 => s.ruleVfmt d n
  | _ => s.ruleDfmt d n

/-- Bytes an item covers of component c. -/
def State.compLen (s : State) (d : Nat) (i : Item) (c va : Nat) : Nat :=
  match c with
  | 0 => (i.fbit + i.records + 7) / 8
  | 5 => s.ruleAux d i.rule * ((i.records + 31) / 32)
  | _ =>
    let f := s.compFmt d i.rule c
    recAt f va (i.records - 1) + (if f = 4 ∨ f = 5 then 132 else recBytes f)

def parseComp (bs : List Byte) (c : Nat) : Option (Nat × Nat) :=
  let a := fieldAt bs (16 + 16 * c) 8
  let va := fieldAt bs (24 + 16 * c) 8
  if a = 0 ∧ va = 0 then none else some (if a.testBit 40 then t2Base + a % 2 ^ 40 else a % 2 ^ 40, va % 2 ^ 47)

def parseItem (bs : List Byte) : Item :=
  { records := fieldAt bs 0 2, rule := byteAt bs 2 % 16, key := byteAt bs 3 % 32, first := fieldAt bs 4 4, fbit := byteAt bs 8,
    comps := (List.range 7).map (parseComp bs) }

/-- A reserved field of an item is not zero, or a value lies outside its range. -/
def itemReserved (bs : List Byte) : Bool :=
  let i := parseItem bs
  decide (16 ≤ byteAt bs 2) || decide (32 ≤ byteAt bs 3) || (bs.drop 9).take 3 != [0, 0, 0] || i.key == 0 || i.records == 0 ||
  decide (16384 < i.records) || decide (8 ≤ i.fbit) ||
  (List.range 7).any (fun c => decide (2 ^ 41 ≤ fieldAt bs (16 + 16 * c) 8) || decide (2 ^ 47 ≤ fieldAt bs (24 + 16 * c) 8))

/-- The size of the translation page of va in the space of the job whose pages have a key slot; 2 MiB, the largest, where no table
gives it (R314; log entry 49). -/
def State.pageSize (s : State) (key va : Nat) : Nat :=
  match s.jobs.find? (fun j => j.2.keySlot == key) with
  | some j => match s.leafAt j.1 va with
    | some (_, _, _, false) => 0x10000
    | _ => 0x200000
  | none => 0x200000

/-- A component of an item: whether it is present exactly where the slot uses it, and lies in one translation page within the tier's
capacity. -/
def State.compOk (s : State) (d : Nat) (i : Item) (c : Nat) : Bool :=
  match (i.comps[c]?).join with
  | none => !s.ruleUses d i.rule c
  | some (off, va) =>
    let n := s.compLen d i c va
    let page := s.pageSize i.key va
    let cap := if off < t2Base then tier1Cap else t2Base + s.tier2Cap d
    s.ruleUses d i.rule c && decide (off + n ≤ cap) && (off / page == (off + n - 1) / page) && (va / page == (va + n - 1) / page)

/-- Is item number k the last of its shard: the next of the array does not go on from it? -/
def State.lastOfShard (s : State) (d : Nat) (p : Pass) (k : Nat) (i : Item) : Bool :=
  k + 1 == p.items || fieldAt (s.supRead d (p.table + 128 * (k + 1)) 8) 4 4 != i.first + i.records

/-- Item k of a pass, where it passes its check. -/
def State.readItem (s : State) (d : Nat) (p : Pass) (k : Nat) : Option Item :=
  let a := p.table + 128 * k
  let bs := s.supRead d a 128
  let i := parseItem bs
  if fieldAt bs 12 4 = check32c (bs.take 12 ++ bs.drop 16) a ∧ !itemReserved bs ∧ s.ruleEn d i.rule ∧ i.first % 32 = 0 ∧
      (i.records % 32 = 0 ∨ s.lastOfShard d p k i) ∧ (List.range 7).all (s.compOk d i) then some i
  else none

/-! ### Passes (R355 to R357, R361) -/

/-- Order of report entries: by block index, lhs before rhs. -/
def insEntry (x : Nat × Nat) : List (Nat × Nat) → List (Nat × Nat)
  | [] => [x]
  | y :: ys => if x.1 < y.1 ∨ (x.1 = y.1 ∧ x.2 ≤ y.2) then x :: y :: ys else y :: insEntry x ys

/-- The notice that all D bytes of item num are written: what the all-gather of its range waits for (R361). -/
def State.itemNotice (s : State) (d num : Nat) (i : Item) (p : Pass) : List Nat :=
  let dc := ((i.comps[6]?).join).getD (0, 0)
  [0x3610, d, num, i.first, i.records, dc.1, s.ruleDfmt d i.rule, dc.2, p.table]

/-- The notices of a pass that a non-finite SSQ skips: every good item's D stands unchanged, and the all-gather sends it (R357). -/
def State.skipNotices (s : State) (d : Nat) (p : Pass) : List (List Nat) :=
  (List.range p.items).filterMap (fun k => (s.readItem d p k).map (fun i => s.itemNotice d k i p))

/-- The running pass ends: its report is written, its notice posted (status 0 done, 1 failed, 2 non-finite; the entries the report area
holds, and the count of all), and a queued pass takes its place. -/
def State.endPass (s : State) (d status : Nat) : State :=
  let x := s.cellar d
  match x.running with
  | none => s
  | some p =>
    let entries := p.floored.foldl (fun l e => insEntry e l) []
    let bytes := (entries.take p.repcap).flatMap (fun e => leBytes 8 (e.1 + e.2 * 2 ^ 32))
    let s := s.supWrite d p.report bytes
    let s := s.setFld (Reg.updCounts d) 48 16 (min (s.fld (Reg.updCounts d) 48 16 + entries.length) 65535)
    let s := s.setFld (Reg.seqStatus d) 32 32 (s.fld (Reg.seqStatus d) 32 32 + 1)
    let s := { s with notices := s.notices ++ (if status = 2 then s.skipNotices d p else []) ++
      [[0x361, d, status, p.refused, entries.length, p.step, boolNat p.dist, p.table] ++
        (entries.take p.repcap).map (fun (e : Nat × Nat) => e.1 + e.2 * 2 ^ 32)] }
    s.setCellar d { s.cellar d with running := x.queued, queued := none }

/-! ### Records -/

/-- Bytes at rel of component c of an item (R317). -/
def State.compRead (s : State) (d : Nat) (i : Item) (c rel n : Nat) : List Byte :=
  match (i.comps[c]?).join with
  | none => []
  | some (off, va) => s.physRead d (off + rel) (s.keyAt d i.key) ((va + rel) / 512) n

def State.compWrite (s : State) (d : Nat) (i : Item) (c rel : Nat) (bs : List Byte) : State :=
  match (i.comps[c]?).join with
  | none => s
  | some (off, va) => s.physWrite d (off + rel) (s.keyAt d i.key) ((va + rel) / 512) bs

def Item.va (i : Item) (c : Nat) : Nat := (((i.comps[c]?).join).map (·.2)).getD 0

/-- Is record k frozen (R350)? -/
def State.frozen (s : State) (d : Nat) (i : Item) (k : Nat) : Bool :=
  s.ruleFrz d i.rule && (byteAt (s.compRead d i 0 ((i.fbit + k) / 8) 1) 0).testBit ((i.fbit + k) % 8)

/-- Component c of record k widened, +0 where the slot does not use it (R359). -/
def State.loadRec (s : State) (d : Nat) (i : Item) (c k : Nat) : Lanes :=
  let f := s.compFmt d i.rule c
  let at' := recAt f (i.va c) k
  if !s.ruleUses d i.rule c then splat 0
  else if f = 4 ∨ f = 5 then
    let sc := byteAt (s.compRead d i c (at' + k % 4) 1) 0
    (s.compRead d i c (at' + 4 + 32 * (k % 4)) 32).map (fun b => widen f b.toNat (some (e8m0 sc)))
  else
    let n := recBytes f / 32
    let bs := s.compRead d i c at' (recBytes f)
    (List.range 32).map (fun j => widen f (fieldAt bs (n * j) n) none)

/-- The seed of R360 for a record's block index b at step t. -/
def recSeed (seed t b : Nat) : W64 :=
  BitVec.ofNat 64 seed ^^^ BitVec.ofNat 64 (t * 0x9E3779B97F4A7C15 % 2 ^ 64) ^^^ BitVec.ofNat 64 (b * 0xD1B54A32D192ED03 % 2 ^ 64)

/-- The draws of W, M, V, D (0 to 3) of record k at step t: 32 for each whose SR bit is set, in that order, from the record's seed; and the
generator's state after them. -/
def State.recDraws (s : State) (d : Nat) (i : Item) (t k c : Nat) : W64 × Option (List Nat) :=
  let sr := s.ruleSr d i.rule c
  let before := 32 * ((List.range c).filter (s.ruleSr d i.rule)).length
  let all := drawList (recSeed (s.regN (Reg.updSeed d)) t (i.first + k)) (before + (if sr then 32 else 0))
  (all.1, if sr then some (all.2.drop before) else none)

/-- Does a stored weight of this format hold a NaN or an infinity (R372)? -/
def weightOdd (f bits : Nat) : Bool :=
  let w := widen f bits none
  isNan32 w || isInf32 w

/-- Engine e stores component c (2 W, 3 M, 4 V, 6 D) of record k (R348, R360, R372): its generator has drawn for it and for the components
before it. -/
def State.storeRec (s : State) (d e : Nat) (i : Item) (t c k : Nat) (x : Lanes) : State :=
  if !s.ruleUses d i.rule c then s
  else
    let f := s.compFmt d i.rule c
    let at' := recAt f (i.va c) k
    let dr := s.recDraws d i t k (if c = 6 then 3 else c - 2)
    let us := dr.2
    let s := s.setCve d e { s.cve d e with gen := dr.1 }
    if f = 4 ∨ f = 5 then
      let b := blockOut f (x.map (fun w => (w, true))) (fun m => rndOf us m)
      let s := s.compWrite d i c (at' + k % 4) (leBytes 1 b.1)
      s.compWrite d i c (at' + 4 + 32 * (k % 4)) (b.2.flatMap (fun e => leBytes 1 (e.getD 0)))
    else
      let l := x.mapIdx (fun j w => vstLane f (rndOf us j) w)
      let s := s.updFlag d (l.foldl (fun a y => a ||| (y.2 &&& 4)) 0 + (if c = 2 ∧ l.any (fun y => weightOdd f y.1) then 8 else 0))
      s.compWrite d i c at' (l.flatMap (fun y => leBytes (recBytes f / 32) y.1))

/-- The bytes of record k in a component: of an MX record its scale byte and its 32 data bytes (R347). -/
def recParts (fmt va k : Nat) : List (Nat × Nat) :=
  let a := recAt fmt va k
  if fmt = 4 ∨ fmt = 5 then [(a + k % 4, 1), (a + 4 + 32 * (k % 4), 32)] else [(a, recBytes fmt)]

/-- Does a channel that bytes rel to rel + n - 1 of a used component lie in stand down (R362)? -/
def State.compDown (s : State) (d : Nat) (i : Item) (c rel n : Nat) : Bool :=
  match (i.comps[c]?).join with
  | none => false
  | some (off, _) => s.ruleUses d i.rule c && n != 0 && s.chanDown d (off + rel) n

/-- The same of the frozen bit of record k, of some components of record k, and of the AUX of its group. -/
def State.frzDown (s : State) (d : Nat) (i : Item) (k : Nat) : Bool := s.compDown d i 0 ((i.fbit + k) / 8) 1
def State.recDown (s : State) (d : Nat) (i : Item) (cs : List Nat) (k : Nat) : Bool :=
  cs.any (fun c => (recParts (s.compFmt d i.rule c) (i.va c) k).any (fun p => s.compDown d i c p.1 p.2))
def State.auxDown (s : State) (d : Nat) (i : Item) (k : Nat) : Bool :=
  s.compDown d i 5 (s.ruleAux d i.rule * (k / 32)) (s.ruleAux d i.rule)

/-- What the update of record k reads and writes. -/
def recComps : List Nat := [1, 2, 3, 4, 6]

/-- Does a retrain hold a channel that the bytes of records k to k + n - 1 of some components lie in (R325)? -/
def State.runHeld (s : State) (d : Nat) (i : Item) (cs : List Nat) (k n : Nat) : Bool :=
  cs.any (fun c =>
    match (i.comps[c]?).join with
    | none => false
    | some (off, va) =>
      let f := s.compFmt d i.rule c
      let lo := if c = 0 then (i.fbit + k) / 8 else if c = 5 then s.ruleAux d i.rule * (k / 32) else recAt f va k
      let hi := if c = 0 then (i.fbit + k + n + 7) / 8 else if c = 5 then s.ruleAux d i.rule * ((k + n + 31) / 32)
        else recAt f va (k + n - 1) + (if f = 4 ∨ f = 5 then 132 else recBytes f)
      s.ruleUses d i.rule c && s.chanHeld d (off + lo) (hi - lo))

/-- The parameter file of a slot in the running pass. -/
def State.paramFile (s : State) (d n : Nat) (p : Pass) (r j : Nat) : W32 :=
  if j = 0 then p.lr
  else if j ≤ 5 then Tab.get (fun _ => 0) p.scalars (8 * n + j)
  else if j = 6 then 0
  else if j = 7 then BitVec.ofNat 32 r
  else s.ruleParam d n j

/-! ### Runs and items finished -/

/-- Item num fails at record k (R362): it is counted once, no run of it goes on, and the rest of it is not processed. -/
def State.failItem (s : State) (d num k : Nat) : State :=
  let s := s.updFault d 0x312 num k
  let s := s.bump (Reg.updCounts d) 32 16
  let ofItem := fun (v : Cve) => v.run.any (fun r => r.num == num)
  let s := (List.range 16).foldl (fun t e => if ofItem (t.cve d e) then t.setCve d e { t.cve d e with run := none } else t) s
  s.mapPass d (fun p => { p with
    refused := p.refused + 1, failed := num :: p.failed, live := Tab.set (fun _ => 0) p.live num 0,
    cur := match p.cur with
      | some (n, i, r) => if n = num then none else some (n, i, r)
      | none => none })

/-- A run of item num is finished: with the last of them its D bytes are all written, and the item notice is posted. -/
def State.endRun (s : State) (d num : Nat) (i : Item) : State :=
  match (s.cellar d).running with
  | none => s
  | some p =>
    let left := Tab.get (fun _ => 0) p.live num - 1
    let s := s.mapPass d (fun p => { p with live := Tab.set (fun _ => 0) p.live num left })
    let splitting := match p.cur with
      | some (n, _, _) => n == num
      | none => false
    if left = 0 ∧ !splitting ∧ !p.failed.contains num then { s with notices := s.notices ++ [s.itemNotice d num i p] } else s

def State.countRecords (s : State) (d n : Nat) : State :=
  s.setFld (Reg.updCounts d) 0 32 (min (s.fld (Reg.updCounts d) 0 32 + n) (2 ^ 32 - 1))

/-- Records k to k + n - 1 of a distribution-only pass (R351): W to D; the first whose W or D lies in a down channel stops it. -/
def State.distRecords (s : State) (d e : Nat) (i : Item) (p : Pass) : Nat → Nat → State × Option Nat
  | 0, _ => (s, none)
  | n + 1, k =>
    if s.recDown d i [2, 6] k then (s, some k)
    else (s.storeRec d e i p.step 6 k (s.loadRec d i 2 k)).distRecords d e i p n (k + 1)

/-- Store W, M and V of record k (R359). -/
def State.storeState (s : State) (d e : Nat) (i : Item) (t k : Nat) (w m v : Lanes) : State :=
  ((s.storeRec d e i t 2 k w).storeRec d e i t 3 k m).storeRec d e i t 4 k v

/-- One record of a rule without groups (R359). -/
def State.plainRecord (s : State) (d e : Nat) (i : Item) (p : Pass) (k : Nat) : State :=
  let P := s.paramFile d i.rule p 0
  let g := s.loadRec d i 1 k
  let w := s.loadRec d i 2 k
  let m := s.loadRec d i 3 k
  let v := s.loadRec d i 4 k
  let rule := match s.ruleKind d i.rule with
    | 0 => ruleMomentum P g w m v
    | 1 => ruleAdaptive P g w m v
    | _ => ruleSign P g w m v
  let r := rule 0
  let s := s.updFlag d r.2
  ((s.storeState d e i p.step k r.1.1 r.1.2.1 r.1.2.2).storeRec d e i p.step 6 k r.1.1).countRecords d 1

def State.plainRecords (s : State) (d e : Nat) (i : Item) (p : Pass) : Nat → Nat → State × Option Nat
  | 0, _ => (s, none)
  | n + 1, k =>
    if s.frzDown d i k then (s, some k)
    else if s.frozen d i k then s.plainRecords d e i p n (k + 1)
    else if s.recDown d i recComps k then (s, some k)
    else (s.plainRecord d e i p k).plainRecords d e i p n (k + 1)

/-- The AUX words of a group. -/
def State.loadAux (s : State) (d : Nat) (i : Item) (k : Nat) : Lanes :=
  words32 (s.compRead d i 5 (s.ruleAux d i.rule * (k / 32)) (s.ruleAux d i.rule))

/-- One group of a built-in group rule: records k to k + n - 1 (R359, R368, R369). -/
def State.builtinGroup (s : State) (d e : Nat) (i : Item) (p : Pass) (k n : Nat) : State :=
  let live := fun (r : Nat) => decide (r < n) && !s.frozen d i (k + r)
  let P := s.paramFile d i.rule p 0
  let gg := (List.range 32).map (fun r => if live r then s.loadRec d i 1 (k + r) else splat 0)
  let kind := s.ruleKind d i.rule
  let pre := (if kind = 3 then factoredPre P gg (s.loadAux d i k) else precondPre P gg (s.loadAux d i k)) 0
  let x := pre.1
  let s := s.updFlag d pre.2
  let s := ((List.range 32).filter live).foldl (fun (t : State) r =>
    let w := t.loadRec d i 2 (k + r)
    let m := t.loadRec d i 3 (k + r)
    let v := t.loadRec d i 4 (k + r)
    let y := (if kind = 3 then factoredRec P (t.ruleUses d i.rule 3) x r w m v else precondRec P x r w m v) 0
    let t := t.updFlag d y.2
    ((t.storeState d e i p.step (k + r) y.1.1 y.1.2.1 y.1.2.2).storeRec d e i p.step 6 (k + r) y.1.1).countRecords d 1) s
  let s := s.compWrite d i 5 (s.ruleAux d i.rule * (k / 32)) (x.aux.flatMap (fun w => leBytes 4 w.toNat))
  s.mapPass d (fun p => { p with
    floored := p.floored ++ (if x.flooredL then [(i.first + k, 0)] else []) ++ (if x.flooredR then [(i.first + k, 1)] else []) })

/-- The record of the group of records k to k + n - 1 at which a down channel stops the run, if one does: k where a frozen bit cannot be read, else
the first that is not frozen, before any of the group is stored (R362; log entry 49). -/
def State.groupDown (s : State) (d : Nat) (i : Item) (k n : Nat) : Option Nat :=
  if (List.range n).any (fun r => s.frzDown d i (k + r)) then some k
  else
    let live := (List.range n).filter (fun r => !s.frozen d i (k + r))
    if s.auxDown d i k ∨ live.any (fun r => s.recDown d i recComps (k + r)) then live.head?.map (k + ·) else none

def State.builtinGroups (s : State) (d e : Nat) (i : Item) (p : Pass) (stop : Nat) : Nat → Nat → State × Option Nat
  | 0, _ => (s, none)
  | n + 1, k =>
    let m := min 32 (stop - k)
    match s.groupDown d i k m with
    | some r => (s, some r)
    | none =>
      if (List.range m).all (fun r => s.frozen d i (k + r)) then s.builtinGroups d e i p stop n (k + 32)
      else (s.builtinGroup d e i p k m).builtinGroups d e i p stop n (k + 32)

/-! ### Custom rules: the flow of R359 around the programs -/

def Cve.reg (v : Cve) (n : Nat) : Lanes := (List.range 32).map (fun i => Tab.get (fun _ => 0) v.k (32 * n + i))
def Cve.setReg (v : Cve) (n : Nat) (x : Lanes) : Cve := { v with k := Tab.setRange (fun _ => 0) v.k (32 * n) x }

/-- Records of the run's present group. -/
def State.groupSize (s : State) (d : Nat) (r : CveRun) : Nat := if s.ruleGroup d r.item.rule then min 32 (r.count - r.group) else 1

/-- The record that runs, counted in the item. -/
def CveRun.now (r : CveRun) : Nat := r.first + r.group + r.r

/-- The next unfrozen record of the group from record j on. -/
def State.nextRecord (s : State) (d : Nat) (r : CveRun) (j : Nat) : Option Nat :=
  ((List.range (s.groupSize d r)).drop j).find? (fun n => !s.frozen d r.item (r.first + r.group + n))

/-- Begin record j of the group: its inputs are loaded and REC runs. -/
def State.beginRecord (s : State) (d e : Nat) (r : CveRun) (j : Nat) : State :=
  let v := s.cve d e
  let i := r.item
  let k := r.first + r.group + j
  let g := if s.ruleGroup d i.rule then v.reg (32 + j) else s.loadRec d i 1 k
  let v := ((((v.setReg 0 g).setReg 1 (s.loadRec d i 2 k)).setReg 2 (s.loadRec d i 3 k)).setReg 3 (s.loadRec d i 4 k)).setReg 4
    ((List.range 32).map (BitVec.ofNat 32))
  s.setCve d e { v with run := some { r with r := j, phase := 1 }, pc := s.entry d i.rule 1 }

/-- Begin the run's next group from record pos of the run, n groups at most: frozen groups are passed over, a down channel fails the item, and
after the last the engine is free. Every register and scratch word that the flow does not set reads +0, so that no value depends on what the
engine ran before (R345, R358, R359; log entry 49). -/
def State.beginGroup (s : State) (d e : Nat) (r : CveRun) : Nat → Nat → State
  | 0, _ => (s.setCve d e { s.cve d e with run := none }).endRun d r.num r.item
  | n + 1, pos =>
    let grp := s.ruleGroup d r.item.rule
    let r := { r with group := pos, r := 0 }
    let size := s.groupSize d r
    let k := r.first + pos
    if r.count ≤ pos then (s.setCve d e { s.cve d e with run := none }).endRun d r.num r.item
    else match s.groupDown d r.item k size with
      | some k => (s.setCve d e { s.cve d e with run := none }).failItem d r.num k
      | none => match s.nextRecord d r 0 with
        | none => s.beginGroup d e r n (pos + (if grp then 32 else 1))
        | some j =>
          let v := { s.cve d e with k := [], scratch := [] }
          if !grp then (s.setCve d e v).beginRecord d e r j
          else
            let gg := fun (q : Nat) => if q < size ∧ !s.frozen d r.item (k + q) then s.loadRec d r.item 1 (k + q) else splat 0
            let v := (List.range 32).foldl (fun (v : Cve) q => v.setReg (32 + q) (gg q)) v
            let v := { v with scratch := Tab.setRange (fun _ => 0) [] 0 (s.loadAux d r.item k) }
            let s := s.setCve d e v
            if s.entry d r.item.rule 0 = 0x7FF then s.beginRecord d e r j
            else s.setCve d e { v with run := some { r with phase := 0 }, pc := s.entry d r.item.rule 0 }

/-- The group ends: D of each unfrozen record and AUX are stored, and the next group begins. A channel that has gone down fails the item at the
first record whose D it keeps. -/
def State.finishGroup (s : State) (d e : Nat) (r : CveRun) (t : Nat) : State :=
  let v := s.cve d e
  let k := r.first + r.group
  let live := (List.range (s.groupSize d r)).filter (fun q => !s.frozen d r.item (k + q))
  let bad := if s.auxDown d r.item k then live.head? else live.find? (fun q => s.recDown d r.item [6] (k + q))
  let good := match bad with
    | some b => live.filter (· < b)
    | none => live
  let s := good.foldl (fun (u : State) q => u.storeRec d e r.item t 6 (k + q) (v.reg (32 + q))) s
  match bad with
  | some b => s.failItem d r.num (k + b)
  | none =>
    let words := (List.range (s.ruleAux d r.item.rule / 4)).map (fun j => Tab.get (fun _ => (0 : W32)) v.scratch j)
    let s := s.compWrite d r.item 5 (s.ruleAux d r.item.rule * (k / 32)) (words.flatMap (fun w => leBytes 4 w.toNat))
    s.beginGroup d e r 513 (r.group + 32)

/-- END (R359, R375): what follows the entry point that ran. -/
def State.cveEnd (s : State) (d e : Nat) (r : CveRun) (t : Nat) : State :=
  let grp := s.ruleGroup d r.item.rule
  let go := fun (u : State) (j : Nat) =>
    match u.nextRecord d r j with
    | some q => u.beginRecord d e r q
    | none =>
      if u.entry d r.item.rule 2 = 0x7FF then u.finishGroup d e r t
      else u.setCve d e { u.cve d e with run := some { r with phase := 2 }, pc := u.entry d r.item.rule 2 }
  match r.phase with
  | 0 => go s 0
  | 1 =>
    let v := s.cve d e
    let k := r.now
    if s.recDown d r.item (if grp then [2, 3, 4] else [2, 3, 4, 6]) k then s.failItem d r.num k
    else
      let s := (s.storeState d e r.item t k (v.reg 1) (v.reg 2) (v.reg 3)).countRecords d 1
      if grp then go (s.setCve d e ((s.cve d e).setReg (32 + r.r) (v.reg 1))) (r.r + 1)
      else (s.storeRec d e r.item t 6 k (v.reg 1)).beginGroup d e r 513 (r.group + 1)
  | _ => s.finishGroup d e r t

/-! ### CVE_RUN (R358) -/

/-- Item number k of the running pass is refused. -/
def State.refuseItem (s : State) (d k : Nat) : State :=
  let s := s.updFault d 0x311 k 0
  let s := s.bump (Reg.updCounts d) 32 16
  s.mapPass d (fun p => { p with refused := p.refused + 1, next := k + 1 })

/-- Take items until one passes its checks; n bounds them. -/
def State.nextItem (s : State) (d : Nat) : Nat → State
  | 0 => s
  | n + 1 =>
    match (s.cellar d).running with
    | none => s
    | some p =>
      if p.cur.isSome ∨ p.items ≤ p.next then s
      else match s.readItem d p p.next with
        | some i => s.mapPass d (fun p => { p with cur := some (p.next, i, 0), next := p.next + 1 })
        | none => (s.refuseItem d p.next).nextItem d n

/-- Process a run of an item at once: a distribution-only pass or a built-in rule. -/
def State.runAtOnce (s : State) (d e num : Nat) (i : Item) (p : Pass) (first n : Nat) : State :=
  let r := if p.dist then s.distRecords d e i p n first
    else if s.ruleGroup d i.rule then s.builtinGroups d e i p (first + n) ((n + 31) / 32) first
    else s.plainRecords d e i p n first
  match r.2 with
  | none => r.1.endRun d num i
  | some k => r.1.failItem d num k

/-- A free, good engine takes the next run. -/
def State.takeRun (s : State) (d e : Nat) : State :=
  match (s.cellar d).running with
  | none => s
  | some p =>
    match p.cur with
    | none => s
    | some (num, i, at') =>
      let n := min 512 (i.records - at')
      let last := at' + n == i.records
      let s := s.mapPass d (fun p => { p with
        cur := if last then none else some (num, i, at' + n), live := Tab.set (fun _ => 0) p.live num (Tab.get (fun _ => 0) p.live num + 1) })
      if p.dist ∨ s.ruleKind d i.rule ≠ 5 then s.runAtOnce d e num i p at' n
      else s.beginGroup d e { item := i, num := num, first := at', count := n } 513 0

/-- Must the next run wait for a channel that a retrain holds: one of the item array, of the next item's bytes or of the run's (R362)? -/
def State.runWaits (s : State) (d : Nat) (p : Pass) : Bool :=
  match p.cur with
  | some (_, i, at') => s.runHeld d i (if p.dist then [2, 6] else [0, 1, 2, 3, 4, 5, 6]) at' (min 512 (i.records - at'))
  | none => decide (p.next < p.items) && s.chanHeld d (p.table + 128 * p.next) (128 * (p.items - p.next))

def execCveRun (cellar : Fin 4) (e : Fin 16) (s : State) : Out :=
  let d := cellar.val + 1
  match (s.cellar d).running with
  | none => .next s
  | some p =>
    if s.stopped ∨ !p.started ∨ (s.cve d e).run.isSome ∨ s.fld (Reg.engOk d) e 1 = 0 ∨ s.runWaits d p then .next s
    else
      let t := s.nextItem d (p.items - p.next)
      if (t.cellar d).running.any (fun p => t.runWaits d p) then .next t else .next (t.takeRun d e)

/-! ### Instructions of custom rules (R373, R374) -/

/-- The encoding of R373. -/
def encCve (op : Nat) (i : CveI) : Nat :=
  op + i.d.toNat * 2 ^ 8 + i.a.toNat * 2 ^ 14 + i.b.toNat * 2 ^ 20 + i.c.toNat * 2 ^ 26 + i.bp.toNat * 2 ^ 32 + i.cp.toNat * 2 ^ 33 +
    i.soff.toNat * 2 ^ 34 + i.xr.toNat * 2 ^ 48 + i.sub.toNat * 2 ^ 49 + i.rsvd.toNat * 2 ^ 53

/-- The engine's next instruction is this one: its run and the pass. A supervisor fault stops every engine (R544). -/
def State.cveAt (s : State) (d e op : Nat) (i : CveI) : Option (CveRun × Pass) :=
  match (s.cve d e).run, (s.cellar d).running with
  | some r, some p => if !s.stopped ∧ s.regN (Reg.updProg d (s.cve d e).pc) = encCve op i then some (r, p) else none
  | _, _ => none

/-- Operands B and C: a register, or a parameter in every lane. -/
def State.cveOperand (s : State) (d e : Nat) (r : CveRun) (p : Pass) (param : BitVec 1) (f : BitVec 6) : Lanes :=
  if param = 1 then splat (s.paramFile d r.item.rule p r.r (f.toNat % 32)) else (s.cve d e).reg f.toNat

/-- An instruction from registers to a register. -/
def State.cveCompute (s : State) (cellar : Fin 4) (e : Fin 16) (op : Nat) (i : CveI) (f : Lanes → Lanes → Lanes → Lanes × Nat) : Out :=
  let d := cellar.val + 1
  match s.cveAt d e op i with
  | none => .next s
  | some (r, p) =>
    let v := s.cve d e
    let x := f (v.reg i.a.toNat) (s.cveOperand d e r p i.bp i.b) (s.cveOperand d e r p i.cp i.c)
    .next ((s.setCve d e { v.setReg i.d.toNat x.1 with pc := v.pc + 1 }).updFlag d x.2)

/-- Lane by lane. -/
def State.cveLanes (s : State) (cellar : Fin 4) (e : Fin 16) (op : Nat) (i : CveI) : Out :=
  s.cveCompute cellar e op i (fun a b c =>
    let l := (List.range 32).map (fun j => cveLane op i.sub.toNat (laneOf a j) (laneOf b j) (laneOf c j))
    (l.map (·.1), l.foldl (fun f x => f ||| x.2) 0))

def execCveAdd (cellar : Fin 4) (e : Fin 16) (i : CveI) (s : State) : Out := s.cveLanes cellar e 0x01 i
def execCveSub (cellar : Fin 4) (e : Fin 16) (i : CveI) (s : State) : Out := s.cveLanes cellar e 0x02 i
def execCveMul (cellar : Fin 4) (e : Fin 16) (i : CveI) (s : State) : Out := s.cveLanes cellar e 0x03 i
def execCveFma (cellar : Fin 4) (e : Fin 16) (i : CveI) (s : State) : Out := s.cveLanes cellar e 0x04 i
def execCveFnma (cellar : Fin 4) (e : Fin 16) (i : CveI) (s : State) : Out := s.cveLanes cellar e 0x05 i
def execCveMin (cellar : Fin 4) (e : Fin 16) (i : CveI) (s : State) : Out := s.cveLanes cellar e 0x06 i
def execCveMax (cellar : Fin 4) (e : Fin 16) (i : CveI) (s : State) : Out := s.cveLanes cellar e 0x07 i
def execCveAbs (cellar : Fin 4) (e : Fin 16) (i : CveI) (s : State) : Out := s.cveLanes cellar e 0x08 i
def execCveNeg (cellar : Fin 4) (e : Fin 16) (i : CveI) (s : State) : Out := s.cveLanes cellar e 0x09 i
def execCveSgn (cellar : Fin 4) (e : Fin 16) (i : CveI) (s : State) : Out := s.cveLanes cellar e 0x0A i
def execCveSqrt (cellar : Fin 4) (e : Fin 16) (i : CveI) (s : State) : Out := s.cveLanes cellar e 0x0B i
def execCveRsqrt (cellar : Fin 4) (e : Fin 16) (i : CveI) (s : State) : Out := s.cveLanes cellar e 0x0C i
def execCveRcp (cellar : Fin 4) (e : Fin 16) (i : CveI) (s : State) : Out := s.cveLanes cellar e 0x0D i
def execCveCmp (cellar : Fin 4) (e : Fin 16) (i : CveI) (s : State) : Out := s.cveLanes cellar e 0x0E i
def execCveSel (cellar : Fin 4) (e : Fin 16) (i : CveI) (s : State) : Out := s.cveLanes cellar e 0x0F i
def execCveMov (cellar : Fin 4) (e : Fin 16) (i : CveI) (s : State) : Out := s.cveLanes cellar e 0x14 i

def execCveSum (cellar : Fin 4) (e : Fin 16) (i : CveI) (s : State) : Out :=
  s.cveCompute cellar e 0x10 i (fun a _ _ => let r := sum32 a 0; (splat r.1, r.2))

def execCveBcast (cellar : Fin 4) (e : Fin 16) (i : CveI) (s : State) : Out :=
  s.cveCompute cellar e 0x11 i (fun a _ _ => (splat (laneOf a (i.b.toNat % 32)), 0))

/-- The scratch word of lane 0. -/
def scratchAt (i : CveI) (r : CveRun) : Nat := i.soff.toNat + (if i.xr = 1 then 32 * r.r else 0)

def execCveLds (cellar : Fin 4) (e : Fin 16) (i : CveI) (s : State) : Out :=
  let d := cellar.val + 1
  match s.cveAt d e 0x12 i with
  | none => .next s
  | some (r, _) =>
    let v := s.cve d e
    let x := (List.range 32).map (fun j => Tab.get (fun _ => (0 : W32)) v.scratch (scratchAt i r + j))
    .next (s.setCve d e { v.setReg i.d.toNat x with pc := v.pc + 1 })

def execCveSts (cellar : Fin 4) (e : Fin 16) (i : CveI) (s : State) : Out :=
  let d := cellar.val + 1
  match s.cveAt d e 0x13 i with
  | none => .next s
  | some (r, _) =>
    let v := s.cve d e
    .next (s.setCve d e { v with scratch := Tab.setRange (fun _ => 0) v.scratch (scratchAt i r) (v.reg i.a.toNat), pc := v.pc + 1 })

def execCveEnd (cellar : Fin 4) (e : Fin 16) (i : CveI) (s : State) : Out :=
  let d := cellar.val + 1
  match s.cveAt d e 0x3F i with
  | none => .next s
  | some (r, p) =>
    if s.runHeld d r.item [0, 1, 2, 3, 4, 5, 6] (r.first + r.group) (r.count - r.group) then .next s else .next (s.cveEnd d e r p.step)

end Sys2Proof.Machine
end

