-- ==== Sys2Proof/Machine/Moves.lean ====
section
/-! DEFINITION. Page moves (R322, R354), and what begins and ends them: a page is unmapped and invalidated, its ciphertext copied, the page mapped
and its waiters resumed; a page that an item of a pass names waits for the pass. -/
namespace Sys2Proof.Machine

/-- A fill that the supervisor makes. -/
def State.supFill (s : State) (space peg : Nat) : State :=
  { s with pegs := { s.pegs with fills := s.pegs.fills ++ [⟨peg, space, s.unitPkg, none, none⟩] } }

/-- The components of an item that lie in the page of n bytes at va. -/
def State.compsIn (s : State) (d : Nat) (i : Item) (va n : Nat) : List Nat :=
  (List.range 7).filter (fun c =>
    match (i.comps[c]?).join with
    | none => false
    | some (_, a) => decide (a < va + n ∧ va < a + max 1 (s.compLen d i c a)))

/-- Does an item of a pass name the page of n bytes at va of the job whose pages have a key slot (R354)? -/
def State.passNames (s : State) (d : Nat) (p : Pass) (key va n : Nat) : Bool :=
  (List.range p.items).any (fun k =>
    let i := parseItem (s.supRead d (p.table + 128 * k) 128)
    i.key == key && !(s.compsIn d i va n).isEmpty)

/-- The key slot of a space's pages; 0 where it has no job. -/
def State.spaceKey (s : State) (space : Nat) : Nat := ((s.jobs.find? (fun j => j.1 == space)).map (·.2.keySlot)).getD 0

/-- Is a page named by an item of a running or queued pass? -/
def State.pageNamed (s : State) (space va n : Nat) : Bool :=
  [1, 2, 3, 4].any (fun d =>
    (s.cellar d).running.any (fun p => s.passNames d p (s.spaceKey space) va n) ||
    (s.cellar d).queued.any (fun p => s.passNames d p (s.spaceKey space) va n))

def pageBytes (big : Bool) : Nat := if big then 0x200000 else 0x10000

/-- The physical tier offset of a frame. -/
def frameOff (tier frame : Nat) : Nat := (if tier = 0 then 0 else t2Base) + frame * 65536

/-- Step 1 of R322: the leaf's P is cleared and a MEM_INVAL of its region begins. -/
def State.beginMove (s : State) (m : PageMove) : State :=
  match s.leafAt m.space m.va with
  | none => s
  | some (die, off, e, _) =>
    let s := s.putPte die off (withBits e 0 1 0)
    let s := s.setRegN Reg.memInval (m.space + m.va / 0x200000 * 2 ^ 32 + 2 ^ 63)
    { s with sup := { s.sup with moves := s.sup.moves.map (fun x => if x = m then { x with begun := true } else x) } }

/-- May a move begin now: its page is mapped by tables, and no pass names it? -/
def State.canMove (s : State) (m : PageMove) : Bool :=
  match s.leafAt m.space m.va with
  | none => false
  | some (_, _, _, big) => !s.pageNamed m.space (m.va / pageBytes big * pageBytes big) (pageBytes big)

/-- The first move that may begin does so, once no invalidation runs. -/
def State.beginMoves (s : State) : State :=
  if s.fld Reg.memInval 63 1 = 1 then s
  else match s.sup.moves.find? (fun m => !m.begun && s.canMove m) with
    | some m => s.beginMove m
    | none => s

/-- The bytes of an update item after a page of a job moved: its components in the page name the new frame. One that no longer lies on the item's
own cellar die is named no more. -/
def State.movedItem (s : State) (d a : Nat) (m : PageMove) (va n : Nat) : List Byte :=
  let bs := s.supRead d a 128
  let i := parseItem bs
  let entry := fun (c : Nat) =>
    let v := fieldAt bs (24 + 16 * c) 8
    if m.cellar + 1 = d then leBytes 8 (m.frame * 65536 + (v - va) + m.tier * 2 ^ 40) ++ leBytes 8 v else leBytes 16 0
  let body := (List.range 7).flatMap (fun c =>
    if (s.compsIn d i va n).contains c then entry c else (bs.drop (16 + 16 * c)).take 16)
  let head := bs.take 12
  head ++ leBytes 4 (check32c (head ++ body) a) ++ body

/-- The supervisor rewrites every item of the job that names the moved page (R354). -/
def State.rewriteItems (s : State) (m : PageMove) (va n : Nat) : State :=
  match s.jobs.find? (fun j => j.1 == m.space) with
  | none => s
  | some j => j.2.tables.foldl (fun t x =>
      (List.range x.2.2).foldl (fun u k =>
        let a := x.2.1 + 128 * k
        let i := parseItem (u.supRead x.1 a 128)
        if i.key = j.2.keySlot ∧ !(u.compsIn x.1 i va n).isEmpty then u.supWrite x.1 a (u.movedItem x.1 a m va n) else u) t) s

/-- Steps 2 to 4 of R322, the invalidation complete: the ciphertext is copied, the leaf written with the new frame, the items that name the page
rewritten, and what waits on the page resumed; with the last page of a placement request its reply peg is filled (R490). -/
def State.finishMove (s : State) (m : PageMove) : State :=
  let s := { s with sup := { s.sup with moves := s.sup.moves.erase m } }
  let s := match s.leafAt m.space m.va with
    | none => s
    | some (die, off, e, big) =>
      let n := pageBytes big
      let va := m.va / n * n
      let old := (bitsOf e 4 2 + 1, frameOff (bitsOf e 6 1) (bitsOf e 16 24))
      let new := (m.cellar + 1, frameOff m.tier m.frame)
      let s := if old = new then s else s.copyCipher (cellarKey old.1 old.2) (cellarKey new.1 new.2) n
      let e := withBits (withBits (withBits (withBits e 0 1 1) 4 2 m.cellar) 6 1 m.tier) 16 24 m.frame
      (((s.putPte die off e).rewriteItems m va n).resumePage m.space va n)
  match m.place with
  | some (peg, q) => if s.sup.moves.any (fun x => x.space == m.space && x.place == some (peg, q)) then s else s.supFill m.space peg
  | none => s

/-- Does a retrain hold a channel that the copy of the move under way reads or writes (R325)? -/
def State.copyHeld (s : State) : Bool :=
  s.sup.moves.any (fun m => m.begun &&
    (match s.leafAt m.space m.va with
     | none => false
     | some (_, _, e, big) => s.chanHeld (bitsOf e 4 2 + 1) (frameOff (bitsOf e 6 1) (bitsOf e 16 24)) (pageBytes big) ||
         s.chanHeld (m.cellar + 1) (frameOff m.tier m.frame) (pageBytes big)))

def execMemInvalDone (s : State) : Out :=
  let r := Reg.memInval
  let space := s.fld r 0 4
  let all := s.fld r 4 1 == 1
  let region := s.fld r 32 26
  if s.fld r 63 1 = 1 ∧ !s.inRegion space all region ∧ !s.copyHeld then
    let s := (s.dropCached space all region).setFld r 63 1 0
    .next (((s.sup.moves.filter (·.begun)).foldl (fun t m => t.finishMove m) s).beginMoves)
  else .next s

/-- The supervisor takes the request to move the page of va (R322): one move of a page at a time, and a 2 MiB frame is a multiple of 32. -/
def State.askMove (s : State) (m : PageMove) : State :=
  match s.leafAt m.space m.va with
  | none => s
  | some (_, _, _, big) =>
    let same := fun (x : PageMove) => x.space == m.space && x.va / pageBytes big == m.va / pageBytes big
    if (big ∧ m.frame % 32 ≠ 0) ∨ s.sup.moves.any same then s
    else { s with sup := { s.sup with moves := s.sup.moves ++ [m] } }

def execPageMove (space : Fin 16) (va : BitVec 47) (cellar : Fin 4) (tier : Fin 2) (frame : BitVec 24) (s : State) : Out :=
  .next (s.askMove ⟨space, va.toNat, cellar, tier, frame.toNat, false, none⟩).beginMoves

/-! ### Passes begin and complete (R356, R357, R361) -/

/-- The pass begins: its scalars, or its end where SSQ is not finite. -/
def execPassStart (cellar : Fin 4) (s : State) : Out :=
  let d := cellar.val + 1
  match (s.cellar d).running with
  | none => .next s
  | some p =>
    if p.started then .next s
    else if !p.dist ∧ (isNan32 p.ssq ∨ isInf32 p.ssq) then
      let s := s.updFault d 0x313 0 0
      let s := if s.fld (Reg.updCtrl d) 0 1 = 1 then s.setFld (Reg.updCtrl d) 1 1 1 else s
      .next ((s.endPass d 2).beginMoves)
    else
      let cmax := BitVec.ofNat 32 (s.fld (Reg.updClip d) 0 32)
      let of := fun (n : Nat) => if s.ruleEn d n
        then passScalars p.step p.lr p.ssq cmax (s.ruleParam d n 8) (s.ruleParam d n 9) (s.ruleParam d n 11) (s.ruleParam d n 16) else []
      let sc := (List.range 16).foldl (fun (t : Tab W32) n => Tab.setRange (fun _ => 0) t (8 * n + 1) (of n)) []
      .next (s.mapPass d (fun p => { p with started := true, scalars := sc }))

/-- Every run of the pass is finished and every item taken: it completes, once no retrain holds the report area. -/
def execPassComplete (cellar : Fin 4) (s : State) : Out :=
  let d := cellar.val + 1
  match (s.cellar d).running with
  | none => .next s
  | some p =>
    if p.started ∧ p.cur.isNone ∧ p.next = p.items ∧ (List.range 16).all (fun e => (s.cve d e).run.isNone) ∧
        !s.chanHeld d p.report (8 * p.repcap) then
      .next ((s.endPass d (if p.refused = 0 then 0 else 1)).beginMoves)
    else .next s

end Sys2Proof.Machine
end

