-- ==== Sys2Proof/Machine/Fill.lean ====
section
/-! DEFINITION. Peg fills at the peg unit (R261, R272, R273). -/
namespace Sys2Proof.Machine

/-- Does the partition that holds peg p run the fill's job? -/
def State.fillAllowed (s : State) (f : Fill) : Bool :=
  if 16 ≤ f.space then f.space - 16 == f.peg / 16384 else s.partitionRuns (f.peg / 16384) f.space

/-- A refused fill: the sender's stream is aborted with the group as its first undelivered tiles. -/
def State.refuseFill (s : State) (f : Fill) (cause : Nat) : State :=
  match f.src with
  | none =>
    match f.back with
    | none => s
    | some (src, sdie, tag, addr) => s.refuse src sdie tag addr cause
  | some (c, slot, g) =>
    let m := s.strm c slot
    let s := s.setStrm c slot { m with fills := m.fills - 1, done := min m.done g }
    s.stopAt c slot ⟨min m.done g, true, 0x183, cause, m.d.pegPkg⟩

/-- An acknowledged fill. -/
def State.ackFill (s : State) (f : Fill) (applied : Bool) : State :=
  match f.src with
  | none =>
    match f.back with
    | none => s
    | some (src, sdie, tag, addr) => s.ack src sdie tag addr 0
  | some (c, slot, _) =>
    let m := s.strm c slot
    let m := if applied then { m with filled := m.filled + 1 } else { m with fills := m.fills - 1 }
    (s.setStrm c slot m).settle c slot

/-- The word after a fill, and whether it overfills a binary peg. -/
def pegFilled (w : W64) : W64 × Bool :=
  if pegMode w = 0 then
    let full := pegFull w
    let w := pegWith w 0 32 ((pegArrivals w + 1) % 2 ^ 32)
    (pegSetFull (if full then pegWith w 48 1 1 else w) true, full)
  else (pegCount w ((pegArrivals w + 1) % 2 ^ 32), false)

/-- A fill at its peg unit (R272); ok: whether it is applied or dropped rather than refused. -/
def State.applyFill (s : State) (f : Fill) : State :=
  let p := f.peg
  if !s.fillAllowed f then (s.attempt 0 0x703 2 (s.unitDie 0)).refuseFill f 3
  else
    let s := s.pegScreen p
    let w := s.pegWord p
    if pegState w = 2 then (s.bump (Reg.pegDrops (p / 4096)) 0 32).ackFill f false
    else if pegState w = 1 then s.refuseFill f 4
    else
      let r := pegFilled w
      let s := if r.2 then (s.bump (Reg.pegOverfills (p / 4096)) 0 32).record 0 0x214 2 (s.unitCluster (p / 4096)) p f.unit.toNat 0 0 else s
      (s.setPeg p r.1 3).ackFill f true

/-- The oldest fill on its way to a peg reaches its peg unit. -/
def execPegFill (peg : BitVec 16) (s : State) : Out :=
  match s.pegs.fills.find? (fun f => f.peg == peg.toNat) with
  | none => .next s
  | some f => if !s.pegFree f.peg then .next s else .next (({ s with pegs := { s.pegs with fills := s.pegs.fills.erase f } }).applyFill f)

end Sys2Proof.Machine
end

