-- ==== Sys2Proof/Machine/Ports.lean ====
section
/-! DEFINITION. Fabric ports: frames received (R389 to R391), the link-state map and its notices (R395, R412), width, loss and retraining
(R383, R410 to R416), forwarding (R396), and the time base (R417 to R422). -/
namespace Sys2Proof.Machine

/-! ### The link-state map (R395, R412) -/

/-- The master this package follows (R418, R422), and whether a path to a master exists in the map. -/
def State.masterOf (s : State) (backup : Bool) : Nat := if backup then s.fld Reg.timMaster 16 13 else s.fld Reg.timMaster 0 13
def State.onBackup (s : State) : Bool := s.fld Reg.timStatus 2 1 == 1
def State.pathTo (s : State) (m : Nat) : Bool := m == s.pkg || (s.route m s.pkg).isSome

/-- Keep, since when there has been no path to the master followed and to the primary. -/
def State.refreshPath (s : State) : State :=
  let keep := fun (old : Option Nat) (ok : Bool) => if ok then none else if old.isSome then old else some s.ns
  let reach := fun (j : Job) => j.root == s.pkg || (s.route s.pkg j.root).isSome
  let jobs := s.jobs.map (fun j => (j.1, { j.2 with noRoute := keep j.2.noRoute (reach j.2) }))
  let tim := { s.tim with
    noPath := keep s.tim.noPath (s.pathTo (s.masterOf s.onBackup)), noPrimary := keep s.tim.noPrimary (s.pathTo (s.masterOf false)) }
  { s with jobs := jobs, tim := tim }

/-- Mark port g of package n in the map of both guyline dies. -/
def State.mark (s : State) (n g : Nat) (down : Bool) : State :=
  let m := Tab.set (fun _ => false) s.linkMap (8 * n + g) down
  let s := { s with linkMap := m }
  ((s.setFld (Reg.mapStatus 5) 0 32 m.length).setFld (Reg.mapStatus 6) 0 32 m.length).refreshPath

/-- Send a notice on every up port but one (R412): the link partner of the port is its destination. -/
def State.sendNotice (s : State) (n g : Nat) (down : Bool) (seq except : Nat) : State :=
  (List.range 8).foldl (fun t x =>
    if x != except && (t.portState x == 2 || t.portState x == 6) then
      let peer := t.fld (Reg.portStatus x) 16 13
      let pay := leBytes 16 (Config.linkNotice n g down seq) ++ List.replicate 44 0
      let h : Head :=
        { dst := peer, ddie := guyDie x, src := t.pkg, sdie := guyDie x, typ := 9, len := 16,
          route := if x % 2 = 1 then 2 ^ (x / 2) else 0 }
      t.forward { bytes := h.packet (pay ++ leBytes 4 (check32c pay (ctlFold 0 t.pkg peer))) }
    else t) s

/-- The link manager's notice of its own port's new state. -/
def State.ownNotice (s : State) (g : Nat) (down : Bool) : State :=
  let p := s.port g
  let s := s.setPort g { p with notices := p.notices + 1 }
  (s.mark s.pkg g down).sendNotice s.pkg g down (p.notices + 1) g

/-! ### Reduction channels and their fall-back (R446) -/

namespace Reg
/-- The registers of channel c lie on its home die. -/
def redDie (c : Nat) : Nat := 5 + c % 2
def red (c : Nat) : Nat := guy (redDie c) + 0x40000 + 0x40 * c
end Reg

def State.chanField (s : State) (c lo len : Nat) : Nat := s.fld (Reg.red c) lo len
def State.chanEn (s : State) (c : Nat) : Bool := s.chanField c 0 1 == 1

/-- The fall-back cores named on a channel's home die. -/
def State.fbCores (s : State) (c : Nat) : Nat := s.regN (Reg.guy (Reg.redDie c) + 0x41000)

/-- Has a home die no use: is it under reset or not trained again, or do all its ports that are up run narrower than x4? -/
def State.homeUnusable (s : State) (die : Nat) : Bool :=
  let up := ((List.range 8).filter (fun g => guyDie g == die)).filter s.portTakes
  s.guyOpen.contains die || (!up.isEmpty && up.all (fun g => s.portWidth g != 0))

/-- The supervisor sets FB of every channel homed on a die that has no use, where fall-back cores are named (R446). -/
def State.setFallBack (s : State) (die : Nat) : State :=
  if !s.homeUnusable die then s
  else ((List.range 64).filter (fun c => Reg.redDie c == die && s.chanEn c && s.fbCores c != 0)).foldl (fun t c => t.setFld (Reg.red c) 5 1 1) s

/-! ### Widths (R383) and loss (R410, R411) -/

/-- The widest width code of a set of good lanes: 0 ×4, 1 ×2, 2 ×1, 3 none. -/
def widthOf (lanes : Nat) : Nat :=
  if lanes % 16 = 15 then 0 else if lanes % 4 = 3 ∨ lanes / 4 % 4 = 3 then 1 else if lanes % 16 = 0 then 3 else 2

/-- The lanes a port uses at a width, of a set of good lanes (R383). -/
def lanesAt (lanes w : Nat) : Nat :=
  match w with
  | 0 => 15
  | 1 => if lanes % 4 = 3 then 3 else 12
  | 2 => if lanes.testBit 0 then 1 else if lanes.testBit 1 then 2 else if lanes.testBit 2 then 4 else 8
  | _ => 0

def State.minWidth (s : State) (g : Nat) : Nat := s.fld (Reg.portCfg g) 2 2

/-- A port fault's record at its guyline die (R532). -/
def State.portFault (s : State) (g code d1 d2 d3 : Nat) : State :=
  s.record (guyDie g) code 2 (s.unitDie (guyDie g)) g d1 d2 d3

/-- Drop everything queued or unacknowledged at a port (R411): requests are answered with NAK reason 2. -/
def State.dropPort (s : State) (g : Nat) : State :=
  let p := s.port g
  let s := s.setPort g { p with txq := [], begun := [], unacked := [], sent := 0 }
  p.txq.foldl (fun t k => t.blocked g k) s

/-- Is the SerDes reference clock of port g's die lost (R618)? -/
def State.refLost (s : State) (g : Nat) : Bool := if guyDie g = 5 then s.pins.lostA else s.pins.lostB

/-- Is port g used at all (R382)? -/
def State.portUsed (s : State) (g : Nat) : Bool := s.fld (Reg.portCfg g) 0 1 == 1 && s.dim (g / 2) != 1

/-- A training attempt begins. -/
def State.trainPort (s : State) (g : Nat) : State :=
  let s := (s.setFld (Reg.portStatus g) 0 3 1).setFld (Reg.portCtrl g) 5 1 1
  s.setPort g { s.port g with since := s.ns, lanes := some 0 }

/-- A retrain of port g begins (R415): a lane retrain narrows to the other pair first; a port retrain is announced and the port
drains for 20 µs. A port that is down trains. -/
def State.startRetrain (s : State) (g lanes : Nat) : State :=
  let lane := (lanes % 4 != 0 && lanes / 4 % 4 == 0) || (lanes % 4 == 0 && lanes / 4 % 4 != 0)
  let other := if lanes % 4 = 0 then 3 else 12
  let st := s.portState g
  if !s.portUsed g || (st == 0 && !s.guyOpen.contains (guyDie g)) || st == 1 then s
  else if st = 0 ∨ st = 4 ∨ st = 5 then s.trainPort g
  else
    let s := s.setFld (Reg.portCtrl g) 5 1 1
    if lane && s.fld (Reg.portStatus g) 6 4 &&& other == other && decide (1 ≤ s.minWidth g) then
      let s := (s.setFld (Reg.portStatus g) 6 4 (s.fld (Reg.portStatus g) 6 4 &&& other)).setFld (Reg.portStatus g) 0 3 3
      s.setPort g { s.port g with since := s.ns, lanes := some lanes }
    else
      let s := s.setPort g { s.port g with since := s.ns, lanes := some 0 }
      s.ownNotice g true

/-- A kept GO starts. -/
def State.startKept (s : State) (g : Nat) : State :=
  match (s.port g).kept with
  | some l => ((s.setFld (Reg.portCtrl g) 4 1 0).setPort g { s.port g with kept := none }).startRetrain g l
  | none => s

/-- A port goes down. A retrain under way ends with it, and a GO kept meanwhile starts. -/
def State.portDown (s : State) (g : Nat) : State :=
  let w := s.portWidth g
  let s := ((s.setFld (Reg.portStatus g) 0 3 4).setFld (Reg.portStatus g) 3 2 3).bump (Reg.portStatus g) 32 32
  let s := s.setFld (Reg.portCtrl g) 5 1 0
  let s := s.setPort g { s.port g with since := s.ns, lanes := none, used := 0 }
  let s := s.portFault g 0x601 w 3 0
  ((s.ownNotice g true).dropPort g).startKept g

/-- Back in the map or still held out of it: the up state a port returns to. -/
def State.upState (s : State) (g : Nat) : Nat := if s.isDown s.pkg g then 6 else 2

/-! ### Frames received -/

/-- FACK and NAK of an accepted frame: acknowledged frames are dropped, and a NAK sends the rest again. -/
def Port.acked (p : Port) (fack now : Nat) : Port :=
  match p.unacked with
  | [] => p
  | f :: _ =>
    let k := (fack + 1025 - f.seq) % 1024
    if 0 < k ∧ k ≤ p.unacked.length then { p with unacked := p.unacked.drop k, sent := p.sent - k, ackAt := now } else p

/-- Resend every unacknowledged frame, or put the port down where the oldest has been resent 8 times (R390). -/
def State.replay (s : State) (g : Nat) : State :=
  let p := s.port g
  match p.unacked with
  | [] => s
  | f :: _ =>
    if 8 ≤ f.resends then (s.portFault g 0x603 (s.portWidth g) 3 0).portDown g
    else s.setPort g { p with sent := 0, ackAt := s.ns }

/-- A frame the receiver does not accept. -/
def Port.discard (p : Port) : Port := if p.lost then p else { p with lost := true, nak := true }

/-- A frame arrives on port g: its codewords' corrected and uncorrectable counts, and its 2,056 bytes. -/
def execFrameReceive (g : Fin 8) (corrected uncorrectable : Nat) (bs : List (BitVec 8)) (s : State) : Out :=
  if !s.portTakes g ∨ bs.length ≠ 2056 then .next s
  else
    let sat := fun (t : State) (lo n : Nat) => t.setFld (Reg.portErrA g) lo 32 (min (t.fld (Reg.portErrA g) lo 32 + n) (2 ^ 32 - 1))
    let s := sat (sat s 0 corrected) 32 uncorrectable
    let t := fieldAt bs 2048 8
    let crcOk := bitsOf t 0 32 == crc32 (bs.take 2048 ++ (bs.drop 2052).take 4)
    let s := if crcOk then s else s.bump (Reg.portErrB g) 0 32
    let p := s.port g
    let idle := t.testBit 63
    if !crcOk ∨ uncorrectable ≠ 0 ∨ (!idle ∧ bitsOf t 32 10 ≠ p.rxNext) then .next (s.setPort g p.discard)
    else
      let p := if idle then p else
        let vc := bitsOf t 53 2
        { p with rx := p.rx ++ bs.take 2048, rxAt := p.rxAt ++ List.replicate 32 s.time, rxNext := (p.rxNext + 1) % 1024, lost := false,
                 credit := Tab.set (fun _ => 256) p.credit vc (p.creditOf vc + bitsOf t 55 8) }
      let s := s.setPort g (p.acked (bitsOf t 42 10) s.ns)
      .next (if t.testBit 52 then s.replay g else s)

def execReplayTimeout (g : Fin 8) (s : State) : Out :=
  let p := s.port g
  if (s.portState g = 2 ∨ s.portState g = 6) ∧ p.unacked ≠ [] ∧ p.ackAt + 4000 ≤ s.ns then .next (s.replay g) else .next s

/-- The router takes the next packet of port g's accepted flits. An unused flit position is passed over (R393). -/
def execPacketForward (g : Fin 8) (s : State) : Out :=
  let p := s.port g
  if p.rx.length < 64 then .next s
  else
    let k : Pkt := { bytes := p.rx, gin := g }
    if k.typ = 0 then .next (s.setPort g { p with rx := p.rx.drop 64, rxAt := p.rxAt.drop 1 })
    else
      let n := 64 * k.flits
      if p.rx.length < n then .next s
      else
        let k := { k with bytes := p.rx.take n, stamp := (p.rxAt[k.flits - 1]?).getD 0 }
        let s := s.setPort g { p with rx := p.rx.drop n, rxAt := p.rxAt.drop k.flits, owed := Tab.set (fun _ => 0) p.owed k.vc (p.owes k.vc + k.flits) }
        .next ((s.dieCount (24 + g) k.payload.length).forward k)

/-! ### Packets delivered here -/

/-- The n-th packet of a type in the inbox, and the state without it. -/
def State.takePkt (s : State) (typ n : Nat) : Option (Pkt × State) :=
  ((s.inbox.filter (fun p => p.typ == typ))[n]?).map (fun p => (p, { s with inbox := s.inbox.erase p }))

/-- Count a failed check at a guyline die (R548). -/
def State.guyCheck (s : State) (die k : Nat) : State := s.bump (Reg.guy die + 0x90100 + 4 * k) 0 32

/-- The guyline die that delivered the packet. -/
def Pkt.home (p : Pkt) : Nat := guyDie (p.gin % 8)

/-- The header check, and for the types of R550 the control-payload check, of a delivered packet; a failure is recorded and
answered with NAK reason 3 (R551). -/
def State.checked (s : State) (p : Pkt) : Option State :=
  let fail := fun (t : State) => if p.typ = 5 ∨ p.typ = 6 ∨ p.typ = 4 ∨ p.typ = 9 then t else t.nak p p.home 3 [0]
  if !p.checkOk then some (fail ((s.guyCheck p.home 9).record p.home 0x613 2 (s.unitDie p.home) 0 0 0 0))
  else if ctlChecked p.typ then
    let area := (s.clear p ++ (p.bytes.drop (32 + p.len))).take 64
    let want := check32c (area.take 60) (ctlFold p.tag p.src p.dst)
    let found := fieldAt area 60 4
    if want = found then none
    else some (fail ((s.guyCheck p.home 10).record p.home 0x0C1 2 (s.unitDie p.home) 10 p.tag want found))
  else none

/-- A LINKSTATE notice: what its payload names and says. A newer one is applied and forwarded, an older one discarded. -/
def execLinkstate (n : Nat) (pkg : BitVec 13) (g : Fin 8) (down : Bool) (seq : Nat) (s : State) : Out :=
  match s.takePkt 9 n with
  | none => .next s
  | some (p, t) =>
    match t.checked p with
    | some u => .next u
    | none =>
      let k := 8 * pkg.toNat + g
      if seq < Tab.get (fun _ => 0) t.lsSeen k ∨ pkg.toNat = t.pkg then .next t
      else
        let t := { t with lsSeen := Tab.set (fun _ => 0) t.lsSeen k (seq + 1) }
        let t := t.mark pkg.toNat g down
        let t := [5, 6].foldl (fun (u : State) d => u.setFld (Reg.mapStatus d) 32 32 (u.fld (Reg.mapStatus d) 32 32 + 1)) t
        .next (t.sendNotice pkg.toNat g down seq p.gin)

/-! ### Port events -/

/-- Lanes of port g are no longer good (R410): where one in use is among them, the port narrows if the rest allows a narrower width, else it goes
down. -/
def execPortLossOfLock (g : Fin 8) (good : BitVec 4) (s : State) : Out :=
  if s.portTakes g then
    let s := s.setFld (Reg.portStatus g) 6 4 good.toNat
    let w := max (widthOf good.toNat) (s.portWidth g + 1)
    if (s.port g).used &&& good.toNat = (s.port g).used ∧ s.portState g ≠ 3 then .next s
    else if 3 ≤ w ∨ s.minWidth g < w then .next (s.portDown g)
    else .next ((s.setFld (Reg.portStatus g) 0 3 3).setPort g { s.port g with since := s.ns })
  else .next s

/-- Both ends run at a narrower width, and every unacknowledged frame is sent again. -/
def execPortNarrowDone (g : Fin 8) (width : Fin 4) (s : State) : Out :=
  if s.portState g = 3 then
    let before := s.portWidth g
    let good := s.fld (Reg.portStatus g) 6 4
    let w := max width.val (widthOf good)
    if w = 3 ∨ s.minWidth g < w then .next (s.portDown g)
    else
      let s := (s.setFld (Reg.portStatus g) 0 3 (s.upState g)).setFld (Reg.portStatus g) 3 2 w
      let s := s.setPort g { s.port g with sent := 0, ackAt := s.ns, used := lanesAt good w, cwVal := 0, cwLen := 0, cwLane := 0 }
      .next ((s.portFault g 0x602 before w 0).setFallBack (guyDie g))
  else .next s

def execPortNarrowTimeout (g : Fin 8) (s : State) : Out :=
  if s.portState g = 3 ∧ (s.port g).since + 1000000 ≤ s.ns then .next (s.portDown g) else .next s

/-- A port held out of the map for 1 ms is marked up (R412). -/
def execPortUpHoldExpire (g : Fin 8) (s : State) : Out :=
  if s.portState g = 6 ∧ (s.port g).since + 1000000 ≤ s.ns then
    .next ((s.setFld (Reg.portStatus g) 0 3 2).ownNotice g false)
  else .next s

def execPortAutoRetry (g : Fin 8) (s : State) : Out :=
  if s.portState g = 4 ∧ s.fld (Reg.portCfg g) 4 1 = 1 ∧ s.portUsed g ∧ s.fld (Reg.portCtrl g) 5 1 = 0 ∧
      (s.port g).since + 100000000 ≤ s.ns then .next (s.trainPort g)
  else .next s

/-- A write to GUY_PORT_CTRL: LANES, and GO, which is kept while a retrain runs. -/
def State.portCtrlWrite (s : State) (g v : Nat) : State :=
  let s := s.setFld (Reg.portCtrl g) 0 4 (bitsOf v 0 4)
  if !v.testBit 4 then s
  else if s.fld (Reg.portCtrl g) 5 1 = 1 then (s.setFld (Reg.portCtrl g) 4 1 1).setPort g { s.port g with kept := some (bitsOf v 0 4) }
  else s.startRetrain g (bitsOf v 0 4)

/-- A GO by a write to GUY_PORT_CTRL, or with no path by the link partner, which asks for the retrain it makes itself (R415). The port asks its
partner for every retrain it starts by a write: the notice 0x415 (the spec gives the message no form; log entry 101). -/
def execPortRetrain (g : Fin 8) (path : Option Path) (v : BitVec 32) (s : State) : Out :=
  match path with
  | some p => s.guarded p (Reg.portCtrl g) (fun s =>
      let t := s.portCtrlWrite g v.toNat
      if v.getLsbD 4 then { t with notices := t.notices ++ [[0x415, g.val, bitsOf v.toNat 0 4]] } else t)
  | none => .next (if s.fld (Reg.portCtrl g) 5 1 = 1 then s else s.startRetrain g (bitsOf v.toNat 0 4))

/-- A port retrain whose 20 µs have passed discards what remains and trains. -/
def State.portDrained (s : State) (g : Nat) : State :=
  if (s.portState g = 2 ∨ s.portState g = 6) ∧ (s.port g).lanes = some 0 ∧ (s.port g).since + 20000 ≤ s.ns then
    (s.setFld (Reg.portStatus g) 0 3 1).dropPort g
  else s

/-- The package that R380 implies on port g, and the port of it. -/
def State.partner (s : State) (g : Nat) : Nat :=
  let d := g / 2
  s.withCoord s.pkg d (hop (s.dim d) (g % 2 == 1) (s.coord s.pkg d))
def partnerPort (g : Nat) : Nat := if g % 2 = 0 then g + 1 else g - 1

/-- A training ended: the port comes up at the widest width allowed, is held (R21), or stays down. -/
def State.trained (s : State) (g lanes width peer peerG shape : Nat) (reversed : Bool) : State :=
  let st := Reg.portStatus g
  let w := if s.refLost g then 3 else max width (widthOf lanes)
  let s := (((s.setFld st 6 4 lanes).setFld st 10 1 (boolNat reversed)).setFld st 16 13 peer).setFld st 29 3 peerG
  let s := s.setFld st 5 1 (s.fld (Reg.portCfg g) 1 1)
  let s := s.setFld (Reg.portCtrl g) 5 1 0
  let p := s.port g
  let s := s.setPort g { notices := p.notices, kept := p.kept, depth := p.depth, flags := p.flags, since := s.ns, due := 100 * s.ns,
                         used := lanesAt lanes w }
  if w = 3 ∨ s.minWidth g < w then (s.setFld st 0 3 4).setFld st 3 2 3
  else if shape ≠ s.fld Reg.pkgId 16 16 ∨ peer ≠ s.partner g ∨ peerG ≠ partnerPort g then
    let s := (s.setFld st 0 3 5).setFld st 3 2 3
    if s.bu.ready then s.portFault g 0x611 3 3 peer else s.note 0x0A03 0x611 (s.unitDie (guyDie g)) g peer
  else (s.setFld st 0 3 (s.upState g)).setFld st 3 2 w

/-- A retrain of port g ends: its good lanes, the width both ends reach, lane order, and what the partner reported. -/
def execPortRetrainDone (g : Fin 8) (lanes : BitVec 4) (width : Fin 4) (reversed : Bool) (peer : BitVec 13) (peerG : Fin 8)
    (shape : BitVec 16) (s : State) : Out :=
  if s.portState g = 1 then .next ((s.trained g lanes.toNat width peer.toNat peerG shape.toNat reversed).startKept g)
  else if (s.port g).lanes.isSome ∧ (s.port g).lanes ≠ some 0 ∧ (s.portState g = 2 ∨ s.portState g = 6) then
    let s := (s.setFld (Reg.portStatus g) 6 4 lanes.toNat).setFld (Reg.portCtrl g) 5 1 0
    let s := s.setPort g { s.port g with lanes := none }
    let w := max width.val (widthOf lanes.toNat)
    if w = 3 ∨ s.minWidth g < w then .next (s.portDown g)
    else .next (((s.setFld (Reg.portStatus g) 3 2 w).setPort g
      { s.port g with used := lanesAt lanes.toNat w, cwVal := 0, cwLen := 0, cwLane := 0 }).startKept g)
  else .next s

/-! ### The time base -/

/-- The port of the parent (R419). -/
def State.parentPort (s : State) : Option Nat :=
  let m := s.masterOf s.onBackup
  let up := fun (g : Nat) => s.portTakes g
  let last := (s.route m s.pkg).bind (fun r =>
    (([3, 2, 1, 0].find? (fun d => s.coord m d != s.coord s.pkg d)).map (fun d => 2 * d + boolNat (!r.testBit d))))
  match last.filter up with
  | some g => some g
  | none => (List.range 8).foldl (fun best g =>
      if !up g then best
      else match best with
        | none => some g
        | some b => if (s.port g).depth < (s.port b).depth then some g else best) none

/-- Hops from the master. -/
def State.timDepth (s : State) : Nat := if s.masterOf s.onBackup = s.pkg then 0 else s.fld Reg.timStatus 3 5
def State.timLocked (s : State) : Bool := s.fld Reg.timStatus 0 2 == 2

/-- The payload of a SYNC on port g (R419). -/
def State.syncPayload (s : State) (g : Nat) : List Byte :=
  let p := s.port g
  leBytes 8 s.time.toNat ++ leBytes 8 p.syncPeer.toNat ++ leBytes 8 p.syncAt.toNat ++
    leBytes 1 (if s.fld Reg.timStatus 0 2 = 0 then 0xFF else s.timDepth) ++ leBytes 1 (boolNat s.onBackup + 2 * boolNat s.timLocked) ++
    List.replicate 38 0

def execSyncSend (g : Fin 8) (s : State) : Out :=
  if s.portTakes g ∧ (s.port g).syncNext ≤ s.ns then
    let peer := s.fld (Reg.portStatus g) 16 13
    let k : Pkt := { bytes := (({ dst := peer, ddie := guyDie g, src := s.pkg, sdie := guyDie g, typ := 0x20, len := 64 } : Head)).packet (s.syncPayload g) }
    .next (s.setPort g { s.port g with txq := (s.port g).txq ++ [k.onVc 2], syncNext := s.ns + 10000 })
  else .next s

/-- The difference of two time-base readings. -/
def timeDiff (a b : W64) : Int := signedOf ((a - b).toNat) 64

/-- A correction is to be slewed; with the time since the one before it, it gives the disciplined rate (R421, R422). -/
def State.correct (s : State) (ns : Int) : State :=
  { s with tim := { s.tim with slew := ns, rate := ns, rateSpan := s.ns - s.tim.ruledAt, ruledAt := s.ns } }

/-- Follow the parent: the step of R418 once four exchanges are made and the parent is locked, in step 11 alone; later a correction to slew. -/
def State.discipline (s : State) (g : Nat) (offset8 : Int) (parentLocked : Bool) (depth : Nat) : State :=
  let st := Reg.timStatus
  let s := ((s.setFld st 32 16 (offset8 % 65536).toNat).setFld st 8 3 g).setFld st 3 5 (min (depth + 1) 31)
  let ns := offset8 / 8
  let n := s.fld st 0 2
  if n = 1 then
    let k := s.tim.exchanges + 1
    if s.bu.step ≠ 11 ∨ s.bu.state ≠ 1 then s
    else if parentLocked ∧ 4 ≤ k then
      let s := { s with tim := { s.tim with exchanges := k } }
      if s.tim.stepped then (s.correct ns).setFld st 0 2 2
      else ({ s with time := s.time + BitVec.ofInt 64 ns, tim := { s.tim with stepped := true, ruledAt := s.ns } }).setFld st 0 2 2
    else { s with tim := { s.tim with exchanges := if parentLocked then k else 0 } }
  else if n = 2 then s.correct ns
  else if n = 3 ∧ parentLocked ∧ s.tim.noPath.isNone then (s.correct ns).setFld st 0 2 2
  else s

/-- A SYNC that came in: link delay and offset, and the parent's correction. -/
def execSync (n : Nat) (s : State) : Out :=
  match s.takePkt 0x20 n with
  | none => .next s
  | some (k, t) =>
    if !k.checkOk then .next ((t.guyCheck k.home 9).record k.home 0x613 2 (t.unitDie k.home) 0 0 0 0)
    else
      let g := k.gin % 8
      let w := fun (i : Nat) => BitVec.ofNat 64 (fieldAt k.payload i 8)
      let p := t.port g
      let depth := fieldAt k.payload 24 1
      let flags := fieldAt k.payload 25 1
      let t := t.setPort g { p with syncPeer := w 0, syncAt := k.stamp, depth := depth, flags := flags }
      if w 8 = 0 then .next t
      else
        let delay8 := (timeDiff k.stamp (w 8) - timeDiff (w 0) (w 16)) * 4
        let offset8 := (timeDiff (w 16) (w 8) + timeDiff (w 0) k.stamp) * 4
        let r := Reg.timLink g
        let t := (t.setFld r 0 32 (delay8 % 2 ^ 32).toNat).setFld r 32 32 (t.fld r 32 32 + 1)
        if t.masterOf t.onBackup ≠ t.pkg ∧ t.parentPort = some g ∧ depth ≠ 0xFF then
          .next (t.discipline g offset8 (flags.testBit 1) depth)
        else .next t

def execTimHoldover (s : State) : Out :=
  match s.tim.noPath with
  | none => .next s
  | some n =>
    if s.timLocked ∧ n + 100000 ≤ s.ns then
      .next ((s.setFld Reg.timStatus 0 2 3).record 0 0x621 2 (s.unitDie 0) 0 0 0 0)
    else .next s

/-- In holdover with no path to the primary for 1 ms the package follows the backup; the backup itself keeps its own time. -/
def execTimMasterLost (s : State) : Out :=
  match s.tim.noPrimary with
  | none => .next s
  | some n =>
    if s.fld Reg.timStatus 0 2 = 3 ∧ !s.onBackup ∧ n + 1000000 ≤ s.ns ∧ s.fld Reg.timMaster 31 1 = 1 ∧ s.pathTo (s.masterOf true) then
      let s := s.setFld Reg.timStatus 2 1 1
      let s := if s.masterOf true = s.pkg then
          (({ s with tim := { s.tim with slew := 0, rate := 0 } }).setFld Reg.timStatus 0 2 2).setFld Reg.timStatus 3 5 0
        else s
      .next ((s.record 0 0x622 2 (s.unitDie 0) 0 0 0 0).refreshPath)
    else .next s

end Sys2Proof.Machine
end

