-- ==== Sys2Proof/Machine/Remote.lean ====
section
/-! DEFINITION. WRITE, ADD and READ packets at their destination (R34, R254, R401, R404, R573), the tier accesses of remote requests,
and the requester's side of its memory requests (R402 to R405). -/
namespace Sys2Proof.Machine

/-! ### TAGs of memory requests (R394, R404) -/

/-- The newest stream of a stream slot at its destination, where it is held with the streams (no stream has epoch 63). -/
def slotKey (src tag : Nat) : Nat := (src * 1024 + tag % 1024) * 64 + 63

/-- Forget the streams that a job's sources have ended (R571: their TAGs may come again): all of them, or all but each slot's newest. -/
def State.dropTags (s : State) (space : Nat) (all : Bool) : State :=
  let newest := fun (k : Nat) => (Tab.get (fun _ => (0, 0)) s.conns (k / 64 * 64 + 63)).2 == k % 64
  { s with conns := s.conns.filter (fun x => x.1 % 64 == 63 || x.2.1 != space + 1 || (!all && newest x.1)) }

/-- Take a request's TAG (R404): none for one already taken, held or committed. A stream not seen in the key period ends the one before it of
its slot (R571; DESIGN CHOICE, log entry 100: how long a destination remembers a TAG). -/
def State.takeTag (s : State) (src tag space : Nat) : Option State :=
  let same := fun (r : InReq) => r.src == src && r.tag % 1024 == tag % 1024 && !tagCtl r.tag
  if tagCtl tag then
    if s.taken.contains (src, tag) then none
    else some { s with taken := (src, tag) :: s.taken.filter (fun x =>
      !(x.1 == src && tagCore x.2 == tagCore tag && !seqBefore (tagSeq x.2) (tagSeq tag))) }
  else
    let c := s.conn src tag
    if c.1 ≠ 0 then
      if seqBefore (tagSeq tag) c.2 ∨ s.inreqs.any (fun r => same r && r.tag == tag) then none else some s
    else
      let s := { s with inreqs := s.inreqs.filter (fun r => !same r) }.setConn src tag (space + 1, 0)
      some { s with conns := Tab.set (fun _ => (0, 0)) s.conns (slotKey src tag) (0, tagEpoch tag) }

/-! ### Checks at the destination -/

/-- The job whose guyline slot a packet names, by its space here; else the refusal (R573). -/
def State.packetJob (s : State) (p : Pkt) : Except State Nat :=
  match s.checked p with
  | some t => .error t
  | none =>
    if p.key = 0 ∨ s.guyKey p.home p.key = 0 then .error ((s.attempt p.home 0x705 3 (s.unitDie p.home)).nak p 0 4 (leBytes 4 3))
    else match s.jobs.find? (fun j => decide (j.2.fabric ≤ p.key ∧ p.key < j.2.fabric + 3)) with
      | some j => .ok j.1
      | none => .error ((s.attempt p.home 0x703 2 (s.unitDie p.home)).nak p 0 4 (leBytes 4 3))

/-- The global address a packet names here. -/
def State.packetAddr (s : State) (p : Pkt) : W64 := BitVec.ofNat 64 (s.pkg * 2 ^ 51 + p.ddie * 2 ^ 48 + p.addr)

/-- Is the target one of the job's on this package (R34), no store room for an ADD (R319), and the peg of its fill in one of its partitions
(R261)? -/
def State.targetOk (s : State) (p : Pkt) (space : Nat) : Bool :=
  (match s.window (s.packetAddr p) with
   | .store c _ => s.jobOfCore c == some space && p.typ != 2
   | .attic k _ => s.jobOfCluster k == some space
   | .tier _ => true
   | _ => false) && (!p.fill || s.partitionRuns (p.peg / 16384) space)

/-- The cluster whose translation unit serves a job's remote requests: its lowest. -/
def State.serveCluster (s : State) (space : Nat) : Nat :=
  ((List.range 16).find? (fun k => s.jobOfCluster k == some space)).getD 0

/-- The unit identifier word of the STR or control core that sent a request. -/
def senderUnit (src tag : Nat) : W32 :=
  let c := tagCore tag
  unitWord src 0 (c / 16) (c / 4 % 4) (c % 4) (if tagCtl tag then 5 else 4) 1

/-! ### Commit (R254, R260) -/

/-- A committed request leaves the hold; the fill it carries goes to its peg unit, which answers for it. -/
def State.committed (s : State) (r : InReq) : State :=
  let s := { s with inreqs := s.inreqs.erase r }
  let s := if tagCtl r.tag then s else s.setConn r.src r.tag ((s.conn r.src r.tag).1, (tagSeq r.tag + 1) % 65536)
  match r.fill with
  | some p => { s with pegs := { s.pegs with fills := s.pegs.fills ++ [⟨p, r.space, senderUnit r.src r.tag, none, some (r.src, r.sdie, r.tag, addrOff r.addr)⟩] } }
  | none => s

/-- Commits at once: on-die memory, or no bytes at all. -/
def State.direct (s : State) (r : InReq) : Bool := r.len == 0 || (s.window r.addr).onDie

/-- Commit every held request that is next of its stream and lies on the die; n bounds them. -/
def State.commitReady : Nat → State → State
  | 0, s => s
  | n + 1, s =>
    match s.inreqs.find? (fun r => r.kind != 3 && s.nextUp r && s.direct r) with
    | none => s
    | some r => State.commitReady n ((s.dieWrite (addrOff r.addr) (r.kind == 2) r.bytes).committed r)

/-- A WRITE or ADD packet at its destination: refused, a duplicate, or taken into memory or the commit hold. One that carries a
fill is answered by its peg unit. -/
def State.takeWrite (s : State) (p : Pkt) : State :=
  match s.packetJob p with
  | .error t => t
  | .ok space =>
    if !s.targetOk p space then (s.attempt 0 0x703 2 (s.unitDie 0)).nak p 0 4 (leBytes 4 3)
    else if s.windowInReset (s.window (s.packetAddr p)) then s.nak p 0 4 (leBytes 4 4)
    else match s.takeTag p.src p.tag space with
      | none => s.ackPkt p 0
      | some t =>
        let r : InReq :=
          { src := p.src, sdie := p.sdie, tag := p.tag, kind := p.typ, addr := t.packetAddr p, len := p.len, bytes := t.clear p,
            fill := if p.fill then some p.peg else none, space := space, cl := t.serveCluster space }
        let t := { t with inreqs := t.inreqs ++ [r] }
        let t := if p.fill then t else t.ackPkt p 0
        t.commitReady t.inreqs.length

def execWrite (n : Nat) (s : State) : Out :=
  match s.takePkt 1 n with
  | none => .next s
  | some (p, t) => .next (t.takeWrite p)

def execAdd (n : Nat) (s : State) : Out :=
  match s.takePkt 2 n with
  | none => .next s
  | some (p, t) => .next (t.takeWrite p)

/-- READ_DATA of a request, under the job's key of now. -/
def State.readData (s : State) (dst ddie tag addr space : Nat) (bs : List Byte) : State :=
  s.respond 0 { dst := dst, ddie := ddie, src := s.pkg, sdie := 0, typ := 4, len := bs.length, key := s.sendSlot (some space),
                addr := addr, tag := tag } bs

def execRead (n : Nat) (s : State) : Out :=
  match s.takePkt 3 n with
  | none => .next s
  | some (p, t) =>
    match t.packetJob p with
    | .error u => .next u
    | .ok space =>
      let a := t.packetAddr p
      if !t.targetOk p space then .next ((t.attempt 0 0x703 2 (t.unitDie 0)).nak p 0 4 (leBytes 4 3))
      else if t.windowInReset (t.window a) then .next (t.nak p 0 4 (leBytes 4 4))
      else if (t.window a).onDie then .next (t.readData p.src p.sdie p.tag p.addr space (t.rdBytes (addrOff a) p.len))
      else if t.inreqs.any (fun r => r.src == p.src && r.tag == p.tag) then .next t
      else
        let r : InReq := { src := p.src, sdie := p.sdie, tag := p.tag, kind := 3, addr := a, len := p.len, space := space, cl := t.serveCluster space }
        .next { t with inreqs := t.inreqs ++ [r] }

/-! ### Tier accesses of remote requests (R262, R313) -/

/-- The tile a stream's request carries bytes of, or whose fill it is. -/
def State.tileOf (s : State) (tag : Nat) : Option Nat :=
  let m := s.strm (tagCore tag) (tagSlot tag)
  match (s.str (tagCore tag)).xfers.find? (fun f => f.slot == tagSlot tag && f.seq == tagSeq tag) with
  | some f => some f.tile
  | none => (m.nulls.find? (fun n => n.1 == tagSeq tag)).map (·.2.2)

/-- Drop the requests of a stream's tiles from tile t on that are not answered: their transfers retire, and fill packets among them no longer
count. -/
def State.dropFrom (s : State) (c slot t : Nat) : State :=
  let m := s.strm c slot
  let of := fun (r : Req) => decide (r.kind ≤ 3) && !tagCtl r.tag && tagCore r.tag == c && tagSlot r.tag == slot && tagEpoch r.tag == m.epoch
  let s := { s with reqs := s.reqs.filter (fun r => !(of r && (s.tileOf r.tag).all (fun x => decide (t ≤ x)))) }
  let gone := m.nulls.filter (fun n => decide (t ≤ n.2.2))
  let y := s.str c
  s.setStr c { (y.setStrm slot { m with nulls := m.nulls.filter (fun n => decide (n.2.2 < t)), fills := m.fills - gone.length }) with
    xfers := y.xfers.map (fun f => if f.slot == slot && decide (t ≤ f.tile) && !f.arrived then { f with retired := true } else f) }

/-- The access kind of MEM_XLATE. -/
def InReq.access (r : InReq) : Nat := if r.kind = 3 then 0 else r.kind

/-- A translation fault of a held request: its record; the bytes of a stream's request and of later ones are discarded. -/
def State.remoteFault (s : State) (r : InReq) (cause va : Nat) : State :=
  let s := s.xlateFault (s.unitCluster r.cl) r.space cause r.access (tagSlot r.tag) va 0
  if r.kind = 3 ∨ tagCtl r.tag then s
  else { s with inreqs := s.inreqs.filter (fun x => !(x.src == r.src && x.tag % 65536 == r.tag % 65536)) }

def State.walkRemote (s : State) (n : Nat) : State :=
  match s.inreqs[n]? with
  | none => s
  | some r =>
    match s.tierVa r.addr with
    | none => s
    | some va =>
      if r.kind ≠ 3 ∧ !s.nextUp r then s
      else match s.doWalk (unitCaches r.cl) r.space va r.access r.len with
        | (t, none) => t
        | (t, some cause) => t.remoteFault r cause va

def State.accessRemote (s : State) (n : Nat) : State :=
  match s.inreqs[n]? with
  | none => s
  | some r =>
    match s.tierVa r.addr with
    | none => s
    | some va =>
      if r.kind ≠ 3 ∧ !s.nextUp r then s
      else match s.tierTry (unitCaches r.cl) r.space va r.access r.len with
        | none => s
        | some (.error cause) => s.remoteFault r cause va
        | some (.ok m) =>
          match r.kind with
          | 3 => ({ s.mapCount m va r.len with inreqs := s.inreqs.erase r }).readData r.src r.sdie r.tag (addrOff r.addr) r.space (s.mapRead m va r.len)
          | 1 => ((s.mapWrite m va r.bytes).committed r).commitReady s.inreqs.length
          | _ => ((s.mapAdd m va r.bytes).committed r).commitReady s.inreqs.length

/-- The translation at another package of a tile of this package's stream faults (R33, R262): no tile from it on is committed, and the stream is
suspended there. How the news travels is not in the spec (log entry 91). -/
def State.awayFault (s : State) (c slot tile va : Nat) : State :=
  let m := s.strm c slot
  if m.state = 1 ∧ m.cls = 2 ∧ m.done ≤ tile ∧ tile < m.total ∧ !m.drops tile then
    (s.dropFrom c slot tile).suspendAt c slot tile va 1 1
  else s

/-- A walk for a requester (R314, R315). -/
def execTranslationWalk (r : Requester) (s : State) : Out :=
  match r with
  | .away c slot tile va => .next (s.awayFault c slot tile va.toNat)
  | .stream c k => .next (s.walkStream c k)
  | .load c n => .next (s.walkLoad c n)
  | .store c n => .next (s.walkStore c n)
  | .remote n => .next (s.walkRemote n)

/-- A cellar die's access for a requester (R318, R319). -/
def execTierAccess (r : Requester) (s : State) : Out :=
  match r with
  | .away _ _ _ _ => .next s
  | .stream c k => .next (s.accessStream c k)
  | .load c n => .next (s.accessLoad c n)
  | .store c n => .next (s.accessStore c n)
  | .remote n => .next (s.accessRemote n)

/-! ### The requester's side -/

/-- The request a response answers. -/
def State.reqOf (s : State) (p : Pkt) : Option Req := s.reqs.find? (fun r => r.tag == p.tag && r.dst == p.src &&
  (decide (r.kind < 0x10) || r.addr.toNat % 2 ^ 48 == p.addr))
def State.dropReq (s : State) (r : Req) : State := { s with reqs := s.reqs.erase r }

/-- The place of a stream's transfer in its list. -/
def State.xferOf (s : State) (tag : Nat) : Option Nat :=
  (s.str (tagCore tag)).xfers.findIdx? (fun f => f.slot == tagSlot tag && f.seq == tagSeq tag && !f.retired)

/-- Does a stream's TAG belong to the stream its slot now holds? -/
def State.tagLive (s : State) (tag : Nat) : Bool :=
  (s.strm (tagCore tag) (tagSlot tag)).epoch == tagEpoch tag && (s.strm (tagCore tag) (tagSlot tag)).state != 0

/-- A memory request is answered: the data of a READ, or the acceptance of a WRITE or ADD. -/
def State.memAnswered (s : State) (r : Req) (data : List Byte) : State :=
  let c := tagCore r.tag
  if tagCtl r.tag then
    let k := s.core c
    s.setCore c { k with
      loads := k.loads.map (fun l => if l.tag == some r.tag then { l with data := some (BitVec.ofNat 64 (leNat data)) } else l),
      stores := k.stores.map (fun x => if x.tag == some r.tag then { x with done := true } else x), stirNext := true }
  else if !s.tagLive r.tag then s
  else if r.len = 0 then
    let m := s.strm c (tagSlot r.tag)
    (s.setStrm c (tagSlot r.tag) { m with filled := m.filled + 1, nulls := m.nulls.filter (fun n => n.1 != tagSeq r.tag) }).settle c (tagSlot r.tag)
  else match s.xferOf r.tag with
    | none => s
    | some i =>
      match (s.str c).xfers[i]? with
      | none => s
      | some f => (s.setXfer c i (if r.kind = 3 then { f with bytes := data } else { f with arrived := true })).stirNext c

/-- The first tile of the fill group of tile t (R259). -/
def Desc.groupStart (d : Desc) (t : Nat) : Nat := if 2 ≤ d.fillev then t / 2 ^ (d.fillev - 2) * 2 ^ (d.fillev - 2) else 0

/-- A memory request refused with NAK reason 4: the stream is aborted (R263); a control-core access is held and the supervisor
told (R315). -/
def State.memRefused (s : State) (r : Req) (cause : Nat) : State :=
  let c := tagCore r.tag
  if tagCtl r.tag then
    let k := s.core c
    match k.loads.findIdx? (fun l => l.tag == some r.tag), k.stores.findIdx? (fun x => x.tag == some r.tag) with
    | some n, _ => s.holdLoad c n
    | none, some n => s.holdStore c n
    | none, none => s
  else if !s.tagLive r.tag then s
  else
    let slot := tagSlot r.tag
    let m := s.strm c slot
    let tile := (s.tileOf r.tag).getD m.done
    let at' := match m.nulls.find? (fun n => n.1 == tagSeq r.tag), r.fill with
      | some n, _ => n.2.1
      | none, some _ => m.d.groupStart tile
      | none, none => tile
    let s := s.dropFrom c slot at'
    (s.setStrm c slot { s.strm c slot with done := min m.done at' }).stopAt c slot ⟨at', true, 0x183, cause, m.farPkg⟩

/-- A memory request that failed under R405: its stream is suspended at its first undelivered tile, and that of a fill packet is passed over
once more; a control-core access is held. -/
def State.memFailed (s : State) (r : Req) : State :=
  let c := tagCore r.tag
  if tagCtl r.tag then s.memRefused r 3
  else if !s.tagLive r.tag then s
  else
    let slot := tagSlot r.tag
    let m := s.strm c slot
    let at' := m.nulls.foldl (fun a n => min a n.2.2) m.done
    let s := s.dropFrom c slot at'
    (s.setStrm c slot { s.strm c slot with done := at' }).suspendAt c slot at' (addrOff r.addr) 3 0

end Sys2Proof.Machine
end

