-- ==== Sys2Proof/Machine/Reduction.lean ====
section
/-! DEFINITION. Gradient reduction and parameter distribution (R424 to R458): channel tables, send units, the link adders, channel
order, deadlines, the global norm, and distribution. -/
namespace Sys2Proof.Machine

namespace Reg
def redTable (c : Nat) : Nat := red c + 8
def redTime (c : Nat) : Nat := red c + 0x10
def redStart (c : Nat) : Nat := red c + 0x18
def redSeq (c : Nat) : Nat := red c + 0x20
def redSlots (c : Nat) : Nat := red c + 0x28
def redStatus (c : Nat) : Nat := red c + 0x30
def redCtrl (c : Nat) : Nat := red c + 0x38
def redNorm (d : Nat) : Nat := guy d + 0x41010
def redInfo (d : Nat) : Nat := guy d + 0x41018
def redCounts (d : Nat) : Nat := guy d + 0x41020
def redFlags (d : Nat) : Nat := guy d + 0x41028
end Reg

/-! ### Channels (R424 to R427) -/

def State.chanRepeat (s : State) (c : Nat) : Bool := s.chanField c 1 1 == 1
def State.chanMean (s : State) (c : Nat) : Bool := s.chanField c 2 1 == 1
def State.chanFp32 (s : State) (c : Nat) : Bool := s.chanField c 3 1 == 1
def State.chanNorm (s : State) (c : Nat) : Bool := s.chanField c 4 1 == 1
def State.chanSpace (s : State) (c : Nat) : Nat := s.chanField c 6 4
def State.chanM (s : State) (c : Nat) : Nat := s.chanField c 10 13 + 1
def State.chanRank (s : State) (c : Nat) : Nat := s.chanField c 23 13
/-- Buckets; the one scalar of a norm channel counts as one. -/
def State.chanB (s : State) (c : Nat) : Nat := if s.chanNorm c then 1 else s.chanField c 36 10 + 1

/-- Bytes of the channel table, in supervisor memory. -/
def State.tableBytes (s : State) (c rel n : Nat) : List Byte :=
  s.supRead (s.fld (Reg.redTable c) 0 2 + 1) (s.fld (Reg.redTable c) 9 27 * 512 + rel) n

/-- The package of a rank. -/
def State.member (s : State) (c rank : Nat) : Nat := fieldAt (s.tableBytes c (64 + 2 * rank) 2) 0 2 % 8192

/-- A bucket entry of the table. -/
structure Bucket where
  tensor : Nat
  segments : Nat
  first : Nat
  gradVa : Nat
  gVa : Nat
  gfmt : Nat
  wfmt : Nat
  dfmt : Nat
  ready : Nat
  landed : Nat
  dVa : Nat
deriving DecidableEq, Repr

def parseBucket (bs : List Byte) : Bucket :=
  ⟨fieldAt bs 0 4, fieldAt bs 4 4, fieldAt bs 8 8, fieldAt bs 16 8 % 2 ^ 47, fieldAt bs 24 8 % 2 ^ 47, byteAt bs 32, byteAt bs 33,
    byteAt bs 34, fieldAt bs 36 2, fieldAt bs 38 2, fieldAt bs 40 8 % 2 ^ 47⟩

/-- Bytes of a member list, padded. -/
def memberBytes (m : Nat) : Nat := (2 * m + 63) / 64 * 64

def State.bucket (s : State) (c b : Nat) : Bucket := parseBucket (s.tableBytes c (64 + memberBytes (s.chanM c) + 64 * b) 64)

/-- The first segment of a rank's shard (R426). -/
def shardLo (rank segs m : Nat) : Nat := rank * segs / m
def State.shardAt (s : State) (c : Nat) (b : Bucket) (rank : Nat) : Nat := shardLo rank b.segments (s.chanM c)
/-- Segments of a rank's shard. -/
def State.shardLen (s : State) (c : Nat) (b : Bucket) (rank : Nat) : Nat := s.shardAt c b (rank + 1) - s.shardAt c b rank

/-- A fault of this chapter at the channel's home die (R532). -/
def State.redFault (s : State) (c code inst bucket rank last : Nat) : State :=
  s.record (Reg.redDie c) code 2 (s.unitDie (Reg.redDie c)) (c + inst % 65536 * 65536) bucket rank last

/-- The status register of a channel. -/
def State.showChan (s : State) (c : Nat) : State :=
  let x := s.chan c
  (s.setFld (Reg.redStatus c) 0 3 (if x.stopped then 4 else x.phase)).setFld (Reg.redStatus c) 3 13 x.missing.length

def State.putChan (s : State) (c : Nat) (x : Chan) : State := (s.setChan c x).showChan c

/-- The step's first instance, and its instances not closed. -/
def State.stepFirst (s : State) (c : Nat) : Nat := s.regN (Reg.redSeq c)
def State.openInsts (s : State) (c : Nat) : List Nat :=
  let x := s.chan c
  if x.phase = 1 then ((List.range (s.chanB c)).map (· + s.stepFirst c)).filter (fun i => !x.closed.contains i) else []

/-- The bucket of an instance. -/
def State.bucketOf (s : State) (c inst : Nat) : Nat := inst % s.chanB c

/-- The deadline instant (R441). -/
def State.deadline (s : State) (c : Nat) : Nat := s.regN (Reg.redStart c) + s.fld (Reg.redTime c) 0 32

/-! ### Tier accesses in the channel's space -/

/-- The mapping of n bytes at va for the home die's access. -/
def State.redMap (s : State) (space va kind n : Nat) : State × Except Nat Map :=
  let us := unitCaches (s.serveCluster space)
  match s.doWalk us space va kind n with
  | (t, some cause) => (t, .error cause)
  | (t, none) =>
    match t.cached us space va with
    | some m => (t, .ok m)
    | none => (t, .error 1)

/-- A run of bytes cut at the next 64 KiB boundary. -/
def pagePieces (va n : Nat) : List (Nat × Nat) :=
  let k := 65536 - va % 65536
  if n ≤ k then [(va, n)] else [(va, k), (va + k, n - k)]

/-- Does a retrain hold a channel the access needs, for its tables or its bytes (R325)? It waits, and nothing else shows. -/
def State.redHeld (s : State) (space va n : Nat) : Bool :=
  (pagePieces va n).any (fun p =>
    let on := fun (m : Map) => s.chanHeld m.die (m.phys p.1) p.2
    match s.cached (unitCaches (s.serveCluster space)) space p.1 with
    | some m => on m
    | none => s.walkHeld space p.1 || (match s.walk space p.1 with
      | .ok m => on m
      | .error _ => false))

/-- Read n bytes of a space, 64 KiB at most, or the fault's cause and address. -/
def State.redRead (s : State) (space va n : Nat) : State × Except (Nat × Nat) (List Byte) :=
  (pagePieces va n).foldl (fun r p =>
    match r.2 with
    | .error e => (r.1, .error e)
    | .ok bs =>
      match r.1.redMap space p.1 0 p.2 with
      | (t, .error cause) => (t, .error (cause, p.1))
      | (t, .ok m) => (t.mapCount m p.1 p.2, .ok (bs ++ t.mapRead m p.1 p.2))) (s, .ok [])

/-- Is a run of bytes mapped and writable now? The fault's cause and address where it is not. -/
def State.redMapped (s : State) (space va n : Nat) : State × Option (Nat × Nat) :=
  (pagePieces va n).foldl (fun r p =>
    match r.2 with
    | some e => (r.1, some e)
    | none =>
      match r.1.redMap space p.1 1 p.2 with
      | (t, .error cause) => (t, some (cause, p.1))
      | (t, .ok _) => (t, none)) (s, none)

/-- Write a run of bytes that is mapped; each piece with the die it goes to. -/
def State.redWrite (s : State) (space va : Nat) (bs : List Byte) : State × List (Nat × List Byte) :=
  (pagePieces va bs.length).foldl (fun r p =>
    match r.1.redMap space p.1 1 p.2 with
    | (t, .error _) => (t, r.2)
    | (t, .ok m) =>
      let part := (bs.drop (p.1 - va)).take p.2
      (t.mapWrite m p.1 part, r.2 ++ [(m.die, part)])) (s, [])

def State.redXlate (s : State) (c kind : Nat) (e : Nat × Nat) (tile : Nat) : State :=
  s.xlateFault (s.unitDie (Reg.redDie c)) (s.chanSpace c) e.1 kind 0 e.2 tile

/-! ### Sending (R429 to R433) -/

/-- The space's job, for a request of this chapter. -/
def State.redReq (s : State) (c kind dst tag addr : Nat) (bs : List Byte) (fill : Option Nat) : Req :=
  { tag := tag, kind := kind, dst := dst, die := Reg.redDie c, addr := BitVec.ofNat 64 addr, len := bs.length, bytes := bs, fill := fill,
    space := some (s.chanSpace c), first := s.ns, last := s.ns }

def redTag (c bucket inst : Nat) : Nat := c + bucket * 64 + inst % 65536 * 65536

/-- Ranks in the order m + 1, m + 2, …, m (R431). -/
def rankOrder (m own : Nat) : List Nat := (List.range m).map (fun i => (own + 1 + i) % m)

def execSendUnitStart (ch : Fin 64) (s : State) : Out :=
  let x := s.chan ch
  if s.chanEn ch && !s.chanNorm ch && (x.phase == 1 || x.phase == 2) && !x.stopped && x.send.isNone &&
      decide (s.stepFirst ch ≤ x.inst ∧ x.inst < s.stepFirst ch + s.chanB ch) then
    let p := (s.bucket ch (s.bucketOf ch x.inst)).ready
    let s := s.pegScreen p
    let w := s.pegWord p
    if pegState w = 1 then .next (s.putChan ch { x with stopped := true })
    else if pegState w = 0 ∧ pegFull w then
      .next ((s.setPeg p (pegTaken w) 5).setChan ch { x with send := some { inst := x.inst } })
    else .next s
  else .next s

/-- Bytes of an input element. -/
def State.inBytes (s : State) (c : Nat) : Nat := if s.chanFp32 c then 4 else 2

/-- The CONTRIB packets of a segment's bytes: one, or one for each half. -/
def State.sendSegment (s : State) (c inst bucket rank seg : Nat) (bs : List Byte) : State :=
  let dst := s.member c rank
  let own := s.chanRank c * 2 ^ 25
  let tag := redTag c bucket inst
  if s.chanFp32 c then
    (s.sendReq (s.redReq c 0x10 dst tag (seg + own) (bs.take 1024) none)).sendReq
      (s.redReq c 0x10 dst tag (seg + 2 ^ 24 + own) (bs.drop 1024) none)
  else s.sendReq (s.redReq c 0x10 dst tag (seg + own) bs none)

/-- Send the next segment to each owner of the rest of a round; a translation fault suspends the unit at the owner where it stands, and a held
channel makes it wait there. -/
def State.sendTo (s : State) (c : Nat) (b : Bucket) : List Nat → State
  | [] => s.setChan c { s.chan c with send := (s.chan c).send.map (fun y => { y with pos := 0 }) }
  | r :: rs =>
    match (s.chan c).send with
    | none => s
    | some y =>
      let k := Tab.get (fun _ => 0) y.sent r
      let past := { y with pos := y.pos + 1 }
      if s.shardLen c b r ≤ k then (s.setChan c { s.chan c with send := some past }).sendTo c b rs
      else
        let seg := s.shardAt c b r + k
        let n := 512 * s.inBytes c
        if s.redHeld (s.chanSpace c) (b.gradVa + seg * n) n then s
        else match s.redRead (s.chanSpace c) (b.gradVa + seg * n) n with
        | (t, .error e) =>
          let t := t.redXlate c 0 e seg
          { t.setChan c { t.chan c with send := some { y with suspended := true } } with
            notices := t.notices ++ [[0x430, c, y.inst, seg]] }
        | (t, .ok bs) =>
          let t := t.setChan c { t.chan c with send := some { past with sent := Tab.set (fun _ => 0) y.sent r (k + 1) } }
          (t.sendSegment c y.inst (s.bucketOf c y.inst) r seg bs).sendTo c b rs

/-- A round, or the rest of one that a fault stopped (R430, R431). -/
def execSendRound (ch : Fin 64) (s : State) : Out :=
  let x := s.chan ch
  match x.send with
  | none => .next s
  | some y =>
    if y.suspended then .next s
    else .next (s.sendTo ch (s.bucket ch (s.bucketOf ch y.inst)) ((rankOrder (s.chanM ch) (s.chanRank ch)).drop y.pos))

/-- The instance is sent when every packet has been acknowledged. -/
def State.sentCheck (s : State) (c : Nat) : State :=
  let x := s.chan c
  match x.send with
  | none => s
  | some y =>
    let b := s.bucket c (s.bucketOf c y.inst)
    if (List.range (s.chanM c)).all (fun r => s.shardLen c b r == Tab.get (fun _ => 0) y.sent r) &&
        !s.reqs.any (fun r => r.kind == 0x10 && tagChan r.tag == c) then
      s.setChan c { x with send := none, inst := y.inst + 1 }
    else s

/-! ### Ending a step (R445) -/

def State.mapJob (s : State) (space : Nat) (f : Job → Job) : State :=
  { s with jobs := s.jobs.map (fun j => if j.1 = space then (j.1, f j.2) else j) }

/-- An open step of the space's job ends here: its cores are to be rewound (R539). -/
def State.stepEnded (s : State) (space : Nat) : State :=
  s.mapJob space (fun j => if j.open_ then
    { j with ended := true, rewind := some (j.rewind.getD s.ns), closedAt := some (j.closedAt.getD s.ns) } else j)

/-- Close every open instance of the channel's step without writing more, stop its send unit, and tell the supervisor. -/
def State.closeOne (s : State) (c : Nat) : State :=
  let n := (s.openInsts c).length
  let s := s.stopSend c
  let s := s.setFld (Reg.redStatus c) 32 32 (s.fld (Reg.redStatus c) 32 32 + n)
  let s := s.putChan c { s.chan c with phase := 3, parts := [], written := [] }
  let s := s.stepEnded (s.chanSpace c)
  { s with notices := s.notices ++ [[0x445, c, s.stepFirst c]] }

/-- Does the channel have a step that can end? -/
def State.stepLive (s : State) (c : Nat) : Bool := (s.chan c).phase == 1 || (s.chan c).phase == 2

/-- The step ends at a channel, and the supervisor aborts the package's other channels of the same job for it (R445). -/
def State.closeStep (s : State) (c : Nat) : State :=
  let others := (List.range 64).filter (fun o => o != c && s.chanEn o && s.chanSpace o == s.chanSpace c && s.stepLive o)
  others.foldl (fun t o => (t.redFault o 0x504 (t.stepFirst o) 0xFFFF 0xFFFF 0).closeOne o) (s.closeOne c)

/-- A member ends the step: recorded, and unless told otherwise announced to every other member. -/
def State.endStep (s : State) (c : Nat) (tell : Bool) : State :=
  if !s.stepLive c then s
  else
    let first := s.stepFirst c
    let s := s.redFault c 0x504 first 0xFFFF 0xFFFF 0
    let s := s.closeStep c
    if !tell then s
    else ((rankOrder (s.chanM c) (s.chanRank c)).filter (· != s.chanRank c)).foldl (fun t r =>
      t.sendReq (t.redReq c 0x14 (t.member c r) (redTag c (t.bucketOf c first) first) (t.chanRank c * 2 ^ 25) (leBytes 8 first) none)) s

/-! ### The link adder (R434 to R438) -/

/-- rne(1 / n, fp32). -/
def quot (n : Nat) : W32 := (div64 one64 (.fin false n 0)).to32

/-- A contribution value widened exactly; NaNs are canonical. -/
def widenIn (fp : Bool) (code : Nat) : W32 :=
  let w := widen (if fp then 10 else 0) code none
  if isNan32 w then nan32 else w

/-- The values of a payload. -/
def contribution (fp : Bool) (bs : List Byte) : List W32 :=
  let n := if fp then 4 else 2
  (List.range (bs.length / n)).map (fun i => widenIn fp (fieldAt bs (n * i) n))

def addList (x y : List W32) : List W32 := (x.zip y).map (fun p => add32 p.1 p.2)

/-- Add what is next in rank order: missing ranks are passed over, staged packets added; n bounds the ranks. -/
def Part.advance (fp : Bool) (missing : List Nat) (m : Nat) : Nat → Part → Part
  | 0, p => p
  | n + 1, p =>
    if m ≤ p.next then p
    else if missing.contains p.next then Part.advance fp missing m n { p with next := p.next + 1 }
    else
      match p.staged.find? (fun x => x.1 == p.next) with
      | none => p
      | some x =>
        let v := contribution fp x.2
        Part.advance fp missing m n { p with
          next := p.next + 1, n := p.n + 1, acc := if p.n = 0 then v else addList p.acc v, staged := p.staged.erase x }

/-- The finished values of a part (R435): the sum, or its product with q(n); none present: no value is stated. -/
def Part.finish (p : Part) (mean fp : Bool) : List W32 :=
  let acc := if p.n = 0 then (List.range (if fp then 256 else 512)).map (fun i => Config.emptySum (512 * p.seg + 256 * p.half + i)) else p.acc
  if mean then acc.map (fun x => mul32 x (quot p.n)) else acc

def State.partOf (s : State) (c inst seg half : Nat) : Part :=
  ((s.chan c).parts.find? (fun p => p.inst == inst && p.seg == seg && p.half == half)).getD { inst := inst, seg := seg, half := half }

def State.setPart (s : State) (c : Nat) (p : Part) : State :=
  let x := s.chan c
  let same := fun (q : Part) => q.inst == p.inst && q.seg == p.seg && q.half == p.half
  s.setChan c { x with parts := x.parts.filter (fun q => !same q) ++ [p] }

/-- Segments that hold an accumulator slot: the first of the quota not written, by instance and then by segment (R436). -/
def State.slotted (s : State) (c : Nat) : List (Nat × Nat) :=
  let x := s.chan c
  let all := (s.openInsts c).flatMap (fun i =>
    let b := s.bucket c (s.bucketOf c i)
    (List.range (s.shardLen c b (s.chanRank c))).map (fun k => (i, s.shardAt c b (s.chanRank c) + k)))
  (all.filter (fun e => !x.written.contains e)).take (s.fld (Reg.redSlots c) 0 12)

/-- The square of a written value as a count of 2^-298; none: not finite. -/
def square298 (fmt code : Nat) : Option Nat :=
  match elemNum fmt code with
  | .fin _ m e => some (m * m * 2 ^ (2 * e + 298).toNat)
  | _ => none

/-- A finished-gradient write reaches a cellar die: its squares are added, and what is not finite is recorded (R449). -/
def State.normWrite (s : State) (c inst seg fmt d : Nat) (bs : List Byte) : State :=
  let n := if fmt = 10 then 4 else 2
  let qs := (List.range (bs.length / n)).map (fun i => square298 fmt (fieldAt bs (n * i) n))
  let x := s.cellar d
  let bad := qs.any Option.isNone
  let s := s.setCellar d { x with norm := qs.foldl (fun a q => a + q.getD 0) x.norm, nonfinite := x.nonfinite || bad }
  if bad then s.record d 0x506 2 (s.unitDie d) (c + inst % 65536 * 65536) (s.bucketOf c inst) 0xFFFF seg else s

/-- An instance whose shard is written closes (R437, R442). -/
def State.closeInst (s : State) (c inst : Nat) : State :=
  let x := s.chan c
  let bucket := if s.chanNorm c then 0xFFFF else s.bucketOf c inst
  let s := x.missing.foldl (fun t r => t.redFault c 0x503 inst bucket r (s.chanM c - x.missing.length)) s
  let closed := inst :: x.closed
  let s := s.setFld (Reg.redStatus c) 32 32 (s.fld (Reg.redStatus c) 32 32 + 1)
  let s := s.putChan c { x with
    closed := closed, written := x.written.filter (fun e => e.1 != inst), parts := x.parts.filter (fun p => p.inst != inst),
    phase := if closed.length = s.chanB c then 2 else x.phase }
  { s with notices := s.notices ++ [[0x437, c, inst]] }

/-- Write a finished segment (R437); a translation fault leaves it for a later try. -/
def State.writeSegment (s : State) (c inst seg : Nat) (vals : List W32) : State :=
  let b := s.bucket c (s.bucketOf c inst)
  let d := Reg.redDie c
  let out := vals.map (vstLane b.gfmt .rne)
  let n := if b.gfmt = 10 then 4 else 2
  let flags := boolNat (vals.any isNan32) + 2 * boolNat (vals.any isInf32) + (if out.any (fun y => y.2 ≥ 4) then 4 else 0)
  let va := b.gVa + (seg - s.shardAt c b (s.chanRank c)) * (512 * n)
  if s.redHeld (s.chanSpace c) va (512 * n) then s
  else match s.redMapped (s.chanSpace c) va (512 * n) with
  | (t, some e) => t.redXlate c 1 e seg
  | (t, none) =>
    let t := t.orReg (Reg.redFlags d) flags
    let r := t.redWrite (t.chanSpace c) va (out.flatMap (fun y => leBytes n y.1))
    let t := r.2.foldl (fun u p => u.normWrite c inst seg b.gfmt p.1 p.2) r.1
    let x := t.chan c
    let t := t.setChan c { x with written := (inst, seg) :: x.written, parts := x.parts.filter (fun p => !(p.inst == inst && p.seg == seg)) }
    if ((t.chan c).written.filter (fun e => e.1 == inst)).length = t.shardLen c b (t.chanRank c) then t.closeInst c inst else t

/-- Bring one segment with a slot forward, and write it where every present rank is added. The fall-back cores make the same sums by the same
rules (R447, R448): the model computes them here for both, and counts only the link adder's (log entry 53). -/
def State.settleSegment (s : State) (c : Nat) (e : Nat × Nat) : State :=
  let fp := s.chanFp32 c
  let m := s.chanM c
  let miss := (s.chan c).missing
  let ps := (List.range (if fp then 2 else 1)).map (fun h => Part.advance fp miss m (m + 1) (s.partOf c e.1 e.2 h))
  let sums := fun (p : Part) => (p.n - 1) * (if fp then 256 else 512)
  let done := (List.range ps.length).map (fun h => sums (s.partOf c e.1 e.2 h))
  let t := if (s.chan c).fb then s else s.dieCount (27 + Reg.redDie c) ((ps.map sums).foldl (· + ·) 0 - done.foldl (· + ·) 0)
  let t := ps.foldl (fun u p => if p.next = 0 then u else u.setPart c p) t
  let added := (ps.filter (fun p => p.next != 0)).flatMap (fun p => (List.range p.next).filter (fun r => !miss.contains r))
  let x := t.chan c
  let t := t.setChan c { x with added := x.added ++ (added.eraseDups.filter (fun r => !x.added.contains r)) }
  if ps.all (fun p => p.next == m) then t.writeSegment c e.1 e.2 (ps.flatMap (fun p => p.finish (s.chanMean c) fp)) else t

/-- Bring the channel's adder forward until no more segments finish; n bounds the passes. -/
def State.settleAdder (s : State) (c : Nat) : Nat → State
  | 0 => s
  | n + 1 =>
    let before := s.slotted c
    let t := before.foldl (fun u e => if (u.chan c).phase = 1 then u.settleSegment c e else u) s
    if t.slotted c = before then t else t.settleAdder c n

/-- Passes that suffice: every unwritten segment of the step, and one more. -/
def State.adderBound (s : State) (c : Nat) : Nat :=
  (s.openInsts c).foldl (fun n i => n + s.shardLen c (s.bucket c (s.bucketOf c i)) (s.chanRank c)) 1

/-! ### Norm channels at the root (R451) -/

/-- The result's payload, once every present rank's contribution is there. -/
def State.normResult (s : State) (c : Nat) : Option (List Byte) :=
  let x := s.chan c
  let ranks := (List.range (s.chanM c)).filter (fun r => !x.missing.contains r)
  let got := ranks.map (fun r => x.scalars.find? (fun y => y.1 == r))
  if got.all Option.isSome then
    let ys := got.filterMap id
    let total := match ys with
      | [] => (.fin false 0 0 : Num)
      | y :: rest => rest.foldl (fun a z => add64 a (fp64.decode z.2.1)) (fp64.decode y.2.1)
    let flagged := ys.filter (fun y => y.2.2)
    some (leBytes 8 (fp64.narrow .rne total).1 ++ leBytes 4 total.to32.toNat ++ leBytes 2 ys.length ++ leBytes 2 flagged.length ++
      leBytes 2 ((flagged.map (·.1)).head?.getD 0xFFFF) ++ leBytes 2 x.missing.length ++ List.replicate 12 0)
  else none

/-- The root sends the result to every member, once it can. -/
def State.settleNorm (s : State) (c : Nat) : State :=
  let x := s.chan c
  if x.normDone ∨ x.phase ≠ 1 then s
  else
    match s.normResult c with
    | none => s
    | some pay =>
      let first := s.stepFirst c
      let s := s.setChan c { x with normDone := true }
      let s := x.missing.foldl (fun t r => t.redFault c 0x503 first 0xFFFF r (s.chanM c - x.missing.length)) s
      (rankOrder (s.chanM c) (s.chanRank c)).foldl (fun t r =>
        t.sendReq (t.redReq c 0x12 (t.member c r) (redTag c 0 first) (t.chanRank c * 2 ^ 25) pay none)) s

/-- Bring a channel's sums forward. -/
def State.settleChan (s : State) (c : Nat) : State :=
  if s.chanNorm c then s.settleNorm c else s.settleAdder c (s.adderBound c)

/-! ### Deadlines (R441 to R444) -/

/-- Something of the step is still open at this owner: of a norm channel, at its root only. -/
def State.stillOpen (s : State) (c : Nat) : Bool :=
  if s.chanNorm c then (s.chan c).phase == 1 && s.chanRank c == 0 && !(s.chan c).normDone else !(s.openInsts c).isEmpty

/-- Does a packet carry the sequence number of an instance of the step, and its rank field the rank of its source? -/
def State.ofStep (s : State) (c : Nat) (p : Pkt) : Bool :=
  (List.range (s.chanB c)).any (fun i => (s.stepFirst c + i) % 65536 == tagInst p.tag) &&
  decide (bitsOf p.addr 25 13 < s.chanM c) && s.member c (bitsOf p.addr 25 13) == p.src

/-- Ranks whose on-time packets for an instance of the step stand in the inbox, not yet taken (R441). -/
def State.waitingRanks (s : State) (c : Nat) : List Nat :=
  (s.inbox.filter (fun p => p.typ == (if s.chanNorm c then 0x11 else 0x10) && tagChan p.tag == c && p.checkOk &&
    decide (p.stamp.toNat < s.deadline c) && s.ofStep c p)).map (fun p => bitsOf p.addr 25 13)

/-- The owner's action at the deadline instant. -/
def State.atDeadline (s : State) (c : Nat) : State :=
  let x := s.chan c
  if x.late ∨ x.phase ≠ 1 then s
  else
    let s := s.setChan c { x with late := true }
    if !s.stillOpen c then s
    else if s.chanRepeat c then s.endStep c true
    else
      let seen := x.seen ++ s.waitingRanks c
      let miss := (List.range (s.chanM c)).filter (fun r => !seen.contains r)
      let x := s.chan c
      let s := s.putChan c { x with
        missing := x.missing ++ miss.filter (fun r => !x.missing.contains r),
        parts := x.parts.map (fun p => { p with staged := p.staged.filter (fun y => !miss.contains y.1) }) }
      s.settleChan c

def execRedDeadline (ch : Fin 64) (s : State) : Out :=
  if s.chanEn ch && decide (s.deadline ch ≤ s.time.toNat) then .next (s.atDeadline ch) else .next s

def execRedGrace (ch : Fin 64) (s : State) : Out :=
  if s.chanEn ch && !s.chanRepeat ch && decide (s.deadline ch + s.fld (Reg.redTime ch) 32 32 ≤ s.time.toNat) then
    let s := s.atDeadline ch
    if s.stillOpen ch then
      let i := ((s.openInsts ch).head?).getD 0
      .next ((s.redFault ch 0x505 i (if s.chanNorm ch then 0xFFFF else s.bucketOf ch i) 0xFFFF 0).endStep ch true)
    else .next s
  else .next s

/-! ### Packets at the home die -/

/-- The channel of a reduction packet, where the checks of R551 and R573 pass and the channel is in use in the packet's job. -/
def State.redTake (s : State) (p : Pkt) : Except State Nat :=
  let c := tagChan p.tag
  match s.packetJob p with
  | .error t => .error t
  | .ok space =>
    if !s.chanEn c ∨ s.chanSpace c ≠ space then .error ((s.attempt p.home 0x703 2 (s.unitDie p.home)).nak p (Reg.redDie c) 4 (leBytes 4 3))
    else .ok c

def State.redAck (s : State) (c : Nat) (p : Pkt) : State := s.ackPkt p (Reg.redDie c)
def State.redStale (s : State) (c : Nat) (p : Pkt) : State := (s.bump (Reg.redCounts (Reg.redDie c)) 0 32).redAck c p
def State.redBusy (s : State) (c : Nat) (p : Pkt) : State := (s.bump (Reg.redCounts (Reg.redDie c)) 32 32).nak p (Reg.redDie c) 1 [0]

/-- Where a sequence number stands (R439): an open instance, one of a closed instance, one of a later step, or none of these. -/
inductive SeqPlace where
  | open_ (inst : Nat)
  | old | later | wrong
deriving DecidableEq, Repr

def State.seqPlace (s : State) (c seq : Nat) : SeqPlace :=
  let first := s.stepFirst c
  let b := s.chanB c
  let x := s.chan c
  if x.phase = 0 then .later
  else
    match (s.openInsts c).find? (fun i => i % 65536 == seq) with
    | some i => .open_ i
    | none =>
      if (seq + 65536 - (first + b) % 65536) % 65536 < 32768 then .later
      else if seqBefore seq ((first + b) % 65536) then .old else .wrong

/-- RED_ORDER at the owner (R440): recorded, refused, and the policy applied. -/
def State.redOrder (s : State) (c inst bucket rank : Nat) (p : Pkt) : State :=
  let s := (s.redFault c 0x502 inst bucket rank 0).nak p (Reg.redDie c) 4 (leBytes 4 0)
  let x := s.chan c
  match (List.range (s.chanM c)).find? (fun r => s.member c r == p.src) with
  | none => if s.chanRepeat c then s.endStep c true else s
  | some r =>
    if s.chanRepeat c ∨ x.added.contains r then s.endStep c true
    else
      (s.putChan c { x with
        missing := if x.missing.contains r then x.missing else x.missing ++ [r],
        parts := x.parts.map (fun q => { q with staged := q.staged.filter (fun y => y.1 != r) }) }).settleChan c

/-- The rank is marked seen by its first on-time packet (R441). -/
def State.markSeen (s : State) (c rank : Nat) (p : Pkt) : State :=
  let x := s.chan c
  if p.stamp.toNat < s.deadline c ∧ !x.seen.contains rank then s.setChan c { x with seen := x.seen ++ [rank] } else s

/-- Packets staged in the channel. -/
def State.stagedCount (s : State) (c : Nat) : Nat := ((s.chan c).parts.map (fun p => p.staged.length)).foldl (· + ·) 0

/-- Every rank from one on to another is missing. -/
def missingFrom (missing : List Nat) (a b : Nat) : Bool := ((List.range b).drop a).all missing.contains

/-- A CONTRIB of an open segment (R436). -/
def State.addContrib (s : State) (c inst seg half rank : Nat) (p : Pkt) : State :=
  let q := s.partOf c inst seg half
  let x := s.chan c
  if x.written.contains (inst, seg) ∨ rank < q.next ∨ q.staged.any (fun y => y.1 == rank) then s.redAck c p
  else
    let next := (s.slotted c).contains (inst, seg) && missingFrom x.missing q.next rank
    if next || decide (s.stagedCount c < s.fld (Reg.redSlots c) 16 13) then
      ((s.setPart c { q with staged := q.staged ++ [(rank, s.clear p)] }).settleChan c).redAck c p
    else s.redBusy c p

def State.takeContrib (s : State) (p : Pkt) : State :=
  match s.redTake p with
  | .error t => t
  | .ok c =>
    let s := if s.deadline c ≤ p.stamp.toNat then s.atDeadline c else s
    let rank := bitsOf p.addr 25 13
    let seg := bitsOf p.addr 0 24
    let half := if s.chanFp32 c then bitsOf p.addr 24 1 else 0
    match s.seqPlace c (tagInst p.tag) with
    | .old => s.redStale c p
    | .later => s.redBusy c p
    | .wrong => s.redOrder c (tagInst p.tag) (tagBucket p.tag) rank p
    | .open_ inst =>
      let b := s.bucket c (s.bucketOf c inst)
      let lo := s.shardAt c b (s.chanRank c)
      if tagBucket p.tag ≠ s.bucketOf c inst ∨ s.chanM c ≤ rank ∨ s.member c rank ≠ p.src ∨ seg < lo ∨
          lo + s.shardLen c b (s.chanRank c) ≤ seg then s.redOrder c inst (tagBucket p.tag) rank p
      else if (s.chan c).missing.contains rank then s.redStale c p
      else (s.markSeen c rank p).addContrib c inst seg half rank p

def execContrib (n : Nat) (s : State) : Out :=
  match s.takePkt 0x10 n with
  | none => .next s
  | some (p, t) => .next (t.takeContrib p)

/-- A REPEAT notice (R445). One of a later step is turned away as R439 turns away a contribution of one (DEDUCED, log entry 102). -/
def execRepeatNotice (n : Nat) (s : State) : Out :=
  match s.takePkt 0x14 n with
  | none => .next s
  | some (p, t) =>
    match t.redTake p with
    | .error u => .next u
    | .ok c =>
      let x := t.chan c
      if (x.phase = 1 ∨ x.phase = 2) ∧ leNat ((t.clear p).take 8) = t.stepFirst c then .next ((t.closeStep c).redAck c p)
      else if t.seqPlace c (tagInst p.tag) = .later then .next (t.redBusy c p)
      else .next (t.redAck c p)

/-! ### The global norm (R449 to R452) -/

/-- The package's norm contribution: the exact sum rounded once to binary64, or the NaN, with the flag. -/
def State.normContribution (s : State) : Nat × Bool :=
  let bad := [1, 2, 3, 4].any (fun d => (s.cellar d).nonfinite)
  let sum := [1, 2, 3, 4].foldl (fun a d => a + (s.cellar d).norm) 0
  (if bad then fp64.nanCode else (fp64.narrow .rne (.fin false sum (-298))).1, bad)

/-- Every instance of the step is closed at the package: the channels of the norm channel's job. -/
def State.othersClosed (s : State) (c : Nat) : Bool :=
  (List.range 64).all (fun o => !s.chanEn o || s.chanNorm o || s.chanSpace o != s.chanSpace c || (s.chan o).phase == 2)

def execNormContribution (ch : Fin 64) (s : State) : Out :=
  let x := s.chan ch
  if s.chanEn ch && s.chanNorm ch && x.phase == 1 && !x.scalarSent && s.othersClosed ch then
    let v := s.normContribution
    let first := s.stepFirst ch
    let s := s.setChan ch { x with scalarSent := true }
    .next (s.sendReq (s.redReq ch 0x11 (s.member ch 0) (redTag ch 0 first) (s.chanRank ch * 2 ^ 25)
      (leBytes 8 v.1 ++ leBytes 8 (boolNat v.2)) none))
  else .next s

def State.takeScalar (s : State) (p : Pkt) : State :=
  match s.redTake p with
  | .error t => t
  | .ok c =>
    let s := if s.deadline c ≤ p.stamp.toNat then s.atDeadline c else s
    let rank := bitsOf p.addr 25 13
    match s.seqPlace c (tagInst p.tag) with
    | .old => s.redStale c p
    | .later => s.redBusy c p
    | .wrong => s.redOrder c (tagInst p.tag) 0xFFFF rank p
    | .open_ inst =>
      let x := s.chan c
      if !s.chanNorm c ∨ s.chanM c ≤ rank ∨ s.member c rank ≠ p.src ∨ s.chanRank c ≠ 0 then s.redOrder c inst 0xFFFF rank p
      else if x.missing.contains rank then s.redStale c p
      else if x.scalars.any (fun y => y.1 == rank) then s.redAck c p
      else
        let s := s.markSeen c rank p
        let x := s.chan c
        let pay := s.clear p
        let y := (rank, fieldAt pay 0 8, (byteAt pay 8).testBit 0)
        ((s.setChan c { x with scalars := x.scalars ++ [y], added := x.added ++ [rank] }).settleNorm c).redAck c p

def execScalar (n : Nat) (s : State) : Out :=
  match s.takePkt 0x11 n with
  | none => .next s
  | some (p, t) => .next (t.takeScalar p)

/-- A member receives the norm: registers, the channel's one instance closes, and the supervisor has SSQ for its commands. A result of a later
step is turned away (DEDUCED, log entry 102). -/
def execScalarResult (n : Nat) (s : State) : Out :=
  match s.takePkt 0x12 n with
  | none => .next s
  | some (p, t) =>
    match t.redTake p with
    | .error u => .next u
    | .ok c =>
      let pay := t.clear p
      let d := Reg.redDie c
      if (t.chan c).phase = 1 ∧ tagInst p.tag = t.stepFirst c % 65536 then
        let t := (t.setRegN (Reg.redNorm d) (fieldAt pay 0 8)).setRegN (Reg.redInfo d) (fieldAt pay 8 8)
        let x := t.chan c
        let t := t.setFld (Reg.redStatus c) 32 32 (t.fld (Reg.redStatus c) 32 32 + 1)
        let t := t.putChan c { x with phase := 2, closed := [t.stepFirst c] }
        .next (({ t with notices := t.notices ++ [[0x451, c, fieldAt pay 8 4]] }).redAck c p)
      else if t.seqPlace c (tagInst p.tag) = .later then .next (t.redBusy c p)
      else .next (t.redAck c p)

/-! ### Distribution (R453 to R457) -/

/-- Bytes of a segment of D: 16 BF16 records, or 4 groups. -/
def dBytes (dfmt : Nat) : Nat := if dfmt = 4 then 528 else 1024

/-- The instance of the step that reduced a bucket (R429, R453). -/
def State.instFor (s : State) (c bucket : Nat) : Nat :=
  let first := s.stepFirst c
  first + (bucket + s.chanB c - first % s.chanB c) % s.chanB c

/-- Where the page tables put va now: the cellar die and the physical offset. -/
def State.placeOf (s : State) (space va : Nat) : Option (Nat × Nat) :=
  (s.leafAt space va).bind (fun l =>
    match s.leaf l.2.2.1 l.2.2.2 with
    | .ok m => some (m.die, m.phys va)
    | .error _ => none)

/-- The segments of the own shard of bucket b of channel c that an item covers: the D of their first records is the item's. -/
def State.coveredSegs (s : State) (c : Nat) (b : Bucket) (die off fmt va records : Nat) : List Nat :=
  let lo := s.shardAt c b (s.chanRank c)
  ((List.range (s.shardLen c b (s.chanRank c))).filter (fun k =>
    let a := b.dVa + recAt b.dfmt b.dVa (16 * k)
    decide (va ≤ a ∧ a ≤ va + recAt fmt va (records - 1)) &&
    s.placeOf (s.chanSpace c) a == some (die, off + (a - va)))).map (· + lo)

/-- DIST of one segment to every member (R431's order). -/
def State.sendDist (s : State) (c bucket : Nat) (b : Bucket) (seg : Nat) : State :=
  let a := b.dVa + recAt b.dfmt b.dVa (16 * (seg - s.shardAt c b (s.chanRank c)))
  match s.redRead (s.chanSpace c) a (dBytes b.dfmt) with
  | (t, .error e) => t.redXlate c 0 e seg
  | (t, .ok bs) => (rankOrder (t.chanM c) (t.chanRank c)).foldl (fun u r =>
      u.sendReq (u.redReq c 0x13 (u.member c r) (redTag c bucket (u.instFor c bucket)) (seg + u.chanRank c * 2 ^ 25) bs none)) t

/-- The channel, bucket and segments that an item notice (code, die, step, item, records, offset, format, address) covers. -/
def State.noticeSegs (s : State) (x : List Nat) : List (Nat × Nat × Nat) :=
  let f := fun (i : Nat) => (x[i]?).getD 0
  (List.range 64).flatMap (fun c =>
    if s.chanEn c && !s.chanNorm c then
      (List.range (s.chanB c)).flatMap (fun k =>
        (s.coveredSegs c (s.bucket c k) (f 1) (f 5) (f 6) (f 7) (f 4)).map (fun seg => (c, k, seg)))
    else [])

/-- The home dies of the channels act on the n-th item notice; one whose bytes a retrain holds waits, and one that meets a translation fault is
recorded and stands until its pages are mapped (DEDUCED, log entry 102). -/
def execDistSendStart (n : Nat) (s : State) : Out :=
  match (s.notices.filter (fun x => x.head? == some 0x3610))[n]? with
  | none => .next s
  | some x =>
    let segs := s.noticeSegs x
    let held := fun (y : Nat × Nat × Nat) =>
      let b := s.bucket y.1 y.2.1
      s.redHeld (s.chanSpace y.1) (b.dVa + recAt b.dfmt b.dVa (16 * (y.2.2 - s.shardAt y.1 b (s.chanRank y.1)))) (dBytes b.dfmt)
    let fault := segs.findSome? (fun y =>
      let b := s.bucket y.1 y.2.1
      match s.redRead (s.chanSpace y.1) (b.dVa + recAt b.dfmt b.dVa (16 * (y.2.2 - s.shardAt y.1 b (s.chanRank y.1)))) (dBytes b.dfmt) with
      | (t, .error e) => some (t.redXlate y.1 0 e y.2.2)
      | (_, .ok _) => none)
    if segs.any held then .next s
    else match fault with
    | some t => .next t
    | none => .next (segs.foldl (fun t y => t.sendDist y.1 y.2.1 (s.bucket y.1 y.2.1) y.2.2) { s with notices := s.notices.erase x })

/-- A piece record's fields (R219). -/
def pieceTag (p : List Byte) : Nat := fieldAt p 0 4
def pieceFmt (p : List Byte) : Nat := byteAt p 4
def pieceGord (p : List Byte) : Bool := (byteAt p 5).testBit 1
def pieceTsc (p : List Byte) : Bool := (byteAt p 5).testBit 2
def ceil32 (n : Nat) : Nat := (n + 31) / 32
/-- The slot size of R201. -/
def pitch (fmt : Nat) (tsc : Bool) : Nat := tileBytes fmt + (if tsc then 4 else 0)

/-- The tile's virtual address in the piece for global tile number t (R210, R222, R425); none outside the piece. -/
def pieceTile (p : List Byte) (t : Nat) : Option Nat :=
  let S0 := fieldAt p 10 2
  let NR := ceil32 (fieldAt p 12 4)
  let NC := ceil32 (fieldAt p 16 4)
  let g := t / (NR * NC)
  let i := t % (NR * NC) / NC
  let j := t % NC
  let es0 := fieldAt p 34 2
  let nr := ceil32 (fieldAt p 36 4)
  let nc := ceil32 (fieldAt p 40 4)
  let inside := fun (x org ext : Nat) => decide (org ≤ x ∧ x < org + ext)
  if inside (g / S0) (fieldAt p 20 2) (fieldAt p 32 2) && inside (g % S0) (fieldAt p 22 2) es0 &&
      inside i (fieldAt p 24 4 / 32) nr && inside j (fieldAt p 28 4 / 32) nc then
    let i := i - fieldAt p 24 4 / 32
    let j := j - fieldAt p 28 4 / 32
    let h := ((g / S0 - fieldAt p 20 2) * es0 + (g % S0 - fieldAt p 22 2)) * nr * nc
    let k := if pieceGord p then h + j * nr + i else h + i * nc + j
    some ((fieldAt p 48 8 + k * pitch (pieceFmt p) (pieceTsc p) + (if pieceTsc p then 4 else 0)) % 2 ^ 47)
  else none

/-- Widen a segment of D to the working format (R454): its bytes, and whether a widened value is NaN. -/
def widenSeg (dfmt wfmt : Nat) (bs : List Byte) : List Byte × Bool :=
  let elem := fun (i : Nat) =>
    if dfmt = 4 then
      let g := 132 * (i / 128)
      widen 4 (byteAt bs (g + 4 + i % 128)) (some (e8m0 (byteAt bs (g + i % 128 / 32))))
    else widen 0 (fieldAt bs (2 * i) 2) none
  let vals := (List.range 512).map elem
  if dfmt = wfmt then (bs, vals.any isNan32)
  else if wfmt = 10 then (vals.flatMap (fun w => leBytes 4 w.toNat), vals.any isNan32)
  else
    let out := (List.range 512).map (fun i =>
      let g := 132 * (i / 128)
      let v := (elemNum 4 (byteAt bs (g + 4 + i % 128))).mul (e8m0 (byteAt bs (g + i % 128 / 32)))
      (bf16.narrow .rne v).1)
    (out.flatMap (fun w => leBytes 2 w), vals.any isNan32)

/-- The job of a space. -/
def State.jobAt (s : State) (space : Nat) : Option Job := (s.jobs.find? (fun j => j.1 == space)).map (·.2)

/-- Where a DIST packet's segment lies in the working copy: its address and bytes widened; none outside the piece. -/
def State.distPlace (s : State) (c : Nat) (p : Pkt) : Option (Nat × List Byte × Bool) :=
  let b := s.bucket c (tagBucket p.tag)
  let rec0 := b.first + 16 * bitsOf p.addr 0 24
  let piece := ((s.jobAt (s.chanSpace c)).map (·.pieces)).getD [] |>.find? (fun q => pieceTag q == b.tensor)
  (piece.bind (fun q => pieceTile q (rec0 / 32))).map (fun tile =>
    (tile + (if isBlock b.wfmt then rec0 % 32 / 4 * groupBytes b.wfmt else rec0 % 32 * lineBytes b.wfmt), widenSeg b.dfmt b.wfmt (s.clear p)))

/-- Must a DIST packet wait for a channel that a retrain holds? -/
def State.distHeld (s : State) (p : Pkt) : Bool :=
  let c := tagChan p.tag
  (s.distPlace c p).any (fun x => s.redHeld (s.chanSpace c) x.1 x.2.1.length)

/-- A DIST packet at its receiver (R454). -/
def State.takeDist (s : State) (p : Pkt) : State :=
  match s.redTake p with
  | .error t => t
  | .ok c =>
    let k := tagBucket p.tag
    let x := s.chan c
    let seq := tagInst p.tag
    let newest := Tab.get (fun _ => 0) x.applied k
    let space := s.chanSpace c
    if newest ≠ 0 ∧ seqBefore seq (newest - 1) then s.redAck c p
    else match s.distPlace c p with
      | none => (s.record (Reg.redDie c) 0x173 2 (s.unitDie (Reg.redDie c)) 0 0 0 0).nak p (Reg.redDie c) 4 (leBytes 4 3)
      | some (va, r) =>
        match s.redMapped space va r.1.length with
        | (t, some e) => (t.redXlate c 1 e (bitsOf p.addr 0 24)).redBusy c p
        | (t, none) =>
          let t := (t.redWrite space va r.1).1
          let t := if r.2 then t.orReg (Reg.redFlags (Reg.redDie c)) 8 else t
          (t.setChan c { t.chan c with applied := Tab.set (fun _ => 0) (t.chan c).applied k (seq + 1) }).redAck c p

def execDist (n : Nat) (s : State) : Out :=
  match s.takePkt 0x13 n with
  | none => .next s
  | some (p, t) => if s.distHeld p then .next s else .next (t.takeDist p)

/-- A DIST_DONE's fill goes to the peg unit of the bucket's landed peg here, once for each source and TAG (R455). -/
def execDistDone (n : Nat) (s : State) : Out :=
  match s.takePkt 0x15 n with
  | none => .next s
  | some (p, t) =>
    match t.redTake p with
    | .error u => .next u
    | .ok c =>
      let x := t.chan c
      let seq := tagInst p.tag
      let near := fun (y : Nat × Nat) => y.1 != p.src || y.2 % 65536 != p.tag % 65536 || decide ((seq + 16384 + 65536 - tagInst y.2) % 65536 < 32768)
      if x.doneSeen.contains (p.src, p.tag) then .next (t.redAck c p)
      else
        let t := t.setChan c { x with doneSeen := (p.src, p.tag) :: x.doneSeen.filter near }
        let f : Fill := ⟨(t.bucket c (tagBucket p.tag)).landed, t.chanSpace c, unitWord p.src p.sdie 0 0 0 0 5, none, some (p.src, p.sdie, p.tag, p.addr)⟩
        .next { t with pegs := { t.pegs with fills := t.pegs.fills ++ [f] } }

/-- DIST_DONE to a rank. PEG is the landed peg of the own table: another member's table is not known here. -/
def State.sendDone (s : State) (c bucket inst rank : Nat) : State :=
  s.sendReq (s.redReq c 0x15 (s.member c rank) (redTag c bucket inst) (s.chanRank c * 2 ^ 25) (leBytes 8 0)
    (some (s.bucket c bucket).landed))

/-! ### Answers to this chapter's requests -/

/-- The rank of a package. -/
def State.rankOf (s : State) (c pkg : Nat) : Nat := ((List.range (s.chanM c)).find? (fun r => s.member c r == pkg)).getD 0

/-- An acknowledged request of this chapter. -/
def State.redAcked (s : State) (r : Req) : State :=
  let c := tagChan r.tag
  match r.kind with
  | 0x10 => s.sentCheck c
  | 0x13 =>
    let x := s.chan c
    let rank := s.rankOf c r.dst
    let seq := tagInst r.tag
    let b := s.bucket c (tagBucket r.tag)
    let got := (seq, rank, bitsOf r.addr.toNat 0 24) :: x.acks.filter (fun y => y != (seq, rank, bitsOf r.addr.toNat 0 24))
    if (got.filter (fun y => y.1 == seq && y.2.1 == rank)).length = s.shardLen c b (s.chanRank c) then
      let s := s.setChan c { x with acks := got.filter (fun y => !(y.1 == seq && y.2.1 == rank)) }
      if x.bad.contains (seq, rank) then s else s.sendDone c (tagBucket r.tag) seq rank
    else s.setChan c { x with acks := got }
  | _ => s

/-- A request of this chapter refused with NAK reason 4. -/
def State.redRefused (s : State) (r : Req) : State :=
  let c := tagChan r.tag
  if r.kind = 0x10 then
    let i := (((s.chan c).send).map (·.inst)).getD (tagInst r.tag)
    ((s.redFault c 0x502 i (tagBucket r.tag) (s.rankOf c r.dst) 0).stopSend c)
  else if r.kind = 0x13 then
    let x := s.chan c
    s.setChan c { x with bad := (tagInst r.tag, s.rankOf c r.dst) :: x.bad }
  else s

/-- A request of this chapter that failed under R405 (R433, R457). -/
def State.redFailed (s : State) (r : Req) : State :=
  let c := tagChan r.tag
  let rank := s.rankOf c r.dst
  if r.kind = 0x10 then
    let i := (((s.chan c).send).map (·.inst)).getD (tagInst r.tag)
    ((s.redFault c 0x507 i (tagBucket r.tag) rank 0).stopSend c).endStep c true
  else if r.kind = 0x13 ∨ r.kind = 0x15 then
    let x := s.chan c
    if x.bad.contains (tagInst r.tag, rank) then s
    else
      let s := s.redFault c 0x508 (tagInst r.tag) (tagBucket r.tag) rank 0
      { s.setChan c { x with bad := (tagInst r.tag, rank) :: x.bad } with
        reqs := s.reqs.filter (fun q => !((q.kind == 0x13 || q.kind == 0x15) && q.tag == r.tag && q.dst == r.dst)) }
  else s

/-! ### Registers -/

/-! ### The fall-back adders (R446, R447) -/

/-- Can nothing make the sums of a channel's step: FB names no core, or the home die has failed and FB is not set (R447)? -/
def State.noAdder (s : State) (c : Nat) : Bool :=
  if (s.chan c).fb then s.fbCores c == 0 else s.guyOpen.contains (Reg.redDie c)

/-- A write of RED_CHAN_STEP_SEQ opens a step (R429, R439): its instances, nothing seen or missing, and the adders that FB now names (R446). A
channel whose sums nothing can make ends the step at once. What the distribution of an earlier step waits for stays. -/
def State.stepSeqWrite (s : State) (c v : Nat) : State :=
  let s := s.setRegN (Reg.redSeq c) v
  if !s.chanEn c then s
  else
    let s := s.stopSend c
    let x := s.chan c
    let s := s.putChan c { x with
      inst := v, send := none, phase := 1, stopped := false, closed := [], written := [], seen := [], missing := [], added := [],
      parts := [], late := false, scalars := [], scalarSent := false, normDone := false, fb := s.chanField c 5 1 == 1 }
    if s.noAdder c then s.endStep c true else s

/-- Before a reset of a home die clears them: the configuration registers of its enabled channels (R446). -/
def State.chanSetup (s : State) (die : Nat) : List (Nat × List Nat) :=
  ((List.range 64).filter (fun c => Reg.redDie c == die && s.chanEn c)).map (fun c =>
    (c, [s.regN (Reg.red c), s.regN (Reg.redTable c), s.regN (Reg.redTime c), s.regN (Reg.redSlots c)]))

/-- After the reset the supervisor writes them again, with FB where fall-back cores are named (R446; DEDUCED, log entry 53). -/
def State.restoreChans (s : State) (die cores : Nat) (saved : List (Nat × List Nat)) : State :=
  let s := if saved.isEmpty then s else s.setRegN (Reg.guy die + 0x41000) cores
  saved.foldl (fun t x =>
    let v := fun (i : Nat) => (x.2[i]?).getD 0
    (((t.setRegN (Reg.red x.1) (if cores = 0 then v 0 else withBits (v 0) 5 1 1)).setRegN (Reg.redTable x.1) (v 1)).setRegN
      (Reg.redTime x.1) (v 2)).setRegN (Reg.redSlots x.1) (v 3)) s

def execChannelStepSeq (ch : Fin 64) (path : Path) (v : BitVec 64) (s : State) : Out :=
  s.guarded path (Reg.redSeq ch) (fun s => s.stepSeqWrite ch v.toNat)

/-- ABORT ends the open step without notices. -/
def State.redCtrlWrite (s : State) (c v : Nat) : State := if v.testBit 0 then s.endStep c false else s

def execChannelAbort (ch : Fin 64) (path : Path) (s : State) : Out := s.guarded path (Reg.redCtrl ch) (fun s => s.redCtrlWrite ch 1)

/-- Is a write of the channel's configuration refused: has it an open instance? -/
def State.chanBusy (s : State) (c : Nat) : Bool := (s.chan c).phase == 1

/-- The quotas of the enabled channels of a die after channel c's SLOTS would be v. -/
def State.quotaOk (s : State) (c v : Nat) : Bool :=
  let on := (List.range 64).filter (fun o => o % 2 == c % 2 && (o == c || s.chanEn o))
  let sum := fun (lo len : Nat) => on.foldl (fun a o => a + (if o = c then bitsOf v lo len else s.fld (Reg.redSlots o) lo len)) 0
  decide (sum 0 12 ≤ 2048 ∧ sum 16 13 ≤ 4096)

end Sys2Proof.Machine
end

