-- ==== Sys2Proof/Machine/Resets.lean ====
section
/-! DEFINITION. The reset of a core (R48, R197, R521 to R525). -/
namespace Sys2Proof.Machine

/-- A transfer of an OUT or ADD stream that the network already carries is committed at its destination (R525). -/
def State.commitInFlight (s : State) (c : Nat) (f : Xfer) : State :=
  let m := s.strm c f.slot
  if m.cls = 2 ∨ m.d.kind = 0 ∨ f.written ∨ f.tile < m.done then s
  else
    let a := m.xferAddr f
    match s.window a with
    | .tier va =>
      match s.usable (strCaches c) (s.coreSpace c) va m.d.kind f.len with
      | some k => if m.d.kind = 2 then s.mapAdd k va f.bytes else s.mapWrite k va f.bytes
      | none => s
    | w => if w.onDie then s.writeFar m [f] else s

/-- Grants, reports, watches and takes of a core's engines are gone; its grants go back (R277, R525). -/
def State.dropWaits (s : State) (c : Nat) : State :=
  let p := s.pegs
  let back := (p.grants.filter (fun w => w.core == c)).map (·.peg) ++ (List.range 6).filterMap (fun e => (s.eng c e).grant)
  { s with pegs := { p with
      watches := p.watches.filter (fun w => w.core != c), takes := p.takes.filter (fun w => w.core != c),
      reports := p.reports.filter (fun r => r.1.core != c), grants := p.grants.filter (fun w => w.core != c),
      returns := p.returns ++ back } }

/-- The fills that the last packets of groups carry, of local OUT and ADD streams whose group's requests have all been started (R260, R525). -/
def State.fillsInFlight (s : State) (c : Nat) : List Fill :=
  (List.range 16).flatMap (fun slot =>
    let m := s.strm c slot
    if (m.state = 1 ∨ m.state = 3) ∧ m.cls ≠ 2 ∧ m.d.kind ≠ 0 then
      ((List.range m.tile).filter (fun t => decide (m.done ≤ t) && m.fillAfter t && !m.drops t)).map (fun _ =>
        (⟨m.d.peg, s.fillSpace c, s.unitEng c 4, none, none⟩ : Fill))
    else [])

/-- The control core's stores to tiers and its arms that the network already carries are committed; what answers them is discarded (R525). -/
def State.commitStore (s : State) (c : Nat) (x : CtlStore) : State :=
  match s.tierVa x.addr with
  | none => s
  | some va =>
    if x.done || x.held then s
    else match s.usable (unitCaches (c / 4)) (s.coreSpace c) va 1 x.size with
      | some m => s.mapWrite m va (leBytes x.size x.data.toNat)
      | none => s
def State.commitArm (s : State) (a : Arm) : State :=
  let s := s.pegScreen a.peg
  let w := s.pegWord a.peg
  if !pegOwned w || pegState w ≠ 0 then s else s.setPeg a.peg (pegArmed w a.v) 6

/-- What the network carries for a core when its reset begins is settled: transfers, fills, stores and arms. A fill on its way goes on, and its
answer is discarded. -/
def State.settleFlight (s : State) (c : Nat) : State :=
  let fills := s.fillsInFlight c
  let s := (s.str c).xfers.foldl (fun t f => t.commitInFlight c f) s
  let s := (s.core c).stores.foldl (fun t x => t.commitStore c x) s
  let s := (s.core c).arms.foldl (fun t a => t.commitArm a) s
  let mine := fun (f : Fill) => f.src.any (fun x => x.1 == c)
  { s with pegs := { s.pegs with fills := s.pegs.fills.map (fun f => if mine f then { f with src := none } else f) ++ fills } }

/-- Registers of the per-core block that a core reset keeps. -/
def remapReg (off : Nat) : Bool := off % 0x10000 == 0x2000 || off % 0x10000 == 0x4000

/-- A core with what a core reset clears cleared. -/
def Core.cleared (k : Core) : Core :=
  { clkOn := k.clkOn, clkHeld := k.clkHeld, kept := k.kept, remoteSeq := k.remoteSeq, remotePeriod := k.remotePeriod, pegSeq := k.pegSeq,
    str := { used := k.str.used } }

/-- Core reset (R523): engines, queues, tallies, registers, stream slots and waits cleared, fields at their reset values; the
island's clock, OPE_REMAP, the store room and accumulator memories are kept, and so is what R571 counts in the key period. Each traffic class
begins with no credit (R255). -/
def State.resetCore (s : State) (c : Nat) : State :=
  let s := s.settleFlight c
  let s := s.dropWaits c
  let s := s.resetRegs (Reg.coreBase c) (Reg.coreBase (c + 1)) remapReg
  (s.setCore c (s.core c).cleared).zeroCredit c

/-- A partition reset also covers the region's seventeenth core slot, which carries no identity (R521). -/
def State.resetSpare (s : State) (q : Nat) : State := s.setCore (64 + q) (s.core (64 + q)).cleared

/-- The key period of a core's remote transfers ends (R571). -/
def State.freshPeriod (s : State) (c : Nat) : State :=
  s.setCore c { s.core c with str := { (s.core c).str with used := [] }, remotePeriod := 0 }

/-- Zero a core's store room and accumulator memories (R301). -/
def State.zeroCore (s : State) (c : Nat) : State :=
  ((s.zeroMem (storeKey c 0) storeSize).zeroMem (accKey c 0 0) 0x20000).zeroMem (accKey c 1 0) 0x20000

end Sys2Proof.Machine
end

