-- ==== Sys2Proof/Machine/Rings.lean ====
section
/-! DEFINITION. The rings between supervisor and controller (R459 to R469): entries, checks and tags, completions, polls, entries over
the fabric, and RESULTs. -/
namespace Sys2Proof.Machine

namespace Reg
def ringBase (r : Nat) : Nat := 0x40000 + 0x20 * r
def ringCtlb (r : Nat) : Nat := 0x40008 + 0x20 * r
def ringCfg (r : Nat) : Nat := 0x40010 + 0x20 * r
def ringStat (r : Nat) : Nat := 0x40018 + 0x20 * r
def ringPass (r : Nat) : Nat := 0x40180 + 8 * r
def jobPoll : Nat := 0x40100
def stepMore : Nat := 0x40108
end Reg

/-! ### Jobs and keys -/

def State.jobById (s : State) (id : Nat) : Option (Nat × Job) := s.jobs.find? (fun j => j.2.id == id && id != 0)

/-- The identity of a job's key (R567): 0 memory, 1 payload, 2 fabric, 3 control. No identity is 0. -/
def Job.key (j : Job) (use period : Nat) : Nat := Config.jobKey j.secret j.id use period + 1

/-- A fault of the supervisor (R495). -/
def State.supFault (s : State) (code d0 d1 d2 d3 : Nat) : State := s.record 0 code 2 s.unitPkg d0 d1 d2 d3

/-- A job's own fault, recorded by the supervisor. -/
def State.jobFault (s : State) (j : Job) (code d0 d1 : Nat) : State := s.recordFor (some (j.id, j.key 3 0)) 0 code 2 s.unitPkg d0 d1 0 0

/-- Count a failed check of class k at the Britum die (R548). -/
def State.chkFail (s : State) (k : Nat) : State := s.bump (Reg.chkFails k) 0 32

/-- A failed check of class k whose structure's chapter gives it no code: counted, and recorded as CHK_FAIL (R548). -/
def State.chkFault (s : State) (k fold want found : Nat) : State := (s.chkFail k).supFault 0x0C1 k fold want found

/-! ### Entries (R463) -/

def entType (bs : List Byte) : Nat := byteAt bs 0
def entFlags (bs : List Byte) : Nat := byteAt bs 1
def entJob (bs : List Byte) : Nat := fieldAt bs 4 4
def entBody (bs : List Byte) : List Byte := (bs.drop 8).take 44

/-- The authentication tag of R572. -/
def entTag (key : Nat) (bs : List Byte) (seq pass : Nat) : Nat :=
  if key = 0 then 0 else Config.cmac key (bs.take 52 ++ leBytes 8 seq ++ leBytes 8 pass) % 2 ^ 64

/-- An entry with its tag and check. -/
def mkEntry (etype flags job : Nat) (body : List Byte) (key seq pass : Nat) : List Byte :=
  let b := leBytes 1 etype ++ leBytes 1 flags ++ [0, 0] ++ leBytes 4 job ++ (body ++ List.replicate 44 0).take 44
  let b := b ++ leBytes 8 (entTag key b seq pass)
  b ++ leBytes 4 (check32c b seq)

def entCheckOk (bs : List Byte) (seq : Nat) : Bool := bs.length == 64 && fieldAt bs 60 4 == check32c (bs.take 60) seq

/-- Body bytes of a type that are used; the others are reserved (R466, R486). -/
def bodyUsed (etype i : Nat) : Bool :=
  if etype = 1 then decide (i < 16)
  else if etype = 6 then decide (i < 24)
  else if etype = 0x10 then decide (i < 10) || (decide (12 ≤ i) && decide (i < 40))
  else if etype = 0x40 then decide (i < 25)
  else if etype = 0x41 then decide (i < 24)
  else false

/-- No reserved value in an entry. -/
def entClean (bs : List Byte) : Bool :=
  let body := entBody bs
  decide (entFlags bs < 4) && fieldAt bs 2 2 == 0 &&
  (List.range 44).all (fun i => bodyUsed (entType bs) i || byteAt body i == 0) &&
  (entType bs != 6 || (fieldAt body 0 8 % 65536 == 0 && fieldAt body 8 8 % 65536 == 0)) &&
  (entType bs != 0x40 || decide (byteAt body 24 < 2))

/-! ### Rings -/

def State.ring (s : State) (r : Nat) : Ring := Tab.get (fun _ => {}) s.sup.rings r
def State.setRing (s : State) (r : Nat) (x : Ring) : State := { s with sup := { s.sup with rings := Tab.set (fun _ => {}) s.sup.rings r x } }
def State.ringOn (s : State) (r : Nat) : Bool := s.fld (Reg.ringCfg r) 5 1 == 1
def State.ringSize (s : State) (r : Nat) : Nat := 2 ^ s.fld (Reg.ringCfg r) 0 5
def State.pass (s : State) (r : Nat) : Nat := s.regN (Reg.ringPass r)
def State.base (s : State) (r : Nat) : Nat := s.regN (Reg.ringBase r)
def State.ctlb (s : State) (r : Nat) : Nat := s.regN (Reg.ringCtlb r)

/-- May the rings be served: the steward port's bus mastering is on and no supervisor fault stands (R544, R620). -/
def State.serving (s : State) : Bool := s.bu.ready && !s.stopped && s.busMaster

/-- Room in ring 1 or 2. -/
def State.ringRoom (s : State) (r : Nat) : Bool :=
  s.serving && s.ringOn r && decide ((s.ring r).prod < (s.ring r).cons + s.ringSize r)

/-- Write an entry to ring 1 or 2, then PROD, then the MSI-X message it may ask for. -/
def State.produce (s : State) (r : Nat) (h : Held) : State :=
  let x := s.ring r
  let bs := mkEntry h.etype 0 h.job h.body h.key x.prod (s.pass r)
  let s := s.wr (busKey (s.base r + 64 * (x.prod % s.ringSize r))) bs
  let s := s.wr (busKey (s.ctlb r)) (leBytes 8 (x.prod + 1))
  let s := s.setRing r { x with prod := x.prod + 1 }
  let v := s.fld (Reg.ringCfg r) 8 8
  if s.fld (Reg.ringCfg r) 6 1 = 1 ∧ v < 16 then { s with notices := s.notices ++ [[0x605, v]] } else s

/-- Drop the oldest held entry of a type. -/
def dropHeld (etype : Nat) : List Held → Option (List Held)
  | [] => none
  | h :: hs => if h.etype = etype then some hs else (dropHeld etype hs).map (h :: ·)

/-- Form a completion entry: written, or held with R468's dropping. -/
def State.complete1 (s : State) (h : Held) : State :=
  if s.sup.held.isEmpty && s.ringRoom 1 then s.produce 1 h
  else if s.sup.held.length < 256 then { s with sup := { s.sup with held := s.sup.held ++ [h] } }
  else
    match (dropHeld 0x22 s.sup.held).orElse (fun _ => (dropHeld 0x21 s.sup.held).orElse (fun _ => dropHeld 0x25 s.sup.held)) with
    | some rest => ({ s with sup := { s.sup with held := rest ++ [h] } }).bump (Reg.ringStat 1) 32 32
    | none =>
      if h.etype = 0x22 ∨ h.etype = 0x21 ∨ h.etype = 0x25 then s.bump (Reg.ringStat 1) 32 32
      else { s with sup := { s.sup with held := s.sup.held ++ [h] } }

/-- Write held entries while there is room; n bounds them. -/
def State.flush : Nat → State → State
  | 0, s => s
  | n + 1, s =>
    match s.sup.held with
    | [] => s
    | h :: hs => if s.ringRoom 1 then State.flush n (({ s with sup := { s.sup with held := hs } }).produce 1 h) else s

/-- A completion of a job. -/
def State.postJob (s : State) (etype : Nat) (j : Job) (body : List Byte) : State := s.complete1 ⟨etype, j.id, j.key 3 0, body⟩

/-- An event-ring entry, where there is room: NOTICE with its code and detail (R466). -/
def State.postNotice (s : State) (code : Nat) (detail : List Byte) : State :=
  if s.ringRoom 2 then s.produce 2 ⟨0x31, 0, 0, leBytes 2 code ++ [0, 0] ++ detail⟩ else s.bump (Reg.ringStat 2) 32 32

/-! ### RESULTs (R466, R467) -/

def resultBody (seq status code detail : Nat) : List Byte :=
  leBytes 8 seq ++ leBytes 2 status ++ leBytes 2 code ++ leBytes 4 detail

/-- The job of an entry's RESULT and its control key; 0 where the job is not known. A LOAD that is done is for the job that it loaded, the last. -/
def State.resultFor (s : State) (e : Entry) (status : Nat) : Nat × Nat :=
  let id := if entType e.bytes = 1 ∧ status = 0 then ((s.jobs.getLast?).map (fun j => j.2.id)).getD 0 else entJob e.bytes
  match s.jobById id with
  | some j => (id, j.2.key 3 0)
  | none => (0, 0)

/-- The one RESULT of a job-ring entry, tagged under a job's key. -/
def State.postResult (s : State) (e : Entry) (jk : Nat × Nat) (status code detail : Nat) : State :=
  s.complete1 ⟨0x20, if jk.2 = 0 then 0 else jk.1, jk.2, resultBody e.seq status code detail⟩

/-- Post the RESULTs of refused entries at the head of the job ring. -/
def State.drain : Nat → State → State
  | 0, s => s
  | n + 1, s =>
    match s.sup.jobq with
    | [] => s
    | e :: es =>
      if e.bad = 0 ∨ s.sup.work.isSome then s
      else State.drain n (({ s with sup := { s.sup with jobq := es } }).postResult e (s.resultFor e 1) 1 e.bad 0)

/-- The job ring's entry in progress is finished once its work is done and its relays are answered. -/
def State.finishWork (s : State) : State :=
  match s.sup.work, s.sup.jobq with
  | some w, e :: es =>
    if w.done && w.relays.isEmpty then
      let s := { s with sup := { s.sup with work := none, jobq := es } }
      (s.postResult e (if w.key = 0 then s.resultFor e w.status else (w.job, w.key)) w.status w.code w.detail).drain es.length
    else s
  | _, _ => s

/-- The head of the job ring, if it is of this type and not begun. -/
def State.jobHead (s : State) (etype : Nat) : Option Entry :=
  match s.sup.jobq with
  | e :: _ => if s.serving && entType e.bytes == etype && s.sup.work.isNone && e.bad == 0 then some e else none
  | [] => none

/-- Refuse the head of the job ring. -/
def State.refuseHead (s : State) (code detail : Nat) : State :=
  ({ s with sup := { s.sup with work := some { status := 1, code := code, detail := detail } } }).finishWork

/-! ### Entries over the fabric (R469) -/

def pairKey (space pkg : Nat) : Nat := space * 8192 + pkg

/-- The TAG of a CTRL entry. -/
def ctrlTag (space seq : Nat) : Nat := (seq * 16 + space) % 2 ^ 32

/-- Send an entry of a job to another package; its TAG. -/
def State.sendEntry (s : State) (space dst etype flags : Nat) (j : Job) (body : List Byte) : State × Nat :=
  let seq := Tab.get (fun _ => 0) s.pairOut (pairKey space dst)
  let s := { s with pairOut := Tab.set (fun _ => 0) s.pairOut (pairKey space dst) (seq + 1) }
  let bs := mkEntry etype flags j.id body (j.key 3 0) seq 0
  (s.sendReq { tag := ctrlTag space seq, kind := 8, dst := dst, addr := 0, len := 64, bytes := bs, space := some space,
               first := s.ns, last := s.ns }, ctrlTag space seq)

/-- The packages of the stage map, but this one. -/
def Job.others (j : Job) (own : Nat) : List Nat := (j.stages.flatten.eraseDups).filter (· != own)

/-- Relay an entry to every other package of the job: the packages and TAGs whose answers are awaited. -/
def State.relay (s : State) (space etype flags : Nat) (j : Job) (body : List Byte) : State × List (Nat × Nat) :=
  (j.others s.pkg).foldl (fun r dst => let x := r.1.sendEntry space dst etype flags j body; (x.1, r.2 ++ [(dst, x.2)])) (s, [])

/-- A CTRL entry was answered or has failed. -/
def State.relayDone (s : State) (r : Req) : State :=
  match s.sup.work with
  | some w => ({ s with sup := { s.sup with work := some { w with relays := w.relays.filter (· != (r.dst, r.tag)) } } }).finishWork
  | none => s

/-- Begin the entry at the head of the job ring: its work is under way, relayed where FANOUT asks for it. -/
def State.beginWork (s : State) (e : Entry) (space : Nat) (j : Job) (done : Bool) : State :=
  let r := if (entFlags e.bytes).testBit 0 then s.relay space (entType e.bytes) (entFlags e.bytes - 1) j (entBody e.bytes) else (s, [])
  ({ r.1 with sup := { r.1.sup with work := some { relays := r.2, done := done, job := j.id, key := j.key 3 0 } } }).finishWork

/-! ### Reading rings (R462, R464) -/

/-- The control key of an entry's job: none where the job is not known, 0 where the entry carries no tag. -/
def State.entryKey (s : State) (bs : List Byte) : Option Nat :=
  if entJob bs = 0 ∨ entType bs = 1 then some 0 else (s.jobById (entJob bs)).map (fun j => j.2.key 3 0)

/-- The second step of R464 for an entry of ring 0 or 3: the fault it is refused for, or 0. -/
def State.entryFault (s : State) (r : Nat) (bs : List Byte) (seq pass : Nat) : Nat :=
  match s.entryKey bs with
  | none => 0x405
  | some key =>
    if fieldAt bs 52 8 ≠ entTag key bs seq pass then 0x404
    else if !entClean bs ∨ (if r = 0 then !(decide (1 ≤ entType bs ∧ entType bs ≤ 6)) else entType bs != 0x10) ∨ (entJob bs = 0 ∧ entType bs ≠ 1) then 0x405
    else 0

/-- Does a LOAD or a TEARDOWN hold the job ring (R467)? -/
def State.ringHeld (s : State) : Bool := s.sup.jobq.any (fun e => e.bad == 0 && (entType e.bytes == 1 || entType e.bytes == 5))

/-- Must a REQUEST wait in its ring: its job serves here, and no slot is free for it beside those that the requests taken before it will use
(R486)? -/
def State.requestWaits (s : State) (bs : List Byte) : Bool :=
  match s.jobById (entJob bs) with
  | none => false
  | some (_, j) =>
    match j.serving with
    | none => false
    | some x => x.takers.contains s.pkg &&
        decide (((List.range x.slots).filter (fun i => (Tab.get (fun _ => none) j.slots i).isNone)).length ≤
          (s.sup.reqq.filter (fun e => entJob e.bytes == entJob bs)).length)

/-- Take entries of ring 0 or 3 in sequence, at most 16, to the first that fails its check; none of ring 0 behind a LOAD or TEARDOWN, and none
of ring 3 that waits for a slot. -/
def State.takeEntries (s : State) (r : Nat) : List (List Byte) → State
  | [] => s
  | bs :: rest =>
    let x := s.ring r
    if x.prod ≤ x.cons ∨ 256 ≤ s.sup.held.length ∨ (r = 0 ∧ s.ringHeld) then s
    else if !entCheckOk bs x.cons then
      let s := ((s.chkFail 4).supFault 0x403 0 0 0 0).bump (Reg.ringStat r) 16 16
      let s := s.setRing r { x with fails := x.fails + 1 }
      if 16 ≤ x.fails + 1 then s.setFld (Reg.ringStat r) 0 1 1 else s
    else
      let bad := s.entryFault r bs x.cons (s.pass r)
      if r = 3 ∧ bad = 0 ∧ s.requestWaits bs then s
      else
        let s := if bad = 0 then s else s.supFault bad 0 0 0 0
        let s := (s.setRing r { x with cons := x.cons + 1, fails := 0 }).wr (busKey (s.ctlb r + 8)) (leBytes 8 (x.cons + 1))
        let e : Entry := ⟨x.cons, bs, bad⟩
        let s := if r = 0 then { s with sup := { s.sup with jobq := s.sup.jobq ++ [e] } }
          else if bad = 0 then { s with sup := { s.sup with reqq := s.sup.reqq ++ [e] } } else s
        s.takeEntries r rest

/-- One ring of a poll. -/
def State.pollRing (s : State) (r prod : Nat) (entries : List (List Byte)) : State :=
  if s.ringOn r && s.fld (Reg.ringStat r) 0 1 == 0 then
    (s.setRing r { s.ring r with prod := max (s.ring r).prod prod }).takeEntries r (entries.take 16)
  else s

/-- A poll: PROD and the new entries of rings 0 and 3, and CONS of rings 1 and 2, as they stand in controller memory. CONS is read only where the
last value known leaves no room. -/
def execJobPoll (prod0 : BitVec 64) (entries0 : List (List (BitVec 8))) (prod3 : BitVec 64) (entries3 : List (List (BitVec 8)))
    (cons1 cons2 : BitVec 64) (s : State) : Out :=
  if s.serving && decide (s.sup.polled + 500 * s.fld Reg.jobPoll 0 12 ≤ s.ns) then
    let s := { s with sup := { s.sup with polled := s.ns } }
    let read := fun (t : State) (r v : Nat) =>
      if t.ringOn r ∧ (t.ring r).cons + t.ringSize r ≤ (t.ring r).prod ∧ v ≤ (t.ring r).prod then t.setRing r { t.ring r with cons := max (t.ring r).cons v } else t
    let s := (read (read s 1 cons1.toNat) 2 cons2.toNat)
    let s := State.flush s.sup.held.length s
    let s := s.pollRing 0 prod0.toNat entries0
    let s := State.drain s.sup.jobq.length s
    .next (s.pollRing 3 prod3.toNat entries3)
  else .next s

/-- A write of JOB_RING_CFG of an enabled ring only disables it; setting EN begins a pass (R464). -/
def State.ringCfgWrite (s : State) (path : Path) (r v : Nat) : State :=
  let d : RegDesc := regDesc (Reg.ringCfg r)
  if s.ringOn r then
    if v.testBit 5 then s.unmapped (Reg.ringCfg r) else s.setFld (Reg.ringCfg r) 5 1 0
  else
    let s := s.plainWrite path d (Reg.ringCfg r) (Reg.ringCfg r) v (2 ^ 32 - 1)
    if s.ringOn r then
      let s := (s.setRing r {}).setRegN (Reg.ringPass r) (s.pass r + 1)
      (s.setFld (Reg.ringStat r) 0 1 0).setFld (Reg.ringStat r) 16 16 0
    else s

def execRingEnable (r : Fin 4) (path : Path) (v : BitVec 32) (s : State) : Out :=
  s.guarded path (Reg.ringCfg r) (fun s => s.ringCfgWrite path r v.toNat)

end Sys2Proof.Machine
end

