-- ==== Sys2Proof/Machine/Load.lean ====
section
/-! DEFINITION. Job bundles (R471 to R477, R565, R566) and LOAD (R473): the checks in their order, and what an accepted bundle places. -/
namespace Sys2Proof.Machine

/-! ### The header and the section table (R471, R472) -/

def bundleJob (d : LoadData) : Nat := fieldAt d.header 8 4
def bundleSlot (d : LoadData) : Nat := byteAt d.header 448
def bundleFlags (d : LoadData) : Nat := byteAt d.header 449
def bundleSections (d : LoadData) : Nat := fieldAt d.header 6 2

def zeroAt (bs : List Byte) (at' n : Nat) : Bool := fieldAt bs at' n == 0

/-- The section of a type: its offset and size. -/
def sectionOf (d : LoadData) (typ : Nat) : Option (Nat × Nat) :=
  ((List.range (bundleSections d)).find? (fun i => fieldAt d.payload (32 * i) 2 == typ)).map
    (fun i => (fieldAt d.payload (32 * i + 8) 8, fieldAt d.payload (32 * i + 16) 8))

def sectionBytes (d : LoadData) (typ : Nat) : List Byte :=
  match sectionOf d typ with
  | some (off, size) => (d.payload.drop off).take size
  | none => []

/-- One entry of the section table holds. COUNT is held against the items of the sections whose items R472 names (DEDUCED, log entry 58). -/
def sectionOk (d : LoadData) (i : Nat) : Bool :=
  let typ := fieldAt d.payload (32 * i) 2
  let off := fieldAt d.payload (32 * i + 8) 8
  let size := fieldAt d.payload (32 * i + 16) 8
  let count := fieldAt d.payload (32 * i + 4) 4
  let items := match typ with
    | 1 => count == d.images.length
    | 3 => count == d.chans.length
    | 4 => size == 128 * count
    | 5 => size == 64 * count
    | 6 => size == 64 * count && count == d.init.length
    | 7 => count == d.pegs.length
    | _ => true
  items && decide (1 ≤ typ ∧ typ ≤ 9) && zeroAt d.payload (32 * i + 2) 2 && zeroAt d.payload (32 * i + 28) 4 && off % 64 == 0 &&
  decide (off + size ≤ d.payload.length) &&
  fieldAt d.payload (32 * i + 24) 4 == check32c ((d.payload.drop off).take size) off &&
  !(List.range i).any (fun k => fieldAt d.payload (32 * k) 2 == typ)

def headerOk (d : LoadData) (len : Nat) : Bool :=
  let h := d.header
  h.length == 512 && fieldAt h 0 4 == 0x424A4E48 && fieldAt h 4 2 == 1 && decide (3 ≤ bundleSections d ∧ bundleSections d ≤ 32) &&
  bundleJob d != 0 && zeroAt h 12 4 && fieldAt h 16 8 == len && zeroAt h 24 40 &&
  decide (1 ≤ bundleSlot d ∧ bundleSlot d ≤ 29) && decide (bundleFlags d < 2)

/-! ### The stage map (R477) -/

def popcount16 (x : Nat) : Nat := ((List.range 16).filter x.testBit).length

/-- The stage map's parts: header field, packages of each stage, core entries. -/
def mapStages (m : List Byte) : List (List Nat) :=
  let n := fieldAt m 0 2
  let list := 64 + 16 * n
  (List.range n).map (fun i =>
    (List.range (fieldAt m (64 + 16 * i + 4) 2)).map (fun k => fieldAt m (list + 2 * (fieldAt m (64 + 16 * i + 8) 4 + k)) 2))

def mapPkgs (m : List Byte) : Nat := ((List.range (fieldAt m 0 2)).map (fun i => fieldAt m (64 + 16 * i + 4) 2)).foldl (· + ·) 0

def mapCores (m : List Byte) : List CoreEnt :=
  let at0 := 64 + 16 * fieldAt m 0 2 + (2 * mapPkgs m + 63) / 64 * 64
  (List.range (4 * popcount16 (fieldAt m 24 2))).map (fun i =>
    let b := at0 + 16 * i
    ⟨byteAt m b, byteAt m (b + 1), fieldAt m (b + 2) 4, fieldAt m (b + 6) 2, fieldAt m (b + 8) 4, fieldAt m (b + 12) 2⟩)

/-- The stage map at an offset of the payload holds; n: distinct images. -/
def stageMapOk (m : List Byte) (off n : Nat) : Bool :=
  let cores := mapCores m
  let stages := List.range (fieldAt m 0 2)
  let list := 64 + 16 * fieldAt m 0 2
  let at0 := list + (2 * mapPkgs m + 63) / 64 * 64
  stages.all (fun i => zeroAt m (64 + 16 * i + 6) 2 && zeroAt m (64 + 16 * i + 12) 4 &&
    decide (fieldAt m (64 + 16 * i + 8) 4 + fieldAt m (64 + 16 * i + 4) 2 ≤ mapPkgs m)) &&
  (mapStages m).all (fun l => l.all (fun p => decide (p < 8192))) && decide (fieldAt m 6 2 < 8192) &&
  (List.range cores.length).all (fun i => zeroAt m (at0 + 16 * i + 14) 2) &&
  fieldAt m 60 4 == check32c (m.take 60) off && decide (1 ≤ fieldAt m 0 2 ∧ fieldAt m 0 2 ≤ 8192) && decide (fieldAt m 2 2 < fieldAt m 0 2) &&
  decide (1000 ≤ fieldAt m 16 4 ∧ fieldAt m 16 4 ≤ 1000000) && (List.range 13).any (fun k => fieldAt m 28 4 == 2 ^ (k + 4)) &&
  fieldAt m 32 8 % 4096 == 0 && decide (fieldAt m 32 8 < 2 ^ 47) && zeroAt m 40 20 &&
  cores.all (fun e => decide (e.core < 64) && (fieldAt m 24 2).testBit (e.core / 4) && decide (e.image < n) && e.stepOff % 64 == 0 &&
    decide (e.stepOff + 64 ≤ storeSize) && (e.bubOff == 0xFFFFFFFF || decide (e.bubOff + 64 ≤ storeSize))) &&
  (cores.map (·.core)).eraseDups.length == cores.length

/-! ### Piece records (R219, R220) -/

/-- The offset of the first field found wrong in piece record p, whose byte offset in the payload is off (R220). The rule does not say which
is first, nor which of two fields a test over both names: CHECK, a repeated TENSOR_ID, then ascending offsets; EXT and FLAGS of a pair
(DESIGN CHOICE, log entry 99). -/
def State.pieceBad (s : State) (p : List Byte) (off : Nat) (before : List (List Byte)) : Option Nat :=
  let f := fun (i n : Nat) => fieldAt p i n
  let tsc := (byteAt p 5).testBit 2
  let fmt := byteAt p 4
  let slots := f 32 2 * f 34 2 * ceil32 (f 36 4) * ceil32 (f 40 4)
  let extent := fun (org ext shape : Nat) => decide (f org 4 + f ext 4 ≤ f shape 4) && decide (1 ≤ f ext 4) &&
    (f ext 4 % 32 == 0 || f org 4 + f ext 4 == f shape 4)
  let tests : List (Nat × Bool) := [
    (60, f 60 4 == check32c (p.take 60) off),
    (0, !before.any (fun q => pieceTag q == pieceTag p)),
    (4, decide (fmt ≤ 11)),
    (5, decide (byteAt p 5 < 8) && (!tsc || decide (fmt ≤ 3))),
    (6, zeroAt p 6 2),
    (8, f 8 2 != 0), (10, f 10 2 != 0),
    (12, decide (1 ≤ f 12 4 ∧ f 12 4 ≤ 2097120)), (16, decide (1 ≤ f 16 4 ∧ f 16 4 ≤ 2097120)),
    (24, f 24 4 % 32 == 0), (28, f 28 4 % 32 == 0),
    (32, decide (1 ≤ f 32 2 ∧ f 20 2 + f 32 2 ≤ f 8 2)), (34, decide (1 ≤ f 34 2 ∧ f 22 2 + f 34 2 ≤ f 10 2)),
    (36, extent 24 36 12), (40, extent 28 40 16),
    (44, zeroAt p 44 4),
    (48, f 48 8 % 4 == 0 && decide (f 48 8 / 2 ^ 51 = s.pkg ∧ bitsOf (f 48 8) 48 3 = 0 ∧ 0x800000000000 ≤ f 48 8 % 2 ^ 48 ∧
      f 48 8 % 2 ^ 48 + slots * pitch fmt tsc ≤ 2 ^ 48)),
    (56, zeroAt p 56 4)]
  (tests.find? (fun t => !t.2)).map (·.1)

/-- The piece records of a bundle, and the first bad one: its tensor and the field's offset. -/
def bundlePieces (d : LoadData) : List (List Byte) :=
  let bs := sectionBytes d 5
  (List.range (bs.length / 64)).map (fun i => (bs.drop (64 * i)).take 64)

def State.piecesBad (s : State) (d : LoadData) : Option (Nat × Nat) :=
  let off := ((sectionOf d 5).getD (0, 0)).1
  let ps := bundlePieces d
  (List.range ps.length).findSome? (fun i =>
    let p := (ps[i]?).getD []
    (s.pieceBad p (off + 64 * i) (ps.take i)).map (fun k => (pieceTag p, k)))

/-! ### The owner map (R340, R474, R475) -/

def bundleOwners (d : LoadData) : List (List Byte) :=
  let bs := sectionBytes d 4
  (List.range (bs.length / 128)).map (fun i => (bs.drop (128 * i)).take 128)

def ownTensor (o : List Byte) : Nat := fieldAt o 0 4
def ownRecords (o : List Byte) : Nat := fieldAt o 4 4
def ownFirst (o : List Byte) : Nat := fieldAt o 8 8
def ownPkg (o : List Byte) : Nat := fieldAt o 16 2
def ownVa (o : List Byte) (c : Nat) : Nat := fieldAt o (24 + 8 * c) 8

/-- Does a rule slot's word use component c (F G W M V AUX D)? -/
def cfgUses (cfg c : Nat) : Bool :=
  match c with
  | 0 => cfg.testBit 6
  | 3 => bitsOf cfg 16 4 != 15
  | 4 => bitsOf cfg 20 4 != 15
  | 5 => bitsOf cfg 32 12 != 0
  | _ => true

/-- An owner-map item holds: its check, its ranges, and addresses only for the components that the rule of this package's own shard, cfg,
uses. -/
def ownerOk (o : List Byte) (i own cfg : Nat) : Bool :=
  fieldAt o 124 4 == check32c (o.take 124) i && ownRecords o != 0 && decide (ownPkg o < 8192) && decide (byteAt o 18 < 16) &&
  decide (byteAt o 19 < 8) && zeroAt o 20 4 && zeroAt o 80 44 && (List.range 7).all (fun c => decide (ownVa o c < 2 ^ 47)) &&
  (List.range 7).all (fun c => (ownPkg o == own && cfgUses cfg c) || ownVa o c == 0)

def overlap (a n b m : Nat) : Bool := decide (a < b + m ∧ b < a + n)

/-- The format of component c under a rule slot's word. -/
def ownFmt (cfg c : Nat) : Nat :=
  match c with
  | 1 => bitsOf cfg 8 4
  | 2 => bitsOf cfg 12 4
  | 3 => bitsOf cfg 16 4
  | 4 => bitsOf cfg 20 4
  | _ => bitsOf cfg 24 4

/-- Bytes of component c of an owner-map item under its rule slot's word. -/
def ownLen (cfg : Nat) (o : List Byte) (c : Nat) : Nat :=
  let f := ownFmt cfg c
  if !cfgUses cfg c then 0
  else match c with
    | 0 => (byteAt o 19 + ownRecords o + 7) / 8
    | 5 => 16 * bitsOf cfg 32 12 * ((ownRecords o + 31) / 32)
    | _ => recAt f (ownVa o c) (ownRecords o - 1) + (if f = 4 ∨ f = 5 then 132 else recBytes f)

def ruleWord (d : LoadData) (o : List Byte) : Nat := ((d.update.bind (fun u => u.cfg[byteAt o 18]?)).getD 0).toNat

/-- Two entries that name one parameter twice (R340): of one tensor's elements, or of this package's gradient ranges or state records, which
are W, M and V (R346). The entries of other packages name no ranges. -/
def ownClash (d : LoadData) (own : Nat) (a b : List Byte) : Bool :=
  let la := ownLen (ruleWord d a)
  let lb := ownLen (ruleWord d b)
  let states := [2, 3, 4]
  (ownTensor a == ownTensor b && overlap (ownFirst a) (ownRecords a) (ownFirst b) (ownRecords b)) ||
  (ownPkg a == own && ownPkg b == own &&
    (overlap (ownVa a 1) (la a 1) (ownVa b 1) (lb b 1) ||
     states.any (fun x => states.any (fun y => la a x != 0 && lb b y != 0 && overlap (ownVa a x) (la a x) (ownVa b y) (lb b y)))))

def ownerDup (d : LoadData) (own : Nat) : Option (Nat × Nat) :=
  let os := bundleOwners d
  (List.range os.length).findSome? (fun j =>
    ((List.range j).find? (fun i => ownClash d own ((os[i]?).getD []) ((os[j]?).getD []))).map (fun i => (i, j)))

/-! ### Channel tables (R427, R428) -/

def tableM (t : List Byte) : Nat := fieldAt t 0 2
def tableB (t : List Byte) : Nat := fieldAt t 2 2
def tableMember (t : List Byte) (r : Nat) : Nat := fieldAt t (64 + 2 * r) 2
def tableBucket (t : List Byte) (b : Nat) : List Byte := (t.drop (64 + memberBytes (tableM t) + 64 * b)).take 64
def chanOff (c : ChanDef) : Nat := bitsOf c.place.toNat 9 27 * 512
def chanCellar (c : ChanDef) : Nat := bitsOf c.place.toNat 0 2

/-- Records of a tensor's global shape. -/
def pieceRecords (p : List Byte) : Nat := 32 * (fieldAt p 8 2 * fieldAt p 10 2 * ceil32 (fieldAt p 12 4) * ceil32 (fieldAt p 16 4))

def headerBad (own : Nat) (c : ChanDef) : Bool :=
  let t := c.table
  let cfg := c.cfg.toNat
  let m := tableM t
  let norm := cfg.testBit 4
  let members := (List.range m).map (tableMember t)
  !(fieldAt t 60 4 == check32c (t.take 60 ++ (t.drop 64).take (memberBytes m)) (chanOff c + chanCellar c * 2 ^ 40)) ||
  !zeroAt t 8 52 || !decide (2 ≤ m ∧ m ≤ 8192) || !decide (tableB t ≤ 1024) || m != bitsOf cfg 10 13 + 1 ||
  (if norm then tableB t != 0 else tableB t != bitsOf cfg 36 10 + 1) || members.any (fun x => decide (8192 ≤ x)) ||
  members.eraseDups.length != m || tableMember t (bitsOf cfg 23 13) != own || decide (m ≤ bitsOf cfg 23 13) || !decide (bitsOf cfg 46 18 = 0) ||
  c.time.toNat % 2 ^ 32 == 0

def bucketBad (clusters : Nat) (pieces : List (List Byte)) (c : ChanDef) (k : Nat) : Bool :=
  let e := tableBucket c.table k
  let b := parseBucket e
  let off := chanOff c + 64 + memberBytes (tableM c.table) + 64 * k
  let n := 16 * b.segments
  !(fieldAt e 60 4 == check32c (e.take 60) (off + chanCellar c * 2 ^ 40)) || !zeroAt e 35 1 || !zeroAt e 48 12 ||
  decide (2 ^ 47 ≤ fieldAt e 16 8 ∨ 2 ^ 47 ≤ fieldAt e 24 8 ∨ 2 ^ 47 ≤ fieldAt e 40 8) ||
  !decide (tableM c.table ≤ b.segments ∧ b.segments < 2 ^ 24) || b.first % 16 != 0 || !(b.gfmt == 0 || b.gfmt == 10) ||
  !(b.wfmt == 0 || b.wfmt == 4 || b.wfmt == 10) || !(b.dfmt == 0 || b.dfmt == 4) || (b.dfmt == 0 && b.wfmt == 4) ||
  !clusters.testBit (b.ready / 4096) || !clusters.testBit (b.landed / 4096) ||
  !pieces.any (fun p => pieceTag p == b.tensor && decide (b.first + n ≤ pieceRecords p) &&
    (List.range ((b.first + n - 1) / 32 - b.first / 32 + 1)).all (fun i => (pieceTile p (b.first / 32 + i)).isSome))

/-- The first channel and bucket that fail R428; 0xFFFF: the header. -/
def chansBad (own clusters : Nat) (d : LoadData) : Option (Nat × Nat) :=
  d.chans.findSome? (fun c =>
    if headerBad own c then some (c.ch.val, 0xFFFF)
    else ((List.range (tableB c.table)).find? (bucketBad clusters (bundlePieces d) c)).map (fun k => (c.ch.val, k)))

/-- The first channel and bucket whose own segments the owner map does not cover exactly (R475). -/
def ownerGap (own : Nat) (d : LoadData) : Option (Nat × Nat) :=
  d.chans.findSome? (fun c =>
    ((List.range (tableB c.table)).find? (fun k =>
      let b := parseBucket (tableBucket c.table k)
      let m := tableM c.table
      let rank := bitsOf c.cfg.toNat 23 13
      let lo := b.first + 16 * shardLo rank b.segments m
      let hi := b.first + 16 * shardLo (rank + 1) b.segments m
      let os := (bundleOwners d).filter (fun o => ownPkg o == own && ownTensor o == b.tensor && overlap (ownFirst o) (ownRecords o) lo (hi - lo))
      !(os.all (fun o => decide (lo ≤ ownFirst o ∧ ownFirst o + ownRecords o ≤ hi)) &&
        (os.map ownRecords).foldl (· + ·) 0 == hi - lo))).map (fun k => (c.ch.val, k)))

/-! ### Resources (R473, R476) -/

def itemPage (i : InitItem) : Nat := if i.big then 0x200000 else 0x10000
def itemOk (i : InitItem) : Bool :=
  i.va % itemPage i == 0 && i.len % itemPage i == 0 && i.len != 0 && decide (i.va + i.len ≤ 2 ^ 47) &&
  i.frames.length == i.len / itemPage i && (!i.big || i.frames.all (fun f => f % 32 == 0))

def itemsDisjoint : List InitItem → Bool
  | [] => true
  | i :: is => !is.any (fun k => overlap i.va i.len k.va k.len) && itemsDisjoint is

/-- Tier bytes by 2 (die - 1) + tier. -/
def tierUse (is : List InitItem) : Tab Nat :=
  is.foldl (fun t i => let k := 2 * i.cellar.val + i.tier.val; Tab.set (fun _ => 0) t k (Tab.get (fun _ => 0) t k + i.len)) []

def State.tierFits (s : State) (is : List InitItem) : Bool :=
  (List.range 8).all (fun k =>
    let used := s.jobs.foldl (fun n j => n + Tab.get (fun _ => 0) j.2.used k) 0
    decide (used + Tab.get (fun _ => 0) (tierUse is) k ≤ (if k % 2 = 0 then tier1Cap else s.tier2Cap (k / 2 + 1))))

/-- The page of a job virtual address in the initial state: its item, the page's number in it and its frame. -/
def initPage (is : List InitItem) (va : Nat) : Option (InitItem × Nat × Nat) :=
  (is.find? (fun i => decide (i.va ≤ va ∧ va < i.va + i.len))).bind (fun i =>
    (i.frames[(va - i.va) / itemPage i]?).map (fun f => (i, (va - i.va) / itemPage i, f)))

/-- Guyline slots and the cellar slot are free (order 6 of R566). -/
def State.slotsFree (s : State) (d : LoadData) : Bool :=
  (List.range 3).all (fun i => s.guyKey 5 (bundleSlot d + i) == 0 && s.guyKey 6 (bundleSlot d + i) == 0) &&
  d.keySlot.val != 0 && [1, 2, 3, 4].all (fun e => s.keyAt e d.keySlot.val == 0) &&
  !s.jobs.any (fun j => decide (j.2.fabric < bundleSlot d + 3 ∧ bundleSlot d < j.2.fabric + 3))

/-! ### Update items (R352, R474) -/

/-- Where component c of record k of an owner-map item begins, and the bytes of n records from there. -/
def ownAt (cfg : Nat) (o : List Byte) (c k : Nat) : Nat :=
  match c with
  | 0 => ownVa o 0 + (byteAt o 19 + k) / 8
  | 5 => ownVa o 5 + 16 * bitsOf cfg 32 12 * (k / 32)
  | _ => ownVa o c + recAt (ownFmt cfg c) (ownVa o c) k
def ownSpan (cfg : Nat) (o : List Byte) (c k n : Nat) : Nat :=
  let f := ownFmt cfg c
  match c with
  | 0 => ((byteAt o 19 + k) % 8 + n + 7) / 8
  | 5 => 16 * bitsOf cfg 32 12 * ((n + 31) / 32)
  | _ => recAt f (ownAt cfg o c k) (n - 1) + (if f = 4 ∨ f = 5 then 132 else recBytes f)

/-- Do the bytes of records k to k + n - 1 lie in one page of every component that the rule uses? -/
def ownFits (is : List InitItem) (cfg : Nat) (o : List Byte) (k n : Nat) : Bool :=
  (List.range 7).all (fun c => !cfgUses cfg c ||
    (match initPage is (ownAt cfg o c k), initPage is (ownAt cfg o c k + ownSpan cfg o c k n - 1) with
     | some a, some b => a.1 == b.1 && a.2.1 == b.2.1
     | _, _ => false))

/-- Records of the item that begins at record k: all that are left, or the largest multiple of 32, that its pages and R352 allow. -/
def ownTake (is : List InitItem) (cfg : Nat) (o : List Byte) (k : Nat) : Nat :=
  let left := ownRecords o - k
  if left ≤ 16384 ∧ ownFits is cfg o k left then left
  else (((List.range 512).map (fun m => 32 * (512 - m))).find? (fun n => decide (n < left) && ownFits is cfg o k n)).getD (min 32 left)

/-- An item's bytes but for its check, and the cellar die that holds its W. A component that lies on another die has no entry (R352 names offsets
on the item's own die only). -/
def ownItem (is : List InitItem) (cfg key : Nat) (o : List Byte) (k n : Nat) : Nat × List Byte × List Byte :=
  let die := ((initPage is (ownAt cfg o 2 k)).map (fun p => p.1.cellar.val)).getD 0
  let entry := fun (c : Nat) =>
    let va := ownAt cfg o c k
    match initPage is va with
    | some (i, j, f) =>
      if cfgUses cfg c ∧ i.cellar.val = die then leBytes 8 (f * 65536 + (va - i.va - j * itemPage i) + i.tier.val * 2 ^ 40) ++ leBytes 8 va
      else leBytes 16 0
    | none => leBytes 16 0
  (die + 1, leBytes 2 n ++ leBytes 1 (byteAt o 18) ++ leBytes 1 key ++ leBytes 4 (ownFirst o + k) ++ leBytes 1 ((byteAt o 19 + k) % 8) ++ [0, 0, 0],
   (List.range 7).flatMap entry)

/-- The items of one shard from record k on; n bounds them. -/
def shardItems (is : List InitItem) (cfg key : Nat) (o : List Byte) : Nat → Nat → List (Nat × List Byte × List Byte)
  | 0, _ => []
  | n + 1, k =>
    if ownRecords o ≤ k then []
    else
      let m := ownTake is cfg o k
      ownItem is cfg key o k m :: shardItems is cfg key o n (k + m)

/-- The update items of the shards that this package owns, in the owner map's order. -/
def updateItems (d : LoadData) (own : Nat) : List (Nat × List Byte × List Byte) :=
  ((bundleOwners d).filter (fun o => ownPkg o == own)).flatMap (fun o =>
    shardItems d.init (ruleWord d o) d.keySlot.val o (ownRecords o / 32 + 1) 0)

/-- Each cellar die's items, and the arrays they stand in. -/
def dieItems (d : LoadData) (own die : Nat) : List (List Byte × List Byte) := ((updateItems d own).filter (fun x => x.1 == die)).map (·.2)
def itemTables (d : LoadData) (own : Nat) : List (Nat × Nat × Nat) :=
  ((List.range 4).map (fun e => (e + 1, (d.items[e]?).getD 0, (dieItems d own (e + 1)).length))).filter (fun x => x.2.2 != 0)

/-! ### Placing a bundle -/

/-- Write many registers. -/
def State.setRegs (s : State) (ws : List (Nat × Nat)) : State := ws.foldl (fun t w => t.setRegN w.1 w.2) s

/-- The rule slots and program store of the update section on one cellar die, and whether each slot passes R376 and holds no reserved value
(R10). -/
def State.placeUpdate (s : State) (u : UpdDef) (die : Nat) : State × Bool :=
  let s := s.setRegs [(Reg.updClip die, u.clip.toNat), (Reg.updSeed die, u.seed.toNat)]
  let s := s.setFld (Reg.updCtrl die) 0 1 (boolNat u.nfStop)
  let s := s.setRegs ((u.store.zipIdx).map (fun x => (Reg.updProg die x.2, x.1.toNat)))
  (List.range 16).foldl (fun (r : State × Bool) n =>
    match u.cfg[n]? with
    | none => r
    | some w =>
      if w.toNat.testBit 4 then
        let t := r.1.setRegN (Reg.ruleProg die n) ((u.prog[n]?).getD 0x1FFFFFFFF).toNat
        let t := t.setRegs ((((u.params[n]?).getD []).zipIdx).map (fun x => (Reg.ruleP die n (x.2 + 8), x.1.toNat)))
        let t := t.setRegN (Reg.ruleCfg die n) w.toNat
        (t, r.2 && t.slotOk die n && !w.toNat.testBit 7 && decide (w.toNat < 2 ^ 44 ∧ ((u.prog[n]?).getD 0x1FFFFFFFF).toNat < 2 ^ 33))
      else r) (s, true)

/-- No register of an image holds a reserved value, and the code fits the store room (R10, R94). -/
def imageOk (i : Image) : Bool :=
  let c := i.codeReg.toNat
  let p := i.split.toNat
  decide (i.code.length ≤ storeSize) && decide (bitsOf c 0 8 ≤ 191 ∧ bitsOf c 16 8 ≤ 192) && bitsOf c 8 8 == 0 && bitsOf c 24 8 == 0 &&
  i.starts.all (fun x => decide (x < 2 ^ 20)) && decide (p < 2 ^ 12 ∧ bitsOf p 0 4 + bitsOf p 4 4 + bitsOf p 8 4 = 16) &&
  decide (i.lantern.toNat < 64 ∧ 10 ≤ i.lantern.toNat % 32)

/-- A run of pegs of a bundle: words of R267 without reserved encodings, on the job's clusters (R10). -/
def pegRunOk (clusters : Nat) (r : Nat × Nat × W64) : Bool :=
  pegWordOk r.2.2 && r.2.1 != 0 && decide (r.1 + r.2.1 ≤ 65536) &&
  (List.range ((r.1 + r.2.1 - 1) / 4096 - r.1 / 4096 + 1)).all (fun k => clusters.testBit (r.1 / 4096 + k))

/-- Images and CORE_ registers of a core (R94). -/
def State.placeImage (s : State) (c : Nat) (i : Image) : State :=
  let s := s.wr (storeKey c 0) (i.code.take storeSize)
  let s := s.setRegN (Reg.coreCode c) i.codeReg.toNat
  let s := s.setRegs ((i.starts.zipIdx).map (fun x => (Reg.engStart c x.2, x.1 % 2 ^ 20)))
  let s := (s.setRegs [(Reg.strSplit c, i.split.toNat), (Reg.lantern c, i.lantern.toNat)]).zeroCredit c
  (List.range 6).foldl (fun t e => t.setEng c e { t.eng c e with pc := t.fld (Reg.engStart c e) 0 20 }) s

/-- The cores of a job set up from the bundle: reset, memories zeroed, images and registers (R473 step 8, R539). -/
def State.placeCores (s : State) (j : Job) : State :=
  j.cores.foldl (fun t e => ((t.resetCore e.core).zeroCore e.core).placeImage e.core ((j.images[e.image]?).getD ⟨[], 0, [], 0, 0, 0⟩)) s

def State.placePegs (s : State) (j : Job) : State :=
  j.pegRuns.foldl (fun t r => (List.range r.2.1).foldl (fun u i => u.setPeg (r.1 + i) r.2.2 2) t) s

/-- A page-table leaf of R314. -/
def leafWord (key : Nat) (w : Bool) (tier cellar frame : Nat) : Nat :=
  3 + 4 * boolNat w + cellar * 16 + tier * 64 + key * 256 + frame * 65536

/-- The page tables of a space: every first-level entry, and those of each second level, absent. -/
def State.placeTables (s : State) (d : LoadData) : State :=
  let root := d.root.1.val + 1
  let s := (List.range d.count).foldl (fun t r => t.putPte root (d.root.2 * 512 + 16 * r) 0) s
  d.tables.foldl (fun t x =>
    let t := (List.range 32).foldl (fun u i => u.putPte (x.2.1.val + 1) (x.2.2 * 512 + 16 * i) 0) t
    t.putPte root (d.root.2 * 512 + 16 * x.1) (1 + x.2.1.val * 16 + x.2.2 * 65536)) s

/-- Map one page and fill it (R476): zero, or the decryption of its ciphertext. -/
def State.placePage (s : State) (d : LoadData) (key : Nat) (i : InitItem) (k frame : Nat) : State :=
  let n := itemPage i
  let va := i.va + k * n
  let leaf := leafWord d.keySlot.val i.w i.tier.val i.cellar.val frame
  let s := if i.big then s.putPte (d.root.1.val + 1) (d.root.2 * 512 + 16 * (va / 0x200000)) leaf
    else match d.tables.find? (fun x => x.1 == va / 0x200000) with
      | some x => s.putPte (x.2.1.val + 1) (x.2.2 * 512 + 16 * (va % 0x200000 / 65536)) leaf
      | none => s
  let die := i.cellar.val + 1
  let off := (if i.tier.val = 0 then 0 else t2Base) + frame * 65536
  let seals := (List.range (n / 512)).map (fun u => some (Seal.mk (s.keyAt die d.keySlot.val) (va / 512 + u)))
  let s := { s.zeroMem (cellarKey die off) n with sealed := Tab.setRange (fun _ => none) s.sealed (unitOf die off) seals }
  match i.src with
  | none => s
  | some bs =>
    let part := (bs.drop (k * n)).take n
    s.wr (cellarKey die off) ((List.range (part.length)).map (fun x =>
      Config.xtsDec key ((va + x) / 512) ((part.drop (x / 512 * 512)).take 512) (x % 512)))

def State.placePages (s : State) (d : LoadData) (key : Nat) : State :=
  d.init.foldl (fun t i => (i.frames.zipIdx).foldl (fun u f => u.placePage d key i f.2 f.1) t) s

/-- The job of a bundle. -/
def bundleJobOf (d : LoadData) (own : Nat) : Job :=
  let m := sectionBytes d 2
  { id := bundleJob d, clusters := fieldAt m 24 2, debug := (bundleFlags d).testBit 0, fabric := bundleSlot d, secret := d.secret,
    keySlot := d.keySlot.val,
    meas := Config.sha384 ((d.header.drop 64).take 96 ++ leBytes 4 (bundleJob d) ++ leBytes 1 (bundleFlags d) ++ leBytes 48 (Config.sha384 d.payload)),
    stages := mapStages m, this := fieldAt m 2 2, micro := fieldAt m 4 2, root := fieldAt m 6 2, steps := fieldAt m 8 8, lead := fieldAt m 16 4,
    limit := fieldAt m 20 4, mboxPeg := fieldAt m 26 2, mboxN := fieldAt m 28 4, mboxVa := fieldAt m 32 8, cores := mapCores m,
    chans := d.chans.map (fun c => (c.ch.val, if c.cfg.toNat.testBit 4 then 1 else bitsOf c.cfg.toNat 36 10 + 1)), pieces := bundlePieces d,
    serving := d.serving, updDies := (itemTables d own).map (·.1), tables := itemTables d own, images := d.images, pegRuns := d.pegs,
    used := tierUse d.init }

/-- Set up the channels: their registers, and their tables in supervisor memory; FB is set where a home die is not usable (R446). -/
def State.placeChans (s : State) (d : LoadData) : State :=
  let s := d.chans.foldl (fun t c =>
    let t := (t.setChan c.ch {}).setRegs [(Reg.redTable c.ch, c.place.toNat), (Reg.redTime c.ch, c.time.toNat), (Reg.redSlots c.ch, c.slots.toNat),
      (Reg.red c.ch, withBits c.cfg.toNat 6 4 d.space.val)]
    t.supWrite (chanCellar c + 1) (chanOff c) c.table) s
  if d.chans.isEmpty then s else ((s.setRegs [(0xC41000, d.fbCores.toNat), (0xD41000, d.fbCores.toNat)]).setFallBack 5).setFallBack 6

/-- Write the update items of this package's shards into the arrays (R474). -/
def State.placeItems (s : State) (d : LoadData) : State :=
  (itemTables d s.pkg).foldl (fun t x =>
    ((dieItems d s.pkg x.1).zipIdx).foldl (fun u i =>
      let a := x.2.1 + 128 * i.2
      u.supWrite x.1 a (i.1.1 ++ leBytes 4 (check32c (i.1.1 ++ i.1.2) a) ++ i.1.2)) t) s

/-- What an accepted bundle places (steps 8 to 10), its keys, and the job in state Loaded. -/
def State.placeJob (s : State) (d : LoadData) : State :=
  let j := bundleJobOf d s.pkg
  let f := bundleSlot d
  let s := [1, 2, 3, 4].foldl (fun t e => t.setKey e d.keySlot.val (j.key 0 0)) s
  let s := [5, 6].foldl (fun t e => (t.setKey e f (j.key 2 0)).setKey e (f + 1) (j.key 2 1)) s
  let s := { s with jobs := s.jobs ++ [(d.space.val, j)],
                    pairOut := Tab.keep (fun k => k / 8192 != d.space.val) s.pairOut,
                    pairIn := Tab.keep (fun k => k / 8192 != d.space.val) s.pairIn }
  let s := ((List.range 16).filter (fun k => j.clusters.testBit k)).foldl (fun t k => t.zeroMem (atticKey k 0) 0x200000) s
  let s := (s.placeCores j).placePegs j
  let s := j.cores.foldl (fun t e => t.setFld (Reg.memCoreSpace (e.core / 16)) (4 * (e.core % 16)) 4 d.space.val) s
  let s := s.setRegN (Reg.memSpace d.space.val) (1 + d.root.1.val * 2 + d.root.2 * 16 + d.count * 2 ^ 32)
  let s := ((s.placeTables d).placePages d (j.key 1 0)).placeChans d
  (s.placeItems d).refreshPath

/-- What makes a LOAD fail: the fault code, the RESULT's detail, and the record's two words. -/
structure LoadFault where
  code : Nat
  detail : Nat
  d0 : Nat
  d1 : Nat
deriving DecidableEq, Repr

/-- The update section on all four cellar dies (step 7 of R473). -/
def State.placeRules (s : State) (d : LoadData) : State × Bool :=
  match d.update with
  | none => (s, true)
  | some u => [1, 2, 3, 4].foldl (fun (r : State × Bool) die => let x := r.1.placeUpdate u die; (x.1, r.2 && x.2)) (s, true)

/-- The checks of R473 in order, and the state with the job placed. A reserved value of an image, a peg word or an initial-state item is refused
as the bundle's at the step that places it (DEDUCED, log entry 58). -/
def State.tryLoad (s : State) (d : LoadData) (len : Nat) : Except LoadFault State :=
  let m := sectionBytes d 2
  let clusters := fieldAt m 24 2
  let need := fun (t : Nat) => (sectionOf d t).isSome
  let owners := bundleOwners d
  if d.sec.val ≠ 0 then .error ⟨0x402, d.sec.val, 1, d.sec.val⟩
  else if !s.slotsFree d then .error ⟨0x402, 6, 1, 6⟩
  else if !headerOk d len ∨ !(List.range (bundleSections d)).all (sectionOk d) ∨ !need 1 ∨ !need 2 ∨ !need 6 ∨ (need 3 ∧ !need 4) ∨
      (need 4 ∧ !need 8) ∨ !stageMapOk m ((sectionOf d 2).getD (0, 0)).1 d.images.length then
    .error ⟨0x402, 2, 2, 0⟩
  else if (List.range 16).any (fun k => clusters.testBit k && (s.jobOfCluster k).isSome) ∨ (s.jobAt d.space.val).isSome ∨
      (s.jobById (bundleJob d)).isSome then .error ⟨0x402, 4, 4, 0⟩
  else match s.piecesBad d with
  | some (t, k) => .error ⟨0x171, 0, t, k⟩
  | none =>
  if !(List.range owners.length).all (fun i => let o := (owners[i]?).getD []; ownerOk o i s.pkg (ruleWord d o)) then .error ⟨0x402, 2, 2, 0⟩
  else match ownerDup d s.pkg with
  | some (a, b) => .error ⟨0x401, 0, a, b⟩
  | none => match ownerGap s.pkg d with
  | some (c, b) => .error ⟨0x406, 0, c, b⟩
  | none => match chansBad s.pkg clusters d with
  | some (c, b) => .error ⟨0x501, 0, c, b⟩
  | none =>
    let r := s.placeRules d
    if !r.2 then .error ⟨0x314, 0, 0, 0⟩
    else if !d.images.all imageOk ∨ !d.pegs.all (pegRunOk clusters) ∨ !d.init.all itemOk ∨ !itemsDisjoint d.init then .error ⟨0x402, 2, 2, 0⟩
    else if !s.tierFits d.init then .error ⟨0x402, 4, 4, 0⟩
    else .ok (r.1.placeJob d)

/-- The class of the check value whose failure a LOAD's fault reports (R547, R548). -/
def LoadFault.chk (f : LoadFault) (d : LoadData) : Option Nat :=
  let m := sectionBytes d 2
  let crcBad := fun (i : Nat) =>
    let off := fieldAt d.payload (32 * i + 8) 8
    fieldAt d.payload (32 * i + 24) 4 != check32c ((d.payload.drop off).take (fieldAt d.payload (32 * i + 16) 8)) off
  let ownBad := fun (i : Nat) => let o := ((bundleOwners d)[i]?).getD []; fieldAt o 124 4 != check32c (o.take 124) i
  match f.code with
  | 0x171 => if f.d1 = 60 then some 1 else none
  | 0x402 =>
    if f.d0 ≠ 2 then none
    else if (List.range (bundleSections d)).any crcBad then some 5
    else if fieldAt m 60 4 ≠ check32c (m.take 60) ((sectionOf d 2).getD (0, 0)).1 then some 1
    else if (List.range (bundleOwners d).length).any ownBad then some 5 else none
  | 0x501 =>
    match d.chans.find? (fun c => c.ch.val == f.d0) with
    | none => none
    | some c =>
      let t := c.table
      let base := chanOff c + chanCellar c * 2 ^ 40
      let e := tableBucket t f.d1
      let bad := if f.d1 = 0xFFFF then fieldAt t 60 4 != check32c (t.take 60 ++ (t.drop 64).take (memberBytes (tableM t))) base
        else fieldAt e 60 4 != check32c (e.take 60) (base + 64 + memberBytes (tableM t) + 64 * f.d1)
      if bad then some 7 else none
  | _ => none

/-- LOAD of the entry at the head of the job ring. A package that needs a reset accepts none (R543). -/
def execLoad (d : LoadData) (s : State) : Out :=
  match s.jobHead 1 with
  | none => .next s
  | some e =>
    if s.fld 0x50018 22 1 = 1 then .next (s.refuseHead 0x405 0)
    else match s.tryLoad d (fieldAt (entBody e.bytes) 8 8) with
      | .error f =>
        let s := match f.chk d with
          | some k => s.chkFail k
          | none => s
        .next ((s.supFault f.code f.d0 f.d1 0 0).refuseHead f.code f.detail)
      | .ok t => .next ({ t with sup := { t.sup with work := some {} } }).finishWork

end Sys2Proof.Machine
end

