-- ==== Sys2Proof/Machine/Jobs.lean ====
section
/-! DEFINITION. Running jobs (R470, R478 to R493): start, pause, export, teardown, steps, bubbles, serving and the mailbox, and control
packets that carry ring entries (R469, R572). -/
namespace Sys2Proof.Machine

/-! ### Stopping and starting cores -/

def State.eachCore (s : State) (j : Job) (f : State → Nat → State) : State := j.cores.foldl (fun t e => f t e.core) s

/-- The engines that the job uses on a core. -/
def Job.engines (j : Job) (e : CoreEnt) : Nat := ((j.images[e.image]?).map (fun i => i.used.toNat)).getD 0

/-- RUN of the engines that the job uses on each of its cores (R94). -/
def State.runJob (s : State) (j : Job) : State := j.cores.foldl (fun t e => t.eachEng (j.engines e) (fun u k => u.runEng e.core k)) s

/-- RUN of the stopped engines of the job's cores (R491). -/
def State.resumeJob (s : State) (j : Job) : State :=
  s.eachCore j (fun t c => t.eachEng 63 (fun u e => if (u.eng c e).st = .stopped then u.runEng c e else u))
/-- STOP of every engine of the job's cores. -/
def State.stopJob (s : State) (j : Job) : State := s.eachCore j (fun t c => t.eachEng 63 (fun u e => u.stopEng c e))

/-- Abort every stream of the job's cores. -/
def State.abortStreams (s : State) (j : Job) (cause : Nat) : State :=
  s.eachCore j (fun t c => (List.range 16).foldl (fun u k =>
    let m := u.strm c k
    if m.state = 1 ∨ m.state = 2 then u.abortStream c k cause m.farPkg else u) t)

/-- End the job's step under R445 on every channel of the job. -/
def State.endJobStep (s : State) (space : Nat) (j : Job) (tell : Bool) : State :=
  (j.chans.foldl (fun t c => t.endStep c.1 tell) s).stepEnded space

/-- The die-wide number of a peg of the core's own cluster (R59). -/
def CoreEnt.peg (e : CoreEnt) (p : Nat) : Nat := 4096 * (e.core / 4) + p % 4096

/-! ### Recovery windows (R538, R541) -/

/-- The unit that a recovery domain is named by. -/
def State.domainUnit (s : State) (level target : Nat) : W32 :=
  match level with
  | 2 => s.unitCore target
  | 3 => s.unitCluster target
  | 4 => s.unitRegion target
  | 5 => s.unitDie target
  | _ => s.unitPkg

/-- A supervisor's notice of a recovery action (kind 3). -/
def State.recoveryNotice (s : State) (code : Nat) (unit : W32) (d0 d1 d2 d3 : Nat) : State := s.record 0 code 3 unit d0 d1 d2 d3

/-- A window's recovery is over: RST_DONE. -/
def State.windowDone (s : State) (w : Recov) : State :=
  ({ s with recov := s.recov.erase w }).recoveryNotice 0x0C3 (s.domainUnit w.level w.target) w.level ((s.ns - w.began) / 1000) w.job 0

/-- A job has no more to be rewound for: it leaves the windows that wait for it, and the last one ends them. -/
def State.leaveWindows (s : State) (id : Nat) : State :=
  let ws := s.recov.map (fun w => { w with jobs := w.jobs.erase id })
  (ws.filter (fun w => w.phase == 2 && w.jobs.isEmpty)).foldl (fun t w => t.windowDone w) { s with recov := ws }

/-! ### Entries of the job ring -/

/-- The head of the job ring is of this type and for a job in one of these states: the entry, its space and its job; or the state in
which it is refused. -/
def State.headFor (s : State) (etype : Nat) (ok : JobSt → Bool) : Option (Except State (Entry × Nat × Job)) :=
  (s.jobHead etype).map (fun e =>
    match s.jobById (entJob e.bytes) with
    | some (space, j) =>
      if ok j.st && j.ending.isNone then .ok (e, space, j) else .error ((s.supFault 0x405 0 0 0 0).refuseHead 0x405 0)
    | none => .error ((s.supFault 0x405 0 0 0 0).refuseHead 0x405 0))

/-- The step root opens a step: STEP_OPEN to every package, and its own (R479). -/
def State.openStep (s : State) (space : Nat) (j : Job) (again : Bool) : State :=
  let t := if again then j.t else j.t + 1
  let body := leBytes 8 t ++ leBytes 8 j.ordinal ++ leBytes 8 (s.time.toNat + j.lead) ++ leBytes 1 (boolNat again)
  let s := (s.relay space 0x40 0 j body).1
  { s with sup := { s.sup with fabq := s.sup.fabq ++ [(space, mkEntry 0x40 0 j.id body 0 0 0)] } }

/-- Does this package open the job's steps, and has the job steps (R477)? -/
def State.isRoot (s : State) (j : Job) : Bool := j.root == s.pkg && j.micro != 0

def execStart (s : State) : Out :=
  match s.headFor 2 (· == .loaded) with
  | none => .next s
  | some (.error t) => .next t
  | some (.ok (e, space, j)) =>
    let step := (j.cores.head?).map (fun k => s.fld (Reg.coreFreq k.core) 0 4)
    let s := s.mapJob space (fun x => { x with st := .running, closedAt := some s.ns, freq := step })
    let s := s.eachCore j (fun t c => ((t.tallyClear c).queueClear c).zeroCredit c)
    let s := s.runJob j
    let s := if s.isRoot j then s.openStep space j false else s
    .next (s.beginWork e space j true)

/-- Has a STEP_OPEN of the job's next ordinal arrived that is not applied yet? -/
def State.stepWaits (s : State) (space : Nat) (j : Job) : Bool :=
  s.sup.fabq.any (fun y => y.1 == space && entType y.2 == 0x40 && fieldAt (entBody y.2) 8 8 == j.ordinal)

/-- PAUSE takes effect: the engines are stopped in place. -/
def State.pauseNow (s : State) (space : Nat) (j : Job) : State :=
  (s.stopJob j).mapJob space (fun x => { x with st := .paused, pausing := false })

/-- PAUSE: at the next step close; at once with NOW, or where no step is open or opened and waiting (DEDUCED, log entry 58). -/
def execPause (s : State) : Out :=
  match s.headFor 3 (· == .running) with
  | none => .next s
  | some (.error t) => .next t
  | some (.ok (e, space, j)) =>
    let s :=
      if (entFlags e.bytes).testBit 1 then
        let s := s.stopJob j
        (if j.open_ then s.endJobStep space j true else s).mapJob space (fun x => { x with st := .paused, pausing := false, rewind := none })
      else if j.open_ ∨ s.stepWaits space j then s.mapJob space (fun x => { x with pausing := true })
      else s.pauseNow space j
    .next (s.beginWork e space j true)

def execResume (s : State) : Out :=
  match s.headFor 4 (· == .paused) with
  | none => .next s
  | some (.error t) => .next t
  | some (.ok (e, space, j)) =>
    let s := (s.mapJob space (fun x => { x with st := .running, closedAt := some s.ns })).resumeJob j
    let s := if s.isRoot j && !j.open_ then s.openStep space j j.ended else s
    .next (s.beginWork e space j true)

/-- A teardown begins (R493): engines stopped, streams and channels aborted, pegs abandoned. entry: a job-ring entry waits for it. -/
def State.startTeardown (s : State) (space : Nat) (j : Job) (reason : Nat) (entry : Bool) : State :=
  if j.ending.isSome then s
  else
    let s := (s.stopJob j).abortStreams j 0
    let s := j.chans.foldl (fun t c => (t.endStep c.1 false).stopSend c.1) s
    let s := ((List.range 16).filter (fun k => j.clusters.testBit k)).foldl (fun t k => t.sweepCluster k 15) s
    (s.mapJob space (fun x => { x with ending := some ⟨s.ns, reason, entry⟩, open_ := false, rewind := none })).leaveWindows j.id

def execTeardown (s : State) : Out :=
  match s.headFor 5 (fun _ => true) with
  | none => .next s
  | some (.error t) => .next t
  | some (.ok (e, space, j)) => .next ((s.startTeardown space j 1 true).beginWork e space j false)

/-- Transfers of a job that have not retired. -/
def State.jobTransfers (s : State) (space : Nat) (j : Job) : Bool :=
  s.reqs.any (fun r => r.kind != 8 && s.reqSpace r == some space) || s.inreqs.any (fun r => r.space == space) ||
  j.cores.any (fun e => !(s.str e.core).xfers.isEmpty || (List.range 16).any (fun k => (s.strm e.core k).state != 0) ||
    !(s.core e.core).stores.isEmpty || !(s.core e.core).arms.isEmpty || (s.core e.core).loads.any (fun l => l.data.isNone && l.aborted.isNone))

def State.e2eLimitNs (s : State) (die : Nat) : Nat := s.fld (Reg.e2eCfg die) 16 16 * 1000

/-- The job is Gone: memories zeroed, keys erased, the space disabled, its completions posted. -/
def State.finishTeardown (s : State) (space : Nat) (j : Job) (x : Teardown) : State :=
  let s := ((List.range 16).filter (fun k => j.clusters.testBit k)).foldl (fun t k => t.finishRuns k false) s
  let s := s.eachCore j (fun t c => ((t.resetCore c).zeroCore c).freshPeriod c)
  let s := ((List.range 16).filter (fun k => j.clusters.testBit k)).foldl (fun t k => t.zeroMem (atticKey k 0) 0x200000) s
  let s := ((List.range j.slots.length).filterMap (fun i => ((j.slots[i]?).bind (·.2)))).foldl (fun t y =>
    if y.done then t else t.postJob 0x24 j (leBytes 8 y.id ++ leBytes 8 3 ++ leBytes 8 (t.ns - y.taken))) s
  let s := s.postJob 0x23 j (leBytes 8 x.reason ++ leBytes 8 j.stepsDone)
  let work := s.sup.work
  let s := if x.entry then { s with sup := { s.sup with work := work.map (fun w => { w with done := true }) } } else s
  let s := s.finishWork
  let s := [1, 2, 3, 4].foldl (fun t e => t.setKey e j.keySlot 0) s
  let s := [5, 6].foldl (fun t e => ((t.setKey e j.fabric 0).setKey e (j.fabric + 1) 0).setKey e (j.fabric + 2) 0) s
  let s := ((s.setFld (Reg.memSpace space) 0 1 0).dropCached space true 0).dropTags space true
  let s := j.chans.foldl (fun t c => (t.setRegN (Reg.red c.1) 0).putChan c.1 {}) s
  { s with jobs := s.jobs.filter (fun y => y.1 != space),
           reqs := s.reqs.filter (fun r => !(r.kind != 8 && s.reqSpace r == some space)),
           inreqs := s.inreqs.filter (fun r => r.space != space),
           sup := { s.sup with fabq := s.sup.fabq.filter (fun y => y.1 != space), moves := s.sup.moves.filter (fun m => m.space != space) } }

def execTeardownFinish (space : Fin 16) (s : State) : Out :=
  match s.jobAt space with
  | none => .next s
  | some j =>
    match j.ending with
    | none => .next s
    | some x =>
      if !s.jobTransfers space j ∨ x.began + s.e2eLimitNs 5 ≤ s.ns then .next (s.finishTeardown space j x) else .next s

/-- EXPORT: each mapped page's bytes to controller memory under the payload key (R492, R568); a page not mapped fails it. -/
def State.exportRange (s : State) (space key va bus : Nat) : Nat → Option State
  | 0 => some s
  | n + 1 =>
    match s.redRead space va 65536 with
    | (_, .error _) => none
    | (t, .ok bs) =>
      let out := (List.range bs.length).map (fun i => Config.xtsEnc key ((va + i) / 512) ((bs.drop (i / 512 * 512)).take 512) (i % 512))
      (t.wr (busKey bus) out).exportRange space key (va + 65536) (bus + 65536) n

def execExport (s : State) : Out :=
  match s.headFor 6 (fun x => x == .loaded || x == .paused || x == .finished) with
  | none => .next s
  | some (.error t) => .next t
  | some (.ok (e, space, j)) =>
    let body := entBody e.bytes
    match s.exportRange space (j.key 1 0) (fieldAt body 0 8) (fieldAt body 16 8) (fieldAt body 8 8 / 65536) with
    | some t => .next (t.beginWork e space j true)
    | none =>
      .next ({ s with sup := { s.sup with work := some { status := 2, code := 0x301 } } }).finishWork

/-! ### Serving (R486 to R488) -/

/-- Place a request in a queue by priority and sequence. -/
def insReq (x : ServReq) : List ServReq → List ServReq
  | [] => [x]
  | y :: ys => if x.prio < y.prio ∨ (x.prio = y.prio ∧ x.seq < y.seq) then x :: y :: ys else y :: insReq x ys

/-- REQ_PASS's body: sequence, entry program, priority, expired, slot address. -/
def passBody (seq prog prio slot : Nat) (expired : Bool) : List Byte :=
  leBytes 8 seq ++ leBytes 1 prog ++ leBytes 1 prio ++ leBytes 1 (boolNat expired) ++ leBytes 5 0 ++ leBytes 8 slot

/-- REQ_PASS to every other stage package of a request. -/
def State.passAll (s : State) (space : Nat) (j : Job) (x : ServDef) (body : List Byte) : State :=
  (x.passes.filter (· != s.pkg)).foldl (fun t p => (t.sendEntry space p 0x41 0 j body).1) s

/-- Take REQ_PASS's body into the job's queue: a request in its place, or with the expired flag out of the queue. -/
def Job.pass (j : Job) (b : List Byte) : Job :=
  let r : ServReq := ⟨fieldAt b 0 8, byteAt b 8, byteAt b 9, fieldAt b 16 8⟩
  { j with queue := if byteAt b 10 = 1 then j.queue.filter (fun q => q.seq != r.seq) else insReq r j.queue }

/-- Write bytes into a space, 64 KiB pieces at most at a time. -/
def State.spaceWrite (s : State) (space va : Nat) (bs : List Byte) : State :=
  ((List.range (bs.length / 512 + 1)).map (fun i => (bs.drop (512 * i)).take 512)).zipIdx.foldl (fun t p =>
    if p.1.isEmpty then t else (t.redWrite space (va + 512 * p.2) p.1).1) s

/-- REQUEST at the head of the request ring: the ciphertext of its input, as the supervisor reads it. -/
def execRequest (space : Fin 16) (input : List (BitVec 8)) (s : State) : Out :=
  match s.sup.reqq with
  | [] => .next s
  | e :: es =>
    let drop := { s with sup := { s.sup with reqq := es } }
    match s.jobById (entJob e.bytes) with
    | none => .next (drop.supFault 0x405 0 0 0 0)
    | some (n, j) =>
      let body := entBody e.bytes
      let prog := byteAt body 8
      if n ≠ space.val then .next s
      else match j.serving with
        | none => .next (drop.supFault 0x405 0 0 0 0)
        | some x =>
          if !x.takers.contains s.pkg ∨ x.programs.length ≤ prog ∨ 4 ≤ byteAt body 9 ∨ x.size < fieldAt body 12 4 ∨ j.ending.isSome then
            .next (drop.supFault 0x405 0 0 0 0)
          else match (List.range x.slots).find? (fun i => (Tab.get (fun _ => none) j.slots i).isNone) with
            | none => .next s
            | some i =>
              let id := fieldAt body 0 8
              let len := fieldAt body 12 4
              let seq := s.pkg * 2 ^ 48 + j.taken
              let va := x.va + i * x.size
              let plain := ((List.range input.length).map (fun k =>
                Config.xtsDec (j.key 1 0) (2 ^ 127 + id * 2 ^ 32 + k / 512) ((input.drop (k / 512 * 512)).take 512) (k % 512))).take len
              let slot : ServSlot :=
                { id := id, seq := seq, taken := s.ns, bound := fieldAt body 36 4, out := fieldAt body 24 8, cap := fieldAt body 32 4 }
              let s := drop.spaceWrite n va plain
              let b := passBody seq prog (byteAt body 9) va false
              let s := s.mapJob n (fun y => { y.pass b with taken := y.taken + 1, slots := Tab.set (fun _ => none) y.slots i (some slot) })
              .next (s.passAll n j x b)

/-- The first entry over the fabric of a type that its job takes now. -/
def State.fabHead (s : State) (etype : Nat) (takes : Job → List Byte → Bool) : Option (Nat × List Byte × Job) :=
  s.sup.fabq.findSome? (fun y =>
    match s.jobAt y.1 with
    | some j => if entType y.2 = etype ∧ takes j (entBody y.2) then some (y.1, y.2, j) else none
    | none => none)

def State.dropFab (s : State) (space : Nat) (bs : List Byte) : State := { s with sup := { s.sup with fabq := s.sup.fabq.erase (space, bs) } }

def execReqPass (s : State) : Out :=
  match s.fabHead 0x41 (fun _ _ => true) with
  | none => .next s
  | some (space, bs, _) => .next ((s.dropFab space bs).mapJob space (fun x => x.pass (entBody bs)))

/-- The slot of a request that is not done by its bound. A request has begun once this package has given it a bubble. -/
def execRequestExpire (space : Fin 16) (slot : Nat) (s : State) : Out :=
  match s.jobAt space with
  | none => .next s
  | some j =>
    match Tab.get (fun _ => none) j.slots slot, j.serving with
    | some y, some x =>
      if y.done ∨ y.bound = 0 ∨ s.ns < y.taken + 1000 * y.bound then .next s
      else
        let begun := !j.queue.any (fun q => q.seq == y.seq)
        let s := s.postJob 0x24 j (leBytes 8 y.id ++ leBytes 8 1 ++ leBytes 8 (s.ns - y.taken))
        let b := passBody y.seq 0 0 0 true
        let s := s.mapJob space (fun z => { z.pass b with
          slots := Tab.set (fun _ => none) z.slots slot (if begun then some { y with done := true } else none) })
        .next (if begun then s else s.passAll space j x b)
    | _, _ => .next s

/-! ### Steps (R478 to R483) -/

/-- Apply the STEP_OPEN at the head (R479, R569): channels, key period, step words and pegs. -/
def State.applyOpen (s : State) (space : Nat) (j : Job) (b : List Byte) : State :=
  let t := fieldAt b 0 8
  let k := fieldAt b 8 8
  let t0 := fieldAt b 16 8
  let again := (byteAt b 24).testBit 0
  let s := [5, 6].foldl (fun u e => u.setKey e (j.fabric + (k + 1) % 3) (j.key 2 (k + 1))) s
  let s := s.mapJob space (fun x => { x with
    ordinal := k + 1, period := k, t := t, t0 := BitVec.ofNat 64 t0, open_ := true, late := false, ended := false,
    tries := if again then x.tries else 0, closedAt := none, bubbles := [], extras := 0 })
  let s := [1, 2, 3, 4].foldl (fun u d => u.setCellar d { u.cellar d with norm := 0, nonfinite := false }) (s.dropTags space false)
  let s := j.chans.foldl (fun u c => (u.setRegN (Reg.redStart c.1) t0).stepSeqWrite c.1 (k * c.2)) s
  j.cores.foldl (fun u e =>
    let u := u.wr (storeKey e.core e.stepOff) (leBytes 8 t ++ leBytes 8 k ++ leBytes 8 t0 ++ leBytes 40 (boolNat again))
    (u.freshPeriod e.core).supFill space (e.peg e.stepPeg)) s

/-- Is a STEP_OPEN discarded: its ordinal is not the job's next, or the job is being torn down? -/
def Job.staleOpen (j : Job) (b : List Byte) : Bool := j.ending.isSome || fieldAt b 8 8 != j.ordinal

/-- The first STEP_OPEN that its job discards or can apply. One of the next ordinal waits while the job's own step is open, while it is rewound
and while the job is not running (DEDUCED, log entry 58). -/
def execStepOpen (s : State) : Out :=
  match s.fabHead 0x40 (fun j b => j.staleOpen b || (j.st == .running && j.rewind.isNone && !j.open_)) with
  | none => .next s
  | some (space, bs, j) =>
    let b := entBody bs
    .next (if j.staleOpen b then s.dropFab space bs else (s.dropFab space bs).applyOpen space j b)

/-- Does an array of update items belong to the job? -/
def Job.owns (j : Job) (d table : Nat) : Bool := j.tables.any (fun x => x.1 == d && x.2.1 == table)

/-- Completion notices of the update passes of the job's step, and item notices of its passes. -/
def Job.passNotice (j : Job) (x : List Nat) : Bool :=
  x.head? == some 0x361 && x[5]? == some j.t && j.owns ((x[1]?).getD 0) ((x[7]?).getD 0)
def Job.itemNotice (j : Job) (x : List Nat) : Bool := x.head? == some 0x3610 && j.owns ((x[1]?).getD 0) ((x[8]?).getD 0)
def State.passNotices (s : State) (j : Job) : List (List Nat) := s.notices.filter (fun x => j.passNotice x && x[6]? == some 0)

/-- Does a pass of the job's step run or wait on a cellar die? -/
def State.passOn (s : State) (j : Job) (dist : Bool) : Bool :=
  [1, 2, 3, 4].any (fun d =>
    let hit := fun (p : Pass) => p.step == j.t && j.owns d p.table && (dist || !p.dist)
    (s.cellar d).running.any hit || (s.cellar d).queued.any hit)

/-- An update command of the step has been issued (R540). -/
def State.updating (s : State) (j : Job) : Bool := s.passOn j false || !(s.passNotices j).isEmpty

/-- The step's update passes have completed (R480). -/
def State.passesDone (s : State) (j : Job) : Bool :=
  !s.passOn j true && j.updDies.all (fun d => (s.passNotices j).any (fun x => x[1]? == some d))

/-- Every channel of the job is closed or ended in the step; distribution is acknowledged or has failed. -/
def State.channelsDone (s : State) (j : Job) : Bool :=
  j.chans.all (fun c => decide (2 ≤ (s.chan c.1).phase)) &&
  !s.reqs.any (fun r => decide (0x13 ≤ r.kind) && j.chans.any (fun c => c.1 == tagChan r.tag)) &&
  !(s.notices.any j.itemNotice)

/-! ### Update commands (R355, R445, R452, R456) -/

/-- The job whose update items a command names. -/
def State.tableJob (s : State) (d table : Nat) : Option (Nat × Job) := s.jobs.find? (fun j => j.2.owns d table)

/-- The norm channel of a job. -/
def State.normChan (s : State) (j : Job) : Option Nat := (j.chans.map (·.1)).find? s.chanNorm

/-- Is the supervisor's update command of a job withheld: while a move of one of its pages is under way (R354); and unless it only distributes,
while no step is open, after the step has ended, and before the norm result (R445, R456)? -/
def State.updateWithheld (s : State) (space : Nat) (j : Job) (dist : Bool) : Bool :=
  s.sup.moves.any (fun m => m.begun && m.space == space) ||
  (!dist && (!j.open_ || j.ended || (s.normChan j).any (fun c => (s.chan c).phase != 2)))

/-- The command as the supervisor sends it: SSQ of the norm result in its place, under a check over the sequence number (R452). -/
def State.withSsq (s : State) (d : Nat) (j : Job) (bs : List Byte) : List Byte :=
  match s.normChan j with
  | none => bs
  | some c =>
    let b := bs.take 12 ++ leBytes 4 (s.fld (Reg.redInfo (Reg.redDie c)) 0 32) ++ (bs.drop 16).take 44
    b ++ leBytes 4 (check32c b (s.cellar d).cmds)

/-- UPDATE_COMMAND of the bytes at a cellar die. Of a job's own update the supervisor places SSQ, and issues nothing that it withholds; a command
whose check does not hold arrives as it is. -/
def execUpdateCommand (cellar : Fin 4) (bytes : List (BitVec 8)) (s : State) : Out :=
  let d := cellar.val + 1
  let p := parsePass bytes
  let good := bytes.length == 64 && fieldAt bytes 60 4 == check32c (bytes.take 60) (s.cellar d).cmds
  if s.inReset then .next s
  else match s.tableJob d p.table with
    | none => .next (s.updateCommand d bytes)
    | some (space, j) =>
      if !good then .next (s.updateCommand d bytes)
      else if s.updateWithheld space j p.dist then .next s
      else .next (s.updateCommand d (if p.dist then bytes else s.withSsq d j bytes))

/-- The lowest channels first, then ranks: the missing items of the step record. -/
def State.missingItems (s : State) (j : Job) : List Nat :=
  ((List.range 64).filter (fun c => j.chans.any (fun x => x.1 == c))).flatMap (fun c =>
    ((List.range (s.chanM c)).filter (fun r => (s.chan c).missing.contains r)).map (fun r => r + c * 8192))

/-- Cut a list into runs of n. -/
def chunks {α : Type} (n : Nat) (xs : List α) : List (List α) :=
  (List.range ((xs.length + n - 1) / n)).map (fun i => (xs.drop (n * i)).take n)

/-- The STEP entry and its STEP_MORE entries (R483). -/
def State.stepRecord (s : State) (j : Job) (status : Nat) : State :=
  let missing := s.missingItems j
  let floored := (s.passNotices j).flatMap (fun x => x.drop 8)
  let count := ((s.passNotices j).map (fun x => (x[4]?).getD 0)).foldl (· + ·) 0
  let ssq := (((s.normChan j).filter (fun c => (s.chan c).phase == 2)).map (fun c => s.fld (Reg.redInfo (Reg.redDie c)) 0 32)).getD 0
  let all := (chunks 10 missing).map (fun x => (x.length, leBytes 1 1 ++ leBytes 1 x.length ++ [0, 0] ++ x.flatMap (leBytes 4))) ++
    (chunks 5 floored).map (fun x => (x.length, leBytes 1 2 ++ leBytes 1 x.length ++ [0, 0] ++ x.flatMap (leBytes 8)))
  let sent := all.take (s.fld Reg.stepMore 0 8)
  let left := missing.length + count - (sent.map (·.1)).foldl (· + ·) 0
  let took := s.time.toNat - j.t0.toNat
  let body := leBytes 8 j.t ++ leBytes 8 (j.ordinal - 1) ++ leBytes 2 status ++ leBytes 2 (min missing.length 65535) ++ leBytes 4 count ++
    leBytes 4 ssq ++ leBytes 8 j.t0.toNat ++ leBytes 4 (min took (2 ^ 32 - 1)) ++ leBytes 2 sent.length ++ leBytes 2 (min left 65535)
  sent.foldl (fun t x => t.postJob 0x22 j x.2) (s.postJob 0x21 j body)

/-- The status of the step record. -/
def State.stepStatus (s : State) (j : Job) : Nat :=
  let st := (s.passNotices j).map (fun x => (x[2]?).getD 0)
  if j.late then 4 else if j.ended then 1 else if st.contains 2 then 2 else if st.contains 1 then 3 else 0

/-- The step closes: its record, and what comes after it. -/
def State.closeJobStep (s : State) (space : Nat) (j : Job) : State :=
  let s := s.stepRecord j (s.stepStatus j)
  let s := { s with notices := s.notices.filter (fun x => !j.passNotice x) }
  let n := if j.ended then j.stepsDone else j.t
  let s := s.mapJob space (fun x => { x with open_ := false, stepsDone := n, closedAt := some (x.closedAt.getD s.ns) })
  let j := { j with stepsDone := n }
  if j.st = .paused then s
  else if !j.ended ∧ j.steps ≠ 0 ∧ j.steps ≤ j.t then
    (s.postJob 0x23 j (leBytes 8 0 ++ leBytes 8 n)).mapJob space (fun x => { x with st := .finished, pausing := false })
  else if j.pausing then s.pauseNow space j
  else if s.isRoot j then s.openStep space j j.ended else s

def execStepClose (space : Fin 16) (s : State) : Out :=
  match s.jobAt space with
  | none => .next s
  | some j =>
    if j.open_ ∧ j.ending.isNone ∧ j.rewind.isNone ∧ s.channelsDone j ∧ (j.ended ∨ s.passesDone j) ∧ (!j.ended ∨ !s.updating j ∨ s.passesDone j) ∧
        !s.recov.any (fun r => r.jobs.contains j.id) then
      .next (s.closeJobStep space j)
    else .next s

def execJobStepLate (space : Fin 16) (s : State) : Out :=
  match s.jobAt space with
  | none => .next s
  | some j =>
    if j.limit ≠ 0 ∧ j.open_ ∧ !j.late ∧ j.ending.isNone ∧ j.t0.toNat + j.limit ≤ s.time.toNat then
      let s := (s.jobFault j 0x407 0 0).mapJob space (fun x => { x with late := true })
      .next (s.endJobStep space j true)
    else .next s

/-- The step root is lost (R482): no route to it for the limit, or no STEP_OPEN for the next ordinal within 2 × LIMIT after the own step closed
or ended. -/
def State.rootLost (s : State) (space : Nat) (j : Job) : Bool :=
  j.st == .running && j.root != s.pkg &&
  ((match j.noRoute with | some n => decide (n + s.e2eLimitNs 5 ≤ s.ns) | none => false) ||
   (j.limit != 0 && !s.stepWaits space j && (match j.closedAt with | some n => decide (n + 2 * j.limit ≤ s.ns) | none => false) && decide (0 < j.ordinal)))

def execJobRootLost (space : Fin 16) (s : State) : Out :=
  match s.jobAt space with
  | none => .next s
  | some j =>
    if j.ending.isNone ∧ s.rootLost space j then
      let s := s.jobFault j 0x409 j.root ((j.ordinal - 1) % 2 ^ 32)
      let s := if j.open_ then s.endJobStep space j true else s
      .next (s.startTeardown space j 3 false)
    else .next s

/-! ### The mailbox (R489, R490) and bubbles (R484, R485) -/

def execMailboxArrival (space : Fin 16) (s : State) : Out :=
  match s.jobAt space with
  | none => .next s
  | some j =>
    let s := s.pegScreen j.mboxPeg
    let w := s.pegWord j.mboxPeg
    if pegState w ≠ 0 ∨ !pegFull w ∨ j.ending.isSome then .next s
    else
      match s.redRead space (j.mboxVa + 64 * (j.mboxSeq % j.mboxN)) 64 with
      | (t, .error _) => .next t
      | (t, .ok bs) =>
        let t := t.setPeg j.mboxPeg (pegTaken w) 5
        let good := entCheckOk bs j.mboxSeq && entJob bs == j.id && decide (0x50 ≤ entType bs ∧ entType bs ≤ 0x53)
        let t := if good then t else (if entCheckOk bs j.mboxSeq then t else t.chkFail 4).jobFault j 0x408 0 0
        .next (t.mapJob space (fun x => { x with mboxSeq := x.mboxSeq + 1, mboxq := if good then x.mboxq ++ [bs] else x.mboxq }))

/-- The head of the mailbox entries read, of this type. -/
def Job.mail (j : Job) (etype : Nat) : Option (List Byte) :=
  match j.mboxq with
  | bs :: _ => if entType bs = etype then some (entBody bs) else none
  | [] => none

def State.dropMail (s : State) (space : Nat) : State := s.mapJob space (fun x => { x with mboxq := x.mboxq.drop 1 })

/-- The cores of the stage that take bubbles. -/
def Job.bubCores (j : Job) : List CoreEnt := j.cores.filter (fun e => e.bubOff != 0xFFFFFFFF)

/-- A bubble word (R484). -/
def bubbleWord (off kind b seq slot micro : Nat) : List Byte :=
  let w := leBytes 4 kind ++ leBytes 4 b ++ leBytes 8 seq ++ leBytes 8 slot ++ leBytes 4 micro ++ leBytes 32 0
  w ++ leBytes 4 (check32c w off)

/-- Every core has reached bubble b: the kind is chosen, the words written and the pegs filled. The first queued request whose entry program fits
the bubble is served; how long a bubble is the spec does not say but for a serving-only job, whose bubbles never end (log entry 59). -/
def State.giveBubble (s : State) (space : Nat) (j : Job) (b : Nat) : State :=
  let extra := (j.serving.map (·.extra)).getD 0
  let len := fun (q : ServReq) => ((j.serving.bind (fun x => x.programs[q.prog]?))).getD 0
  let req := j.queue.find? (fun q => j.micro == 0 || decide (len q ≤ Config.bubbleLen j.id b))
  let pick : Nat × Nat × Nat × Nat := match req with
    | some q => (2, q.seq, q.slot, 0)
    | none => if j.extras < extra then (1, 0, 0, j.micro + j.extras) else (0, 0, 0, 0)
  let s := j.bubCores.foldl (fun t e =>
    (t.wr (storeKey e.core e.bubOff) (bubbleWord e.bubOff pick.1 b pick.2.1 pick.2.2.1 pick.2.2.2)).supFill space (e.peg e.bubPeg)) s
  s.mapJob space (fun x => { x with
    queue := x.queue.filter (fun q => some q != req), extras := if pick.1 = 1 then x.extras + 1 else x.extras,
    bubbles := x.bubbles.filter (fun y => y.2 != b) })

def execBubbleAt (space : Fin 16) (s : State) : Out :=
  match s.jobAt space with
  | none => .next s
  | some j =>
    match j.mail 0x50 with
    | none => .next s
    | some body =>
      let y := (fieldAt body 0 4, fieldAt body 4 4)
      let s := (s.dropMail space).mapJob space (fun x => { x with bubbles := x.bubbles.filter (· != y) ++ [y] })
      let reached := y :: j.bubbles
      if j.bubCores.all (fun e => reached.contains (e.core, y.2)) then .next (s.giveBubble space j y.2) else .next s

/-- Pieces of 512 bytes read from a space. -/
def State.spaceRead (s : State) (space va n : Nat) : List Byte :=
  (List.range ((n + 511) / 512)).flatMap (fun i =>
    match (s.redRead space (va + 512 * i) (min 512 (n - 512 * i))).2 with
    | .ok bs => bs
    | .error _ => [])

def execReqOut (space : Fin 16) (s : State) : Out :=
  match s.jobAt space with
  | none => .next s
  | some j =>
    match j.mail 0x51, j.serving with
    | some body, some x =>
      let s := s.dropMail space
      let seq := fieldAt body 0 8
      let len := fieldAt body 8 4
      match (List.range x.slots).find? (fun i => match Tab.get (fun _ => none) j.slots i with | some y => y.seq == seq | none => false) with
      | none => .next s
      | some i =>
        match Tab.get (fun _ => none) j.slots i with
        | none => .next s
        | some y =>
          let s := s.mapJob space (fun z => { z with slots := Tab.set (fun _ => none) z.slots i none })
          if y.done then .next s
          else
            let n := min len y.cap
            let bs := s.spaceRead space (x.va + i * x.size) n
            let pad := bs ++ List.replicate ((16 - bs.length % 16) % 16) 0
            let out := (List.range pad.length).map (fun k =>
              Config.xtsEnc (j.key 1 0) (2 ^ 126 + y.id * 2 ^ 32 + k / 512) ((pad.drop (k / 512 * 512)).take 512) (k % 512))
            let s := s.wr (busKey y.out) out
            .next (s.postJob 0x24 j (leBytes 8 y.id ++ leBytes 4 (if y.cap < len then 2 else 0) ++ leBytes 4 n ++ leBytes 8 (s.ns - y.taken)))
    | some _, none => .next (s.dropMail space)
    | _, _ => .next s

/-- The pages of a range of n bytes from va on in a space, m bounds them: 2 MiB or 64 KiB each; what no table maps is passed over. -/
def State.pagesOf (s : State) (space : Nat) : Nat → Nat → Nat → List Nat
  | 0, _, _ => []
  | m + 1, va, stop =>
    if stop ≤ va then []
    else match s.leafAt space va with
      | some (_, _, _, big) => va :: s.pagesOf space m (va / pageBytes big * pageBytes big + pageBytes big) stop
      | none => s.pagesOf space m (va + 0x10000) stop

/-- PLACE: the pages of the range move to the frames that the supervisor gives them, one each (R322), and after the last of them the reply peg is
filled. -/
def execPlace (space : Fin 16) (frames : List (Fin 4 × BitVec 24)) (s : State) : Out :=
  match s.jobAt space with
  | none => .next s
  | some j =>
    match j.mail 0x52 with
    | none => .next s
    | some body =>
      let va := fieldAt body 0 8
      let len := fieldAt body 8 8
      let peg := fieldAt body 18 2
      let tag := some (peg, j.mboxSeq - j.mboxq.length)
      let pages := s.pagesOf space (min len (2 ^ 47) / 0x10000 + 2) va (va + len)
      if frames.length < pages.length then .next s
      else
        let s := s.dropMail space
        let s := (pages.zip frames).foldl (fun t x =>
          t.askMove ⟨space, x.1, x.2.1, byteAt body 16 % 2, x.2.2.toNat, false, tag⟩) s
        let s := if s.sup.moves.any (fun m => m.space == space.val && m.place == tag) then s
          else s.supFill space peg
        .next s.beginMoves

def execMailboxNote (space : Fin 16) (s : State) : Out :=
  match s.jobAt space with
  | none => .next s
  | some j =>
    match j.mail 0x53 with
    | none => .next s
    | some body => .next ((s.dropMail space).postJob 0x25 j (body.take 40))

/-! ### CTRL packets with ring entries (R469, R572, R573) -/

/-- Take an entry that came over the fabric into the queue of its kind. -/
def State.queueEntry (s : State) (space seq : Nat) (bs : List Byte) : State :=
  let t := entType bs
  if 2 ≤ t ∧ t ≤ 5 then { s with sup := { s.sup with jobq := s.sup.jobq ++ [⟨seq, bs, 0⟩] } }
  else if t = 0x10 then { s with sup := { s.sup with reqq := s.sup.reqq ++ [⟨seq, bs, 0⟩] } }
  else { s with sup := { s.sup with fabq := s.sup.fabq ++ [(space, bs)] } }

/-- The types that another package may send. -/
def fabricType (t : Nat) : Bool := decide (2 ≤ t ∧ t ≤ 5) || t == 0x10 || t == 0x40 || t == 0x41

/-- A CTRL packet of 64 bytes: a duplicate is acknowledged, one out of sequence or met by a full hold is turned away, and one that
passes its check and tag is queued. -/
def State.takeCtrlEntry (s : State) (p : Pkt) : State :=
  let bs := p.payload
  match s.jobById (entJob bs) with
  | none => (s.attempt p.home 0x704 3 (s.unitDie p.home)).nak p 0 4 (leBytes 4 3)
  | some (space, j) =>
    let k := pairKey space p.src
    let seq := Tab.get (fun _ => 0) s.pairIn k
    if (List.range seq).any (fun i => ctrlTag space i == p.tag) then s.ackPkt p 0
    else if !entCheckOk bs seq then (s.chkFault 4 seq (check32c (bs.take 60) seq) (fieldAt bs 60 4)).nak p 0 3 [0]
    else if fieldAt bs 52 8 ≠ entTag (j.key 3 0) bs seq 0 then (s.attempt p.home 0x704 3 (s.unitDie p.home)).nak p 0 4 (leBytes 4 3)
    else if 256 ≤ s.sup.held.length then s.nak p 0 1 [0]
    else
      let s := { s with pairIn := Tab.set (fun _ => 0) s.pairIn k (seq + 1) }
      if !fabricType (entType bs) ∨ !entClean bs then (s.supFault 0x405 0 0 0 0).ackPkt p 0
      else (s.queueEntry space seq bs).ackPkt p 0

end Sys2Proof.Machine
end

