-- ==== Sys2Proof/Machine/Pulls.lean ====
section
/-! DEFINITION. What a package asks its parent for in the fabric form of step 13 (R513): the parent, the pull requests, and a pull that has no
answer. -/
namespace Sys2Proof.Machine

namespace Reg
def fwAddr (i : Nat) : Nat := 0x10100 + 0x10 * i
def fwLen (i : Nat) : Nat := 0x10108 + 0x10 * i
def fwSource : Nat := 0x10140
def fwStatus : Nat := 0x10148
def svn : Nat := 0x70040
end Reg

def State.onBu (s : State) (f : Bu → Bu) : State := { s with bu := f s.bu }
def State.onFw (s : State) (f : Fw → Fw) : State := s.onBu (fun b => { b with fw := f b.fw })
def fwKey (image index : Nat) : Nat := image * 65536 + index
def State.fwChunk (s : State) (image index : Nat) : List Byte := Tab.get (fun _ => []) s.bu.fw.chunks (fwKey image index)
def State.fwTotal (s : State) (image : Nat) : Nat := Tab.get (fun _ => 0) s.bu.fw.totals image
/-- The image being taken, and the chunks of it held. -/
def State.fwImage (s : State) : Nat := s.fld Reg.fwStatus 4 2
def State.fwHeld (s : State) : Nat := s.fld Reg.fwStatus 16 16
def State.verified (s : State) (image : Nat) : Bool := s.fld Reg.fwStatus image 1 == 1

/-- A port up at the end of step 10. -/
def State.portUp (s : State) (g : Nat) : Bool := s.portState g == 2 || s.portState g == 3 || s.portState g == 6

/-- Is step 13 taking chunks? -/
def State.takingChunks (s : State) : Bool := s.bu.step == 13 && s.bu.state == 1 && s.bu.acted && s.bu.fail.isNone && !s.verified 3

/-! ### Pulls (R513) -/

/-- The package that port g is connected to. -/
def State.peerOf (s : State) (g : Nat) : Nat := s.fld (Reg.portStatus g) 16 13

/-- The port of the parent: the last hop of the route from BU_FW_SOURCE if it is up, else the lowest up port. -/
def State.fwParent (s : State) : Option Nat :=
  let m := s.fld Reg.fwSource 0 13
  let last := if m = s.pkg then none else (s.route m s.pkg).bind (fun r =>
    (([3, 2, 1, 0].find? (fun d => s.coord m d != s.coord s.pkg d)).map (fun d => 2 * d + boolNat (!r.testBit d))))
  match last.filter s.portUp with
  | some g => some g
  | none => (List.range 8).find? s.portUp

/-- The payload of a pull request with its check over the control payload's fold value (R406, R547 class 10; DEDUCED, log entry 67). -/
def pullPayload (tag src dst : Nat) (body : List Byte) : List Byte := body ++ leBytes 4 (check32c body (ctlFold tag src dst))
def pullCheckOk (p : Pkt) (dst : Nat) : Bool :=
  fieldAt p.payload 16 4 == check32c (p.payload.take 16) (ctlFold p.tag p.src dst)

/-- The TAG of a pull request of chunks from first on. -/
def pullTag (image first : Nat) : Nat := 3 * 2 ^ 30 + fwKey image first

/-- Ask the parent for count chunks of the image being taken, from first. -/
def State.pull (s : State) (first count : Nat) : State :=
  let image := s.fwImage
  let dst := s.peerOf (s.fld Reg.fwStatus 8 3)
  let tag := pullTag image first
  (s.onFw (fun f => { f with asked := f.asked ++ (List.range count).map (· + first) })).sendReq
    { tag := tag, kind := 8, dst := dst, addr := 0, len := 20,
      bytes := pullPayload tag s.pkg dst (leBytes 16 (Config.pullRequest image first count)), first := s.ns, last := s.ns }

/-- Ask for the next chunks when none is outstanding: chunk 0 alone first, then up to 64 at a time. -/
def State.pullNext (s : State) : State :=
  let held := s.fwHeld
  if !s.bu.fw.asked.isEmpty ∨ s.verified 3 then s
  else if held = 0 then s.pull 0 1
  else s.pull held (min 64 (s.fwTotal s.fwImage - held))

/-- Move to the next up port in ascending g, and ask there for everything outstanding. -/
def State.nextParent (s : State) : State :=
  let g := s.fld Reg.fwStatus 8 3
  match ((List.range 8).map (fun k => (g + 1 + k) % 8)).find? s.portUp with
  | none => s
  | some x =>
    let asked := s.bu.fw.asked
    let s := (s.setFld Reg.fwStatus 8 3 x).onFw (fun f => { f with fails := [], asked := [] })
    asked.foldl (fun t k => t.pull k 1) s

/-- A failed check of a chunk: counted and noted. Its failures so far. -/
def State.chunkFail (s : State) (index : Nat) : State × Nat :=
  let i := s.fwImage
  let n := Tab.get (fun _ => 0) s.bu.fw.fails index + 1
  let s := (s.chkFail 8).note 0x0D01 0 s.unitPkg i index
  (s.onFw (fun f => { f with fails := Tab.set (fun _ => 0) f.fails index n }), n)

/-- A chunk of the image has failed, or was not sent: it is asked for again, and elsewhere after 8 failures from one parent. -/
def State.retryChunk (s : State) (k : Nat) : State :=
  let r := s.chunkFail k
  if 8 ≤ r.2 then r.1.nextParent else (r.1.onFw (fun f => { f with asked := f.asked.erase k })).pull k 1

/-- A pull request has ended without an answer (R405): the chunks it asked for that have not come fail with this parent. -/
def State.pullFailed (s : State) (tag : Nat) : State :=
  let ks := s.bu.fw.asked.filter (fun k => decide (pullTag s.fwImage k % 2 ^ 32 ≤ tag + 63 ∧ tag ≤ pullTag s.fwImage k % 2 ^ 32 + 63) &&
    decide (tag ≤ pullTag s.fwImage k % 2 ^ 32))
  if !s.takingChunks ∨ s.planCode 13 ≠ 2 then s
  else ks.foldl (fun t k => if t.bu.fw.asked.contains k then t.retryChunk k else t) s

end Sys2Proof.Machine
end

