-- ==== Sys2Proof/Machine/Answers.lean ====
section
/-! DEFINITION. Answers at the requester (R401, R402, R404): READ_DATA, ACK and NAK, and the timers of a request that has no answer
(R403, R405). -/
namespace Sys2Proof.Machine

/-- A request has its answer: what it was waited for goes on. -/
def State.answered (s : State) (r : Req) (data : List Byte) : State :=
  let s := s.dropReq r
  if r.kind ≤ 3 then s.memAnswered r data
  else if r.kind = 8 then s.relayDone r
  else s.redAcked r

/-- A request refused with NAK reason 4 is not resent. -/
def State.refusedReq (s : State) (r : Req) (cause : Nat) : State :=
  let s := s.dropReq r
  if r.kind ≤ 3 then s.memRefused r cause
  else if r.kind = 8 then s.relayDone r
  else s.redRefused r

/-- The guyline die at which a request leaves: the one that holds its first port. -/
def State.reqDie (s : State) (r : Req) : Nat :=
  match (s.route s.pkg r.dst).bind (fun x => s.exitPort s.pkg r.dst x) with
  | some g => guyDie g
  | none => 5

/-- A request failed under R405: recorded at its source, and what waited for it told. -/
def State.failedReq (s : State) (r : Req) : State :=
  let die := s.reqDie r
  let s := (s.dropReq r).record die 0x612 2 (s.unitDie die) r.dst r.tag 0 0
  if r.kind ≤ 3 then s.memFailed r
  else if r.kind = 8 then (if r.len = 20 then s.pullFailed r.tag else s.relayDone r)
  else s.redFailed r

/-- Change a request that waits. -/
def State.mapReq (s : State) (r : Req) (f : Req → Req) : State := { s with reqs := replaceFirst (fun x => x == r) f s.reqs }

/-- Send a request once more. -/
def State.resend (s : State) (r : Req) : State :=
  let f := fun (x : Req) => { x with last := s.ns, backoff := false }
  (s.mapReq r f).emit (f r)

/-- A response that its header check passes and that answers a request of this package (R404, R551). -/
def State.response (s : State) (typ n : Nat) : Option (Pkt × State × Option Req) :=
  (s.takePkt typ n).map (fun x =>
    match x.2.checked x.1 with
    | some t => (x.1, t, none)
    | none => (x.1, x.2, x.2.reqOf x.1))

def execReadData (n : Nat) (s : State) : Out :=
  match s.response 4 n with
  | some (p, t, some r) => if r.kind = 3 then .next (t.answered r (t.clear p)) else .next t
  | some (_, t, none) => .next t
  | none => .next s

def execAck (n : Nat) (s : State) : Out :=
  match s.response 5 n with
  | some (_, t, some r) => if r.kind = 3 then .next t else .next (t.answered r [])
  | some (_, t, none) => .next t
  | none => .next s

/-- The cause of R263 that a refusal gives: 4 for a target in reset, else 3. -/
def nakCause (p : Pkt) : Nat := if byteAt p.payload 0 = 4 then 4 else 3

def execNak (n : Nat) (s : State) : Out :=
  match s.response 6 n with
  | some (p, t, some r) =>
    match p.reason with
    | 1 => .next (t.mapReq r (fun x => { x with backoff := true, last := t.ns }))
    | 2 => .next ((t.mark (fieldAt p.payload 0 2 % 8192) (byteAt p.payload 2 % 8) true).resend r)
    | 3 => .next (t.resend r)
    | 4 => .next (t.refusedReq r (nakCause p))
    | _ => .next t
  | some (_, t, none) => .next t
  | none => .next s

/-! ### Timers -/

/-- Nanoseconds of a request's timers at its guyline die. -/
def State.e2eBackoffNs (s : State) (die : Nat) : Nat := s.fld (Reg.e2eCfg die) 0 8 * 1000
def State.e2eTimeoutNs (s : State) (die : Nat) : Nat := s.fld (Reg.e2eCfg die) 8 8 * 10000

def execE2eTimeout (n : Nat) (s : State) : Out :=
  match s.reqs[n]? with
  | none => .next s
  | some r => if !r.backoff ∧ r.last + s.e2eTimeoutNs (s.reqDie r) ≤ s.ns then .next (s.resend r) else .next s

def execBackoffExpire (n : Nat) (s : State) : Out :=
  match s.reqs[n]? with
  | none => .next s
  | some r => if r.backoff ∧ r.last + s.e2eBackoffNs (s.reqDie r) ≤ s.ns then .next (s.resend r) else .next s

def execE2eLimit (n : Nat) (s : State) : Out :=
  match s.reqs[n]? with
  | none => .next s
  | some r => if r.first + s.e2eLimitNs (s.reqDie r) ≤ s.ns then .next (s.failedReq r) else .next s

end Sys2Proof.Machine
end

