-- ==== Sys2Proof/Machine/Islands.lean ====
section
/-! DEFINITION. Core clock islands (R41, R42) and the measurement registers (R558, R559). -/
namespace Sys2Proof.Machine

/-! ### Measurement registers -/

namespace Reg
def mr (i j : Nat) : Nat := 0x70200 + 0x40 * i + 8 * j
end Reg

/-- A SHA-384 digest as its 48 bytes. -/
def digest (msg : List Byte) : List Byte := leBytes 48 (Config.sha384 msg)

/-- The 48 bytes of MRi. -/
def State.mrBytes (s : State) (i : Nat) : List Byte := (List.range 6).flatMap (fun j => leBytes 8 (s.regN (Reg.mr i j)))
def State.setMr (s : State) (i : Nat) (bs : List Byte) : State :=
  (List.range 6).foldl (fun t j => t.setRegN (Reg.mr i j) (fieldAt bs (8 * j) 8)) s
/-- Extend MRi with a digest (R558). -/
def State.extendMr (s : State) (i : Nat) (x : List Byte) : State := s.setMr i (digest (s.mrBytes i ++ x))

/-! ### ISL_CORE_FREQ -/

/-- A frequency change of core c: a running island's clock is held; a write during a change is kept; the step in effect is no change. -/
def State.setFreq (s : State) (c step : Nat) : State :=
  let r := Reg.coreFreq c
  if s.fld r 31 1 = 1 then s.setCore c { s.core c with kept := some step }
  else
    let s := s.setFld r 0 4 step
    if (s.core c).clkOn && step != s.fld r 16 4 then (s.setFld r 31 1 1).setCore c { s.core c with clkHeld := true } else s

/-- Is the path the steward's? -/
def stewardPath : Path → Bool
  | .supervisor _ => false
  | _ => true

/-- Between step 12 and Ready a steward's write extends MR1 once more (R559). -/
def State.measuresWrites (s : State) : Bool := (decide (12 < s.bu.step) || (s.bu.step == 12 && s.bu.state == 2)) && !s.bu.ready

def State.freqWrite (s : State) (path : Path) (c v : Nat) : State :=
  let r := Reg.coreFreq c
  let step := bitsOf v 0 4
  if 13 ≤ step then s.unmapped r
  else if s.locked path r then (if step = s.fld r 0 4 then s else s.attempt 0 0x701 0 (s.unitDie 0))
  else
    let s := if stewardPath path && s.measuresWrites then s.extendMr 1 (digest (leBytes 4 r ++ leBytes 4 v)) else s
    s.setFreq c step

def execCoreFreqChange (c : Fin 64) (path : Path) (v : BitVec 32) (s : State) : Out :=
  s.guarded path (Reg.coreFreq c) (fun s => s.freqWrite path c v.toNat)

/-- The PLL has relocked: the core runs at the new step, and a kept write is applied. -/
def State.relocked (s : State) (c : Nat) : State :=
  let r := Reg.coreFreq c
  if s.fld r 31 1 = 1 then
    let k := s.core c
    let s := ((s.setFld r 16 4 (s.fld r 0 4)).setFld r 31 1 0).setCore c { k with clkHeld := false, kept := none }
    match k.kept with
    | some step => s.setFreq c step
    | none => s
  else s

def execCoreFreqRelockDone (c : Fin 64) (s : State) : Out := .next (s.relocked c)

end Sys2Proof.Machine
end

