-- ==== Sys2Proof/Machine/BringUp.lean ====
section
/-! DEFINITION. Bring-up (R496 to R520): the GO and the end of a step, the yield map, the spares and the steps but for firmware. A step's
command is its GO and its action at once; where the GO was written to BU_CTRL before, it is the action alone. -/
namespace Sys2Proof.Machine

namespace Reg
def buCtrl : Nat := 0x10000
def buPlan : Nat := 0x10010
def buWait : Nat := 0x10018
def buAside (q : Nat) : Nat := 0x10030 + 4 * q
def spareCore : Nat := 0x10044
def fuseCore (q : Nat) : Nat := 0x10200 + 4 * q
def testCore (q : Nat) : Nat := 0x10210 + 4 * q
def yieldCore (q : Nat) : Nat := 0x10220 + 4 * q
def yieldSup : Nat := 0x10230
def yieldArray (p e : Nat) : Nat := 0x10400 + 8 * p + 4 * e
def celOk (die : Nat) : Nat := cellar die
def opeRemap (c e : Nat) : Nat := opeBase c e
end Reg

/-! ### GO and end -/

/-- Does R497 refuse the GO of a step? -/
def Bu.refusesGo (b : Bu) (step : Nat) : Bool :=
  b.state == 1 || b.ended || !((step == 1 && b.state == 0) || (step == b.step + 1 && (b.state == 2 || b.state == 4))) ||
  decide (step = 0 ∨ 15 < step)


/-- The running step fails, once it ends, with this detail (R518). -/
def State.buFail (s : State) (detail fault : Nat) (unit : W32) (d0 d1 : Nat) : State :=
  s.onBu (fun b => { b with fail := some ⟨detail, fault, unit, d0, d1⟩ })

/-- The running step ends: its outcome entry and BU_STATUS (R499). Outcome 0 passed, 1 failed, 2 skipped. -/
def State.buEnd (s : State) (outcome detail fault : Nat) (unit : W32) (d0 d1 : Nat) : State :=
  let b := s.bu
  let s := s.logEntry ⟨b.step, outcome, s.planCode b.step, detail, fault, unit, (s.ns - b.began) / 1000, s.time, BitVec.ofNat 32 d0, BitVec.ofNat 32 d1⟩
  s.onBu (fun b => { b with state := if outcome = 0 then 2 else if outcome = 1 then 3 else 4, ended := b.ended || outcome == 1, fail := none })

/-- The GO of a step (R497): a refused one is noted; a skipped step ends at once (R516). -/
def State.buGo (s : State) (step : Nat) : State :=
  if s.bu.refusesGo step then s.note 0 0x082 s.unitPkg 0 0
  else
    let s := s.onBu (fun b => { b with step := step, state := 1, began := s.ns, acted := false, fail := none })
    if s.planCode step = 1 ∧ (step = 10 ∨ step = 11) then s.buEnd 2 0 0 s.unitPkg 0 0 else s

/-- A step's command: its GO where the step does not run yet, and its action. -/
def State.buStep (s : State) (path : Path) (step : Nat) (act : State → State) : Out :=
  let run := fun (t : State) =>
    if t.bu.step = step ∧ t.bu.state = 1 ∧ !t.bu.acted then act (t.onBu (fun b => { b with acted := true })) else t
  if s.bu.step = step ∧ s.bu.state = 1 ∧ !s.bu.acted then .next (run s)
  else
    let s := s.accessed path
    match s.guard path Reg.buCtrl with
    | some t => .next t
    | none => .next (if s.bu.refusesGo step then s.buGo step else run (s.buGo step))

/-- The limit of the running step in ns (R502). -/
def State.buLimit (s : State) : Nat :=
  let ms := 1000000
  match s.bu.step with
  | 1 => 5 * ms
  | 2 => 2 * ms
  | 3 => if s.planCode 3 = 2 then 30 * ms else 180 * ms
  | 6 => 10 * ms
  | 7 => 50 * ms
  | 8 => 150 * ms
  | 9 => 600 * ms
  | 10 => s.fld Reg.buWait 0 16 * 1000 * ms
  | 11 => 100 * ms
  | 12 => 20 * ms
  | 13 => if s.planCode 13 = 2 then s.fld Reg.buWait 16 16 * 1000 * ms else 2000 * ms
  | 14 => 50 * ms
  | _ => ms

/-! ### Step 1: power and clocks -/

/-- Is the plan code of step n refused (R516, R502)? -/
def State.planStepBad (s : State) (n : Nat) : Bool :=
  let c := s.planCode n
  let pkg := s.fld Reg.pkgId 0 32
  match n with
  | 3 => !(c == 0 || c == 2)
  | 7 => !(c == 0 || c == 2 || c == 3)
  | 10 => !(decide (c ≤ 2)) || (c == 1 && pkg != 0) || s.fld Reg.buWait 0 16 == 0 || decide (3600 < s.fld Reg.buWait 0 16)
  | 11 => !(c == 0 || (c == 1 && s.planCode 10 == 1))
  | 13 => !(c == 0 || c == 2) || s.fld Reg.buWait 16 16 == 0 || decide (3600 < s.fld Reg.buWait 16 16)
  | _ => c != 0

/-- The first step at fault of the start plan. -/
def State.planBad (s : State) : Option Nat := ((List.range 15).map (· + 1)).find? s.planStepBad

def State.checkPower (s : State) (rail : Option Nat) (pll : Option (Nat × Nat)) : State :=
  let ref156 := (s.pins.lostA || s.pins.lostB) && s.planCode 10 != 1
  match rail with
  | some n => s.buFail 0x0104 0 s.unitPkg n 0
  | none =>
    if s.pins.lost100 then s.buFail 0x0102 0 s.unitPkg 0 0
    else if ref156 then s.buFail 0x0102 0 s.unitPkg 1 0
    else match pll with
      | some (die, mask) => s.buFail 0x0101 0 (s.unitDie die) mask 0
      | none => match s.planBad with
        | some n => s.buFail 0x0103 0x083 s.unitPkg n 0
        | none => s

def execPowerAndClocks (path : Path) (rail : Option (BitVec 32)) (pll : Option (Fin 7 × BitVec 32)) (s : State) : Out :=
  s.buStep path 1 (fun t => t.checkPower (rail.map (·.toNat)) (pll.map (fun x => (x.1.val, x.2.toNat))))

/-! ### Steps 2 to 4: the yield map (R505 to R507) -/

/-- The slots of region q among physical cores, as bits. -/
def slotBits (cores : List Nat) (q : Nat) : Nat :=
  ((List.range 17).filter (fun n => cores.contains (17 * q + n))).foldl (fun a n => a + 2 ^ n) 0

/-- The distinct bad rows, or columns, of an array in a list of defects. -/
def defLines (d : Defects) (p e : Nat) (col : Bool) : List Nat :=
  ((d.arrays.filter (fun a => a.1 == p && a.2.1 == e && a.2.2.1 == col)).map (·.2.2.2)).eraseDups

/-- The union of the fuse map and the test result. -/
def Bu.lines (b : Bu) (p e : Nat) (col : Bool) : List Nat := (defLines b.fuse p e col ++ defLines b.test p e col).eraseDups

/-- The lowest of a list of lines, or 63. -/
def lowLine (l : List Nat) : Nat := l.foldl min 63

/-- BU_YIELD_ARRAY of an array. -/
def Bu.arrayWord (b : Bu) (p e : Nat) : Nat :=
  let rows := b.lines p e false
  let cols := b.lines p e true
  let by' := fun (d : Defects) => boolNat (!(defLines d p e false).isEmpty || !(defLines d p e true).isEmpty)
  lowLine rows + boolNat (decide (2 ≤ rows.length)) * 2 ^ 6 + lowLine cols * 2 ^ 8 + boolNat (decide (2 ≤ cols.length)) * 2 ^ 14 +
    by' b.fuse * 2 ^ 16 + by' b.test * 2 ^ 17

/-- The arrays that a list of defects names. -/
def defNamed (d : Defects) : List (Nat × Nat) := (d.arrays.map (fun a => (a.1, a.2.1))).eraseDups

/-- Show BU_YIELD_ARRAY of every array with a defect. -/
def State.showArrays (s : State) : State :=
  (defNamed s.bu.fuse ++ defNamed s.bu.test).foldl (fun t a => t.setRegN (Reg.yieldArray a.1 a.2) (t.bu.arrayWord a.1 a.2)) s

def maskOf (l : List Nat) (n : Nat) : Nat := ((List.range n).filter (fun i => l.contains i)).foldl (fun a i => a + 2 ^ i) 0

def State.readFuses (s : State) (d : Defects) : State :=
  let s := s.onBu (fun b => { b with fuse := d })
  let s := (List.range 4).foldl (fun t q => t.setRegN (Reg.fuseCore q) (slotBits d.cores q)) s
  (s.setFld Reg.yieldSup 0 4 (maskOf d.sup 4)).showArrays

def execFuseRead (path : Path) (bad : Option (BitVec 32)) (d : Defects) (s : State) : Out :=
  s.buStep path 2 (fun t => match bad with
    | some w => t.buFail 0x0201 0 (t.unitDie 0) w.toNat 0
    | none => t.readFuses d)

/-- The unit of a physical core: its core level where it is one of slots 0 to 15, else its region. -/
def State.unitPhys (s : State) (p : Nat) : W32 :=
  if p % 17 = 16 then s.unitRegion (p / 17) else s.unitCore (16 * (p / 17) + p % 17)

/-- D1 of a defect's note: bit 31 when the fuses do not mark it (R506). -/
def noteD1 (v : Nat) (fused : Bool) : Nat := v + boolNat (!fused) * 2 ^ 31

/-- The unit of a defect with no spare (class, instance), at the lowest level that a note can name (R519): an attic's or peg memory's cluster, the
die of a network, sequencer or router, and the Britum die of a die-to-die module. -/
def State.unitSpareless (s : State) (x : Nat × Nat) : W32 :=
  match x.1 with
  | 1 | 2 => s.unitCluster x.2
  | 4 => s.unitDie 0
  | _ => s.unitDie x.2

/-- The notes of step 3 (R505, R518). -/
def State.noteDefects (s : State) (d : Defects) (tests : List (BitVec 31)) : State :=
  let f := s.bu.fuse
  let s := d.cores.zipIdx.foldl (fun t x =>
    t.note 0x0301 0 (t.unitPhys x.1) (32 * (x.1 / 17) + x.1 % 17) (noteD1 ((tests[x.2]?).getD 0).toNat (f.cores.contains x.1))) s
  let s := d.arrays.foldl (fun t a =>
    t.note (if a.2.2.1 then 0x0303 else 0x0302) 0 (t.unitPhys a.1) (32 * (a.1 / 17) + a.1 % 17 + 256 * a.2.1) (noteD1 a.2.2.2 (f.arrays.contains a))) s
  let s := d.cves.foldl (fun t x => t.note 0x0304 0 (t.unitDie x.1) x.1 (noteD1 x.2 false)) s
  let s := d.sup.foldl (fun t n => t.note 0x0305 0 (t.unitDie 0) 0 (noteD1 n (f.sup.contains n))) s
  d.units.foldl (fun t x => t.note 0x0305 0 (t.unitSpareless x) x.1 (noteD1 x.2 (f.units.contains x))) s

/-- The self-test result: a CVE that the fuses mark bad is not tested. -/
def State.takeTest (s : State) (d : Defects) (tests : List (BitVec 31)) : State :=
  let d := { d with cves := d.cves.filter (fun x => !s.bu.fuse.cves.contains x) }
  let s := s.onBu (fun b => { b with test := d })
  let s := (List.range 4).foldl (fun t q => t.setRegN (Reg.testCore q) (slotBits d.cores q)) s
  let unspared := maskOf ((s.bu.fuse.units ++ d.units).map (fun x => x.1 - 1)) 6
  let s := ((s.setFld Reg.yieldSup 4 4 (maskOf d.sup 4)).setFld Reg.yieldSup 8 6 unspared).setFld Reg.yieldSup 14 1 (boolNat (unspared != 0))
  let bad := s.bu.fuse.cves ++ d.cves
  let s := [1, 2, 3, 4].foldl (fun t die =>
    t.setRegN (Reg.celOk die) (((List.range 16).filter (fun e => !bad.contains (die, e))).foldl (fun a e => a + 2 ^ e) 0)) s
  (s.showArrays).noteDefects d tests

def execSelfTest (path : Path) (d : Defects) (tests : List (BitVec 31)) (s : State) : Out :=
  s.buStep path 3 (fun t => t.takeTest d tests)

/-- Is a physical core bad in the yield map (R506)? -/
def State.physBad (s : State) (p : Nat) : Bool :=
  let b := s.bu
  b.fuse.cores.contains p || b.test.cores.contains p || s.fld (Reg.buAside (p / 17)) (p % 17) 1 == 1 ||
  [0, 1].any (fun e => decide (2 ≤ (b.lines p e false).length ∨ 2 ≤ (b.lines p e true).length))

/-- Bad cores of region q among slots 0 to 15, and whether its spare is bad, by BU_YIELD_CORE. -/
def State.badSlots (s : State) (q : Nat) : List Nat := (List.range 16).filter (fun n => s.fld (Reg.yieldCore q) n 1 == 1)
def State.spareIsBad (s : State) (q : Nat) : Bool := s.fld (Reg.yieldCore q) 16 1 == 1

/-- The first condition of R507 that holds: reason, what it names, and the unit. -/
def State.yieldShort (s : State) : Option (Nat × Nat × W32) :=
  let cves := fun (die : Nat) => ((List.range 16).filter (fun e => s.fld (Reg.celOk die) e 1 == 1)).length
  let sup := s.fld Reg.yieldSup 0 4 ||| s.fld Reg.yieldSup 4 4
  match (List.range 4).find? (fun q => decide (2 ≤ (s.badSlots q).length)) with
  | some q => some (1, q, s.unitDie 0)
  | none => match (List.range 4).find? (fun q => decide (1 ≤ (s.badSlots q).length) && s.spareIsBad q) with
    | some q => some (2, q, s.unitDie 0)
    | none => match [1, 2, 3, 4].find? (fun die => decide (cves die < 12)) with
      | some die => some (3, die, s.unitDie die)
      | none => match (List.range 4).find? (fun n => sup.testBit n) with
        | some n => some (4, n, s.unitDie 0)
        | none => ((List.range 6).find? (fun n => (s.fld Reg.yieldSup 8 6).testBit n)).map (fun n => (5, n + 1, s.unitPkg))

def State.formYield (s : State) : State :=
  let s := (List.range 4).foldl (fun t q =>
    t.setRegN (Reg.yieldCore q) (((List.range 17).filter (fun n => t.physBad (17 * q + n))).foldl (fun a n => a + 2 ^ n) 0)) s
  match s.yieldShort with
  | some (reason, what, unit) => s.buFail 0x0401 0x081 unit reason what
  | none => s

def execYieldMap (path : Path) (s : State) : Out := s.buStep path 4 State.formYield

/-! ### Step 5: spares (R508, R509) -/

/-- SLOTq, and the physical core that carries a logical core. -/
def State.slotOf (s : State) (q : Nat) : Nat := s.fld Reg.spareCore (8 * q) 5
def State.physOf (s : State) (c : Nat) : Nat := if s.slotOf (c / 16) = c % 16 then 17 * (c / 16) + 16 else 17 * (c / 16) + c % 16

/-- Does SLOTq break the first two conditions of R509? -/
def State.slotRefused (s : State) (q : Nat) : Bool :=
  match s.badSlots q with
  | b :: _ => s.slotOf q != b
  | [] => !(s.slotOf q == 31 || (decide (s.slotOf q < 16) && !s.spareIsBad q))

/-- What OPE_REMAP of an array must hold. -/
def State.remapWant (s : State) (c e : Nat) : Nat :=
  let word := fun (col : Bool) =>
    match (s.bu.lines (s.physOf c) e col).filter (· < 32) with
    | l :: _ => l + 2 ^ 6
    | [] => 32
  word false + word true * 2 ^ 8

def State.checkSpares (s : State) : State :=
  match s.bu.spareBad with
  | some (q, v) => s.buFail 0x0501 0 (s.unitDie 0) q v
  | none =>
    match (List.range 4).find? s.slotRefused with
    | some q => s.buFail 0x0501 0 (s.unitDie 0) q (s.slotOf q)
    | none =>
      match (List.range 128).find? (fun n => s.regN (Reg.opeRemap (n / 2) (n % 2)) != s.remapWant (n / 2) (n % 2)) with
      | some n => s.buFail 0x0502 0 (s.unitDie 0) (n / 2) (n % 2)
      | none => s

def execSpares (path : Path) (s : State) : Out := s.buStep path 5 State.checkSpares

/-- The registers of a logical core's block, by their distance from its base. -/
def State.coreRegs (s : State) (c : Nat) : Tab W64 :=
  (s.regs.filter (fun x => decide (Reg.coreBase c ≤ x.1 ∧ x.1 < Reg.coreBase (c + 1)))).map (fun x => (x.1 - Reg.coreBase c, x.2))

/-- The keys of the physical core of region q that carries no identity: its state, its store room and its accumulator memories. -/
def hiddenCore (q : Nat) : Nat := 64 + q
def hiddenStore (q : Nat) : Nat := 2 ^ 72 + q * 2 ^ 20
def hiddenAcc (q : Nat) : Nat := 2 ^ 72 + 2 ^ 30 + q * 2 ^ 18

/-- Exchange n bytes of memory at two keys. -/
def State.swapMem (s : State) (a b n : Nat) : State :=
  let at' := fun (k dst : Nat) => (s.mem.filter (fun x => decide (k ≤ x.1 ∧ x.1 < k + n))).map (fun x => (x.1 - k + dst, x.2))
  let u := (s.zeroMem a n).zeroMem b n
  { u with mem := Tab.setAll Memory.dflt (Tab.setAll Memory.dflt u.mem (at' a b)) (at' b a) }

/-- Exchange a logical core's block with that of the physical core of its region that carries no identity (R508): registers, state and
memories are the physical core's. -/
def State.swapBlock (s : State) (c : Nat) : State :=
  let q := c / 16
  let mine := s.coreRegs c
  let other := Tab.get (fun _ => []) s.spares q
  let s := s.resetRegs (Reg.coreBase c) (Reg.coreBase (c + 1)) (fun _ => false)
  let k := s.core c
  let s := (s.setCore c (s.core (hiddenCore q))).setCore (hiddenCore q) k
  let s := (s.swapMem (storeKey c 0) (hiddenStore q) storeSize).swapMem (accKey c 0 0) (hiddenAcc q) (2 ^ 18)
  { s with regs := Tab.setAll regReset s.regs (other.map (fun x => (x.1 + Reg.coreBase c, x.2))),
           spares := Tab.set (fun _ => []) s.spares q mine }

/-- SLOTq changes to v: the old logical core returns to its own physical core, the new one goes to the spare. -/
def State.repoint (s : State) (q v : Nat) : State :=
  let old := s.slotOf q
  if old = v then s
  else
    let s := if old < 16 then s.swapBlock (16 * q + old) else s
    let s := if v < 16 then s.swapBlock (16 * q + v) else s
    s.setFld Reg.spareCore (8 * q) 5 v

/-- A write to BU_SPARE_CORE: a slot value of 16 to 30 makes it ignored, and step 5 then fails. -/
def State.spareWrite (s : State) (path : Path) (v : Nat) : State :=
  let slot := fun q => bitsOf v (8 * q) 5
  if s.locked path Reg.spareCore then
    (if (List.range 4).all (fun q => slot q == s.slotOf q) then s else s.attempt 0 0x701 0 (s.unitDie 0))
  else
    match (List.range 4).find? (fun q => decide (16 ≤ slot q ∧ slot q ≤ 30)) with
    | some q => s.onBu (fun b => { b with spareBad := some (q, slot q) })
    | none => (List.range 4).foldl (fun t q => t.repoint q (slot q)) s

def execSpareRepoint (path : Path) (v : BitVec 32) (s : State) : Out :=
  s.guarded path Reg.spareCore (fun t => t.spareWrite path v.toNat)

/-! ### Steps 6 to 9 -/

/-- Every core island runs at ISL_CORE_FREQ.STEP. -/
def State.startIslands (s : State) : State :=
  (List.range 64).foldl (fun t c =>
    let r := Reg.coreFreq c
    (t.setFld r 16 4 (t.fld r 0 4)).setCore c { t.core c with clkOn := true }) s

def execIslandClocks (path : Path) (bad : Option (Fin 7 × BitVec 32 × BitVec 32)) (s : State) : Out :=
  s.buStep path 6 (fun t => match bad with
    | some (die, cls, n) => t.buFail 0x0601 0 (t.unitDie die) cls.toNat n.toNat
    | none => t.startIslands)

def execDieToDieLinks (path : Path) (narrow : List (Fin 7 × BitVec 32)) (bad : Option (Fin 7 × BitVec 32)) (s : State) : Out :=
  s.buStep path 7 (fun t =>
    let t := narrow.foldl (fun u x => u.note 0x0702 0 (u.unitDie x.1) x.1.val x.2.toNat) t
    match bad with
    | some (die, n) => t.buFail 0x0701 0 (t.unitDie die) die.val n.toNat
    | none => t)

/-- Step 8 (R307, R503, R557): a fresh slot-0 key on every cellar die, and tier 1 written with zero ciphertext. -/
def State.startTier1 (s : State) (bad : Option (Nat × Nat × Nat)) : State :=
  let s := [1, 2, 3, 4].foldl (fun t die =>
    let t := (t.setKey die 0 (Config.freeValue t.free).toNat).tickFree
    (List.range 16).foldl (fun u ch => u.setFld (Reg.chStatus die ch) 2 4 (u.fld (Reg.t1Cfg die) 0 4)) t) s
  match bad with
  | some (die, ch, phase) => s.buFail 0x0801 0 (s.unitDie die) ch phase
  | none =>
    let t1 := fun (k : Nat) => decide (2 ^ 48 ≤ k ∧ k < 5 * 2 ^ 48) && decide (k % 2 ^ 48 < 2 ^ 36)
    { s with mem := Tab.keep (fun k => !t1 k) s.mem, sealed := Tab.keep (fun u => !t1 (u * 512)) s.sealed }

def execTier1 (path : Path) (bad : Option (Fin 4 × Fin 16 × Fin 5)) (s : State) : Out :=
  s.buStep path 8 (fun t => t.startTier1 (bad.map (fun x => (x.1.val + 1, x.2.1.val, x.2.2.val))))

/-- GiB of a module size code. -/
def moduleGiB (code : Nat) : Nat := if code = 0 then 0 else 32 * code

/-- The modules of a channel of a cellar die, numbered 4 (die - 1) + channel. -/
def chanSpd (spd : List (List Spd)) (k : Nat) : List Spd := (spd[k]?).getD []

/-- Channel k's first slot that does not match the modules of channel 0 (R309). -/
def spdMismatch (spd : List (List Spd)) (k : Nat) : Option Nat :=
  let a := chanSpd spd 0
  let b := chanSpd spd k
  (List.range (max a.length b.length)).find? (fun i => b[i]? != (if i < a.length then a[0]? else none))

/-- A population of R308: modules per channel, size code, SPEED. -/
def popOk (n size speed : Nat) (lr : Bool) : Bool :=
  !lr && ((n == 1 && decide (2 ≤ size ∧ size ≤ 4)) || (n == 2 && decide (1 ≤ size ∧ size ≤ 4) && speed != 0))

def State.startTier2 (s : State) (spd : List (List Spd)) (bad : Option (Nat × Nat × Nat)) : State :=
  let first : Spd := (chanSpd spd 0)[0]?.getD { size := 0 }
  let n := (chanSpd spd 0).length
  let size := first.size
  let s := [1, 2, 3, 4].foldl (fun t die => t.setFld (Reg.t2Cfg die) 8 3 ((((chanSpd spd (4 * (die - 1)))[0]?).map (fun m => m.size)).getD 0)) s
  match (List.range 16).find? (fun k => (spdMismatch spd k).isSome) with
  | some k => s.buFail 0x0901 0 (s.unitDie (k / 4 + 1)) (k % 4) ((spdMismatch spd k).getD 0)
  | none =>
    match [1, 2, 3, 4].find? (fun die => !popOk n size (s.fld (Reg.t2Cfg die) 0 4) first.lr || s.fld (Reg.t2Cfg die) 4 1 + 1 != n) with
    | some die => s.buFail 0x0902 0 (s.unitDie die) (4 * n) 0
    | none =>
      let s := [1, 2, 3, 4].foldl (fun t die =>
        let t := t.setFld (Reg.t2Cfg die) 16 11 (4 * n * moduleGiB size)
        (List.range 4).foldl (fun u ch => u.setFld (Reg.chStatus die (16 + ch)) 2 4 (u.fld (Reg.t2Cfg die) 0 4)) t) s
      match bad with
      | some (die, ch, phase) => s.buFail 0x0903 0 (s.unitDie die) ch phase
      | none => s

def execTier2 (path : Path) (spd : List (List Spd)) (bad : Option (Fin 4 × Fin 4 × Fin 5)) (s : State) : Out :=
  s.buStep path 9 (fun t => t.startTier2 spd (bad.map (fun x => (x.1.val + 1, x.2.1.val, x.2.2.val))))

/-! ### Steps 10 to 12 -/

/-- Step 10: the enables, the shape (R22), then training of every enabled port. -/
def State.startFabric (s : State) : State :=
  let n := s.torus
  let wrong := fun (g : Nat) => (s.fld (Reg.portCfg g) 0 1 == 1) == (s.dim (g / 2) == 1)
  match (List.range 8).find? wrong with
  | some g => s.buFail 0x0A05 0 (s.unitDie (guyDie g)) g (s.fld (Reg.portCfg g) 0 1)
  | none =>
    if 8192 < n ∨ n ≤ s.pkg then s.buFail 0x0A02 0 s.unitPkg 0 0
    else (List.range 8).foldl (fun t g => if t.portUsed g then t.trainPort g else t) s

def execFabric (path : Path) (s : State) : Out := s.buStep path 10 State.startFabric

/-- Step 11 (R418): masters below the torus product; the primary locks at once. -/
def State.startTime (s : State) : State :=
  let n := s.torus
  if n ≤ s.masterOf false then s.buFail 0x0B02 0 s.unitPkg 0 (s.masterOf false)
  else if s.fld Reg.timMaster 31 1 = 1 ∧ n ≤ s.masterOf true then s.buFail 0x0B02 0 s.unitPkg 1 (s.masterOf true)
  else (s.setFld Reg.timStatus 0 2 (if s.masterOf false = s.pkg then 2 else 1)).refreshPath

def execTimeBase (path : Path) (s : State) : Out := s.buStep path 11 State.startTime

/-- The offsets and byte widths of the configuration record (R559), in ascending order. -/
def configRegs : List (Nat × Nat) :=
  [(Reg.buPlan, 8), (Reg.buWait, 4)] ++ (List.range 4).map (fun q => (Reg.buAside q, 4)) ++ [(Reg.pkgId, 4), (Reg.spareCore, 4)] ++
  (List.range 4).map (fun q => (Reg.yieldCore q, 4)) ++ [(Reg.yieldSup, 4)] ++
  (List.range 136).map (fun n => (Reg.yieldArray (n / 2) (n % 2), 4)) ++
  (List.range 64).map (fun c => (Reg.coreFreq c, 4)) ++ [(Reg.timMaster, 4)] ++
  (List.range 128).map (fun n => (Reg.opeRemap (n / 2) (n % 2), 4)) ++
  [1, 2, 3, 4].flatMap (fun die => [(Reg.t1Cfg die, 4), (Reg.t2Cfg die, 4)]) ++
  (List.range 8).map (fun g => (Reg.portCfg g, 4))

def State.configRecord (s : State) : List Byte := configRegs.flatMap (fun x => leBytes 4 x.1 ++ leBytes x.2 (s.regN x.1))

/-- Step 12 (R555 to R559): the keys, and MR0 and MR1. -/
def State.measure (s : State) (ok : Bool) : State :=
  let s := (List.range 6).foldl (fun t i => t.setMr i []) s
  if !ok then s.buFail 0x0C01 0 (s.unitDie 0) 0 0
  else
    let boot := s.free
    let s := s.tickFree
    let s := (List.range 12).foldl (fun t i => (t.setReg (0x70100 + 8 * i) (Config.idPub i)).setReg (0x70180 + 8 * i) (Config.bootPub boot i)) s
    (s.extendMr 0 (leBytes 48 Config.bootRom)).extendMr 1 (digest s.configRecord)

def execIdentityAndMeasurement (path : Path) (ok : Bool) (s : State) : Out := s.buStep path 12 (fun t => t.measure ok)

/-- Step 15. -/
def execReady (path : Path) (s : State) : Out := s.buStep path 15 id

/-! ### How a step ends -/

/-- Does step 10 pass (R502)? -/
def State.fabricPasses (s : State) : Bool :=
  let ports := (List.range 8).filter s.portUsed
  if s.planCode 10 = 2 then ports.isEmpty || ports.any s.portUp else ports.all s.portUp

/-- What the running step's end awaits: none if it may not end yet, else whether it passes or fails and with what. -/
def State.buResult (s : State) : Option (Option BuFail) :=
  let late := decide (s.bu.began + s.buLimit ≤ s.ns)
  let ports := (List.range 8).filter s.portUsed
  match s.bu.fail with
  | some f => some (some f)
  | none =>
    match s.bu.step with
    | 10 =>
      if s.fabricPasses then some none
      else if late || ports.all (fun g => s.portState g != 1) then
        (ports.find? (fun g => !s.portUp g)).map (fun g => some ⟨0x0A01, 0, s.unitDie (guyDie g), g, s.portState g⟩)
      else none
    | 11 =>
      if s.fld Reg.timStatus 0 2 = 2 then some none
      else if late then some (some ⟨0x0B01, 0, s.unitPkg, s.fld Reg.timStatus 0 32, 0⟩) else none
    | 13 => if s.fld 0x10148 0 4 = 15 then some none else none
    | 14 => if s.bu.noAck.isSome then none else some none
    | _ => some none

/-- What a step's pass does beyond its outcome. -/
def State.buPassed (s : State) : State :=
  match s.bu.step with
  | 8 => [1, 2, 3, 4].foldl (fun t die => t.setFld (Reg.t1Cfg die) 8 1 1) s
  | 9 => [1, 2, 3, 4].foldl (fun t die => t.setFld (Reg.t2Cfg die) 12 1 1) s
  | 10 =>
    ((List.range 8).filter s.portUsed).foldl (fun t g =>
      let t := if t.portUp g then t else (t.note 0x0A01 0 (t.unitDie (guyDie g)) g (t.portState g)).mark t.pkg g true
      if t.portUp g && decide (0 < t.portWidth g) then t.note 0x0A04 0 (t.unitDie (guyDie g)) g (t.portWidth g) else t) s
  | 13 => { s with beat := some s.ns }
  | 15 => s.onBu (fun b => { b with ready := true })
  | _ => s

def execBuStepEnd (s : State) : Out :=
  if s.bu.state = 1 ∧ s.bu.acted then
    match s.buResult with
    | none => .next s
    | some (some f) => .next (s.buEnd 1 f.detail f.fault f.unit f.d0 f.d1)
    | some none =>
      if s.bu.began + s.buLimit ≤ s.ns then .next s
      else .next (s.buPassed.buEnd 0 0 0 s.unitPkg 0 0)
  else .next s

/-- The step's limit has passed (R500, R513, R515). -/
def execBuStepLimit (s : State) : Out :=
  if s.bu.state = 1 ∧ s.bu.began + s.buLimit ≤ s.ns then
    let image := s.fld 0x10148 4 2
    if s.bu.step = 13 ∧ s.planCode 13 = 2 then .next (s.buEnd 1 0x0D03 0 s.unitPkg image (s.fld 0x10148 16 16))
    else match s.bu.step, s.bu.noAck with
      | 14, some (die, core) => .next (s.buEnd 1 0x0E01 0x084 (s.unitDie die) die core)
      | _, _ => .next (s.buEnd 1 0x00FF 0 s.unitPkg 0 0)
  else .next s

end Sys2Proof.Machine
end

