-- ==== Sys2Proof/Machine/Firmware.lean ====
section
/-! DEFINITION. Firmware (R511 to R515, R561 to R564): chunks from the steward port and from a parent, the checks of an image, pulls, the
start of the core firmware, and the CTRL packet. -/
namespace Sys2Proof.Machine

/-! ### A chunk's checks -/

/-- A chunk's CHECK (R511, class 8 of R547): its TAG counts as zero. -/
def chunkCheck (bs : List Byte) : Nat := crc64 (bs.take 1008 ++ List.replicate 8 0 ++ foldBytes (984 * fieldAt bs 4 4))

/-- Is it chunk index of an image, by its check, numbers, length and reserved bytes? Its TOTAL is looked at apart. -/
def chunkOk (image index : Nat) (bs : List Byte) : Bool :=
  let total := fieldAt bs 8 4
  let len := fieldAt bs 12 2
  bs.length == 1024 && fieldAt bs 1016 8 == chunkCheck bs && fieldAt bs 0 4 == image && fieldAt bs 4 4 == index &&
  decide (1 ≤ total ∧ total ≤ 65535) && decide (1 ≤ len ∧ len ≤ 984) && (len == 984 || index + 1 == total) &&
  fieldAt bs 14 10 == 0 && fieldAt bs (24 + len) (984 - len) == 0

/-- The bytes of an image, from its chunks. -/
def State.imageBytes (s : State) (image : Nat) : List Byte :=
  (List.range (s.fwTotal image)).flatMap (fun k =>
    let bs := s.fwChunk image k
    (bs.drop 24).take (fieldAt bs 12 2))

/-- The 256-byte header of an image lies in its chunk 0. -/
def State.imageHeader (s : State) (image : Nat) : List Byte := ((s.fwChunk image 0).drop 24).take 256
/-- DIGEST of the header in chunk 0. -/
def State.imageDigest (s : State) (image : Nat) : List Byte := ((s.imageHeader image).drop 16).take 48

/-- The largest image of each number (R511). -/
def imageLimit (image : Nat) : Nat := if image = 0 then 16 * 2 ^ 20 else if image = 1 then 768 * 1024 else 2 ^ 20

/-- The reason for which R562 refuses an image, if any. -/
def State.imageRefused (s : State) (image : Nat) : Option Nat :=
  let bs := s.imageBytes image
  let h := bs.take 256
  let signer := (h.drop 64).take 96
  let hash := Config.sha384 signer
  let known := fun (k : Nat) => hash == Config.phodelKey k && !s.revoked.testBit k
  if bs.length < 256 ∨ fieldAt h 0 4 ≠ 0x4D494E48 ∨ byteAt h 4 ≠ image ∨ fieldAt h 6 2 ≠ 0 ∨ 256 + fieldAt h 12 4 ≠ bs.length ∨ imageLimit image < bs.length
  then some 1
  else if !(known 0 || known 1) then some 2
  else if !Config.sigOk signer (h.take 160) ((h.drop 160).take 96) then some 3
  else if (h.drop 16).take 48 ≠ digest (bs.drop 256) then some 4
  else if byteAt h 5 < s.fld Reg.svn (8 * image) 6 then some 5
  else none

/-! ### Taking an image -/

/-- Before image i is read in the steward form, its BU_FW_IMAGE_LEN must not be zero (R512). -/
def State.checkLen (s : State) : State :=
  let i := s.fwImage
  if s.planCode 13 ≠ 2 ∧ s.fld (Reg.fwLen i) 0 16 = 0 ∧ !s.verified 3 then s.buFail 0x0D04 0 s.unitPkg i 0 else s

/-- The image is whole: it is verified and measured, or refused. -/
def State.imageWhole (s : State) : State :=
  let i := s.fwImage
  match s.imageRefused i with
  | some reason => s.buFail 0x0D02 0x084 s.unitPkg i reason
  | none =>
    let s := (s.extendMr (2 + i) (digest (s.imageHeader i))).setFld Reg.fwStatus i 1 1
    if i = 3 then s
    else
      let s := ((s.setFld Reg.fwStatus 4 2 (i + 1)).setFld Reg.fwStatus 16 16 0).onFw (fun f => { f with fails := [] })
      if s.planCode 13 = 2 then s.pullNext else s.checkLen

/-- Keep a chunk that has passed: its data go to tier 1 of cellar die 1 under key slot 0, and chunk 0 gives the total. HELD counts the chunks
held. -/
def State.keepChunk (s : State) (index : Nat) (bs : List Byte) : State :=
  let i := s.fwImage
  let s := s.supWrite 1 (Config.fwStore i index % 2 ^ 36) ((bs.drop 24).take (fieldAt bs 12 2))
  let s := s.onFw (fun f => { f with chunks := Tab.set (fun _ => []) f.chunks (fwKey i index) bs,
                                     totals := if index = 0 then Tab.set (fun _ => 0) f.totals i (fieldAt bs 8 4) else f.totals })
  let s := s.setFld Reg.fwStatus 16 16 (s.fwHeld + 1)
  if s.fwHeld = s.fwTotal i then s.imageWhole else if s.planCode 13 = 2 then s.pullNext else s

/-- The next chunk as it stands in controller memory at BU_FW_IMAGE_ADDR of its image (R512); a read elsewhere is none of the boot ROM's. -/
def State.portChunk (s : State) (addr : Nat) (bs : List Byte) : State :=
  let i := s.fwImage
  let k := s.fwHeld
  if !s.takingChunks ∨ s.planCode 13 = 2 ∨ addr ≠ s.regN (Reg.fwAddr i) + 1024 * k then s
  else if chunkOk i k bs ∧ k = 0 ∧ fieldAt bs 8 4 ≠ s.fld (Reg.fwLen i) 0 16 then s.buFail 0x0D04 0 s.unitPkg i (fieldAt bs 8 4)
  else if chunkOk i k bs ∧ (k = 0 ∨ fieldAt bs 8 4 = s.fwTotal i) then s.keepChunk k bs
  else
    let r := s.chunkFail k
    if 8 < r.2 then r.1.buFail 0x0D01 0 s.unitPkg i k else r.1

/-- TAG of a forwarded chunk (R564). -/
def chunkTag (dig bs : List Byte) : List Byte := (digest (dig ++ bs.take 1008)).take 8

/-- A chunk in a packet (R513): acknowledged; kept when it passes, asked for again when it fails, and asked elsewhere after 8
failures from one parent. -/
def State.packetChunk (s : State) (p : Pkt) : State :=
  let bs := p.payload
  let i := s.fwImage
  let k := fieldAt bs 4 4
  let held := !(s.fwChunk (fieldAt bs 0 4) k).isEmpty
  let ours := fieldAt bs 0 4 == i && s.bu.fw.asked.contains k
  let first := s.bu.fw.asked.head?.getD 0
  if !s.takingChunks ∨ s.planCode 13 ≠ 2 then (if held then s.ackPkt p 0 else s.nak p 0 4 (leBytes 4 3))
  else
    let s := s.ackPkt p 0
    if !ours then (if held then s else s.retryChunk first)
    else
      let dig := if k = 0 then ((bs.drop (24 + 16)).take 48) else s.imageDigest i
      if chunkOk i k bs ∧ (k = 0 ∨ fieldAt bs 8 4 = s.fwTotal i) ∧ (bs.drop 1008).take 8 = chunkTag dig bs then
        (s.onFw (fun f => { f with asked := f.asked.erase k })).keepChunk k bs
      else s.retryChunk k

/-- Step 13's action (R512, R513). -/
def State.startFirmware (s : State) : State :=
  if s.planCode 13 = 2 then
    match s.fwParent with
    | some g => (s.setFld Reg.fwStatus 8 3 g).pullNext
    | none => s
  else s.checkLen

/-- FIRMWARE_LOAD: step 13. While it runs in the fabric form with nothing asked for, as where no port was up at its GO, the package looks for a
parent again. -/
def execFirmwareLoad (path : Path) (s : State) : Out :=
  if s.takingChunks ∧ s.planCode 13 = 2 ∧ s.bu.fw.asked.isEmpty then .next s.startFirmware else s.buStep path 13 State.startFirmware

/-- A CTRL packet of the inbox, or the state after its failed header check. -/
def State.ctrlPkt (s : State) (n : Nat) (ok : Pkt → Bool) : Option (Except State (Pkt × State)) :=
  match s.takePkt 8 n with
  | none => none
  | some (p, t) => if !ok p then none else match t.checked p with
    | some u => some (.error u)
    | none => some (.ok (p, t))

def execFirmwareChunk (src : ChunkFrom) (s : State) : Out :=
  match src with
  | .port addr bs => .next (s.portChunk addr.toNat bs)
  | .packet n =>
    match s.ctrlPkt n (fun p => p.len == 1024) with
    | none => .next s
    | some (.error t) => .next t
    | some (.ok (p, t)) => .next (t.packetChunk p)

/-- Send a held chunk of a verified image to a neighbour (R513, R514). -/
def State.serveChunk (s : State) (dst image index : Nat) : State :=
  let bs := s.fwChunk image index
  let out := bs.take 1008 ++ chunkTag (s.imageDigest image) bs ++ bs.drop 1016
  (s.setFld Reg.fwStatus 32 32 (s.fld Reg.fwStatus 32 32 + 1)).sendReq
    { tag := 2 ^ 31 + fwKey image index, kind := 8, dst := dst, addr := 0, len := 1024, bytes := out, first := s.ns, last := s.ns }

/-- A neighbour's pull, its payload's check first: what it names is sent after the answer. Chunks not held are answered NAK reason 1. -/
def execFirmwarePull (n : Nat) (image : Fin 4) (first count : BitVec 16) (s : State) : Out :=
  match s.ctrlPkt n (fun p => p.len != 64 && p.len != 1024) with
  | none => .next s
  | some (.error t) => .next t
  | some (.ok (p, t)) =>
    let want := (List.range (min 64 count.toNat)).map (· + first.toNat)
    let has := fun (k : Nat) => t.verified image && !(t.fwChunk image k).isEmpty
    let fold := ctlFold p.tag p.src t.pkg
    if !pullCheckOk p t.pkg then .next ((t.chkFault 10 p.tag (check32c (p.payload.take 16) fold) (fieldAt p.payload 16 4)).nak p 0 3 [0])
    else
      let u := if want.all has then t.ackPkt p 0 else t.nak p 0 1 [0]
      .next ((want.filter has).foldl (fun v k => v.serveChunk p.src image k) u)

/-- CTRL: an entry, or a firmware chunk, by its length (R469, R513). -/
def execCtrl (n : Nat) (s : State) : Out :=
  match s.ctrlPkt n (fun p => p.len == 64 || p.len == 1024) with
  | none => .next s
  | some (.error t) => .next t
  | some (.ok (p, t)) => .next (if p.len = 1024 then t.packetChunk p else t.takeCtrlEntry p)

/-! ### Step 14 -/

/-- Image 1 whole in the store room of every core from offset 0 (R511), and its control core started at what follows the header (R515, R561;
DEDUCED, log entry 65). -/
def State.startCores (s : State) : State :=
  let bs := s.imageBytes 1
  (List.range 64).foldl (fun t c =>
    let t := (t.wr (storeKey c 0) bs).setRegN (Reg.coreCode c) ((bs.length + 4095) / 4096 * 2 ^ 16)
    (t.setRegN (Reg.engStart c 5) 256).runEng c 5) s

/-- Does a receiver find every chunk of an image good? -/
def State.chunksGood (s : State) (image : Nat) : Bool := (List.range (s.fwTotal image)).all (fun k => chunkOk image k (s.fwChunk image k))

/-- The image that a die's receiver takes: 2 at a cellar sequencer, 3 at a link manager. -/
def dieImage (die : Nat) : Nat := if die ≤ 4 then 2 else 3

/-- Images 2 and 3 at their receivers: each checks every chunk and starts the image. -/
def State.startDies (s : State) : State :=
  [1, 2, 3, 4, 5, 6].foldl (fun t die =>
    if t.chunksGood (dieImage die) then t.onFw (fun f => { f with running := Tab.set (fun _ => []) f.running die (t.imageBytes (dieImage die)) })
    else t) s

/-- The first receiver whose chunks do not pass: its die, and 0xFF. -/
def State.badReceiver (s : State) : Option (Nat × Nat) :=
  if !s.chunksGood 1 then some (0, 0) else ([1, 2, 3, 4, 5, 6].find? (fun die => !s.chunksGood (dieImage die))).map (fun die => (die, 0xFF))

def execCoreFirmware (path : Path) (noAck : Option (Fin 7 × BitVec 8)) (s : State) : Out :=
  s.buStep path 14 (fun t =>
    let bad := (noAck.map (fun x => (x.1.val, x.2.toNat))).orElse (fun _ => t.badReceiver)
    (if t.chunksGood 1 then t.startCores else t).startDies.onBu (fun b => { b with noAck := bad }))

end Sys2Proof.Machine
end

