-- ==== Sys2Proof/Machine/Recovery.lean ====
section
/-! DEFINITION. Fault buffers and the event ring (R534, R535), domain resets (R521 to R527), recovery and rewind (R537 to R543), the
supervisor's watchdog (R544), and the die-to-die fault. -/
namespace Sys2Proof.Machine

namespace Reg
def fltReset : Nat := 0x50008
def fltBeat : Nat := 0x5000C
def fltOther : Nat := 0x50018
def fltAck : Nat := 0x50080
end Reg

/-! ### Fault buffers -/

/-- The 32 bytes of a record (R529). -/
def FaultRec.bytes (r : FaultRec) : List Byte :=
  leBytes 2 (r.code + r.kind * 2 ^ 12 + boolNat r.esc * 2 ^ 15) ++ leBytes 2 r.seq ++ leBytes 4 r.unit.toNat ++ leBytes 8 r.time.toNat ++
    leBytes 4 r.d0.toNat ++ leBytes 4 r.d1.toNat ++ leBytes 4 r.d2.toNat ++ leBytes 4 r.d3.toNat

/-- Release n records from the head of the Britum buffer. -/
def State.releaseRecs (s : State) (n : Nat) : State :=
  let b := s.fbuf 0
  s.setFbuf 0 { b with recs := b.recs.drop n, head := (b.head + n) % 1024 }

/-- The job of a record and the identity of its control key (R465): the job whose own fault it is, or the job that holds the cluster its unit
lies in. -/
def State.recordJob (s : State) (r : FaultRec) : Nat × Nat :=
  let u := r.unit.toNat
  let level := bitsOf u 4 3
  if r.job.isSome then r.job.getD (0, 0)
  else if bitsOf u 19 13 = s.pkg ∧ bitsOf u 16 3 = 0 ∧ 1 ≤ level ∧ level ≤ 3 then
    match (s.jobOfCluster (bitsOf u 12 4)).bind s.jobAt with
    | some j => (j.id, j.key 3 0)
    | none => (0, 0)
  else (0, 0)

/-- The supervisor moves the oldest record of a die's buffer into the Britum buffer, or copies the Britum buffer's oldest record to the
event ring and releases it. -/
def execFaultRecordMove (die : Fin 7) (s : State) : Out :=
  match (s.fbuf die).recs with
  | [] => .next s
  | r :: rest =>
    if s.stopped then .next s
    else if die.val = 0 then (if s.ringRoom 2 then .next ((s.produce 2 ⟨0x30, (s.recordJob r).1, (s.recordJob r).2, r.bytes⟩).releaseRecs 1) else .next s)
    else .next ((s.setFbuf die { s.fbuf die with recs := rest }).bufferRecord 0 r)

def execFltBufAck (path : Path) (count : BitVec 11) (s : State) : Out :=
  s.guarded path Reg.fltAck (fun t => if (t.fbuf 0).recs.length < count.toNat then t.unmapped Reg.fltAck else t.releaseRecs count.toNat)

/-! ### Domains -/

/-- The instance of a level that holds a unit (R23). -/
def targetOf (level unit : Nat) : Nat :=
  let region := bitsOf unit 14 2
  let cl := bitsOf unit 12 2
  match level with
  | 2 => 16 * region + 4 * cl + bitsOf unit 10 2
  | 3 => 4 * region + cl
  | 4 => region
  | 5 => bitsOf unit 16 3
  | _ => 0

/-- The cores of a domain. -/
def domainCores (level target : Nat) : List Nat :=
  match level with
  | 2 => [target]
  | 3 => (List.range 4).map (· + 4 * target)
  | 4 => (List.range 16).map (· + 16 * target)
  | _ => []

/-- Does a domain hold, or equal, the domain of a window (R542)? -/
def Recov.within (r : Recov) (level target : Nat) : Bool :=
  if r.level = 5 ∨ level = 5 then r.level == level && r.target == target
  else (domainCores r.level r.target).all (fun c => (domainCores level target).contains c)

/-- The next domain up (R541). -/
def nextLevel (level : Nat) : Nat := if level = 2 then 3 else if level = 3 then 4 else 6

/-! ### Resets (R521 to R528) -/

/-- Reset of a guyline die: its ports, registers, link adders and channels, and its own buffer once its records have been moved. Steps open on
its channels end first (R446), and the supervisor writes their configuration again. -/
def State.resetGuyline (s : State) (die : Nat) : State :=
  let ports := (List.range 8).filter (fun g => guyDie g == die)
  let s := ((List.range 64).filter (fun c => Reg.redDie c == die && s.chanEn c)).foldl (fun t c => t.endStep c true) s
  let saved := s.chanSetup die
  let cores := s.fbCores (die - 5)
  let s := (s.fbuf die).recs.foldl (fun t r => t.bufferRecord 0 r) s
  let s := s.setFbuf die {}
  let s := ports.foldl (fun t g => t.dropPort g) s
  let s := s.resetRegs (Reg.guy die) (Reg.guy die + 0x100000) (fun _ => false)
  let s := ports.foldl (fun t g => t.setPort g {}) s
  let s := ((List.range 64).filter (fun c => Reg.redDie c == die)).foldl (fun t c => t.setChan c {}) s
  let s := ports.foldl (fun t g => if t.dim (g / 2) = 1 then t else (t.mark t.pkg g true).sendNotice t.pkg g true 0 g) s
  ({ s with guyOpen := die :: s.guyOpen.erase die }).restoreChans die cores saved

/-- A reset of a domain starts (R523): FLT_RESET.BUSY shows it. A partition reset also sweeps the die's pegs that the region owns. -/
def State.beginReset (s : State) (level target : Nat) : State :=
  let s := { s with rst := some ⟨level - 1, target, s.ns⟩ }
  let s := s.setFld Reg.fltReset 0 3 (level - 1)
  let s := s.setFld Reg.fltReset 8 6 target
  let s := if level = 4 then (List.range 16).foldl (fun t k => t.sweepCluster k (2 ^ target)) s else s
  let s := if level = 4 then s.resetSpare target else s
  if level = 5 then s.resetGuyline target else (domainCores level target).foldl (fun t c => t.resetCore c) s

/-- Is a DOMAIN and TARGET of FLT_RESET in range? -/
def resetTargetOk (domain target : Nat) : Bool :=
  (domain == 1) || (domain == 2 && decide (target < 16)) || (domain == 3 && decide (target < 4)) || (domain == 4 && (target == 5 || target == 6))

/-- A write to FLT_RESET. -/
def State.fltResetWrite (s : State) (v : Nat) : State :=
  let domain := bitsOf v 0 3
  let target := bitsOf v 8 6
  if !v.testBit 31 then (s.setFld Reg.fltReset 0 3 domain).setFld Reg.fltReset 8 6 target
  else if s.rst.isSome || !resetTargetOk domain target then s.unmapped Reg.fltReset
  else s.beginReset (domain + 1) target

def execFltReset (path : Path) (v : BitVec 32) (s : State) : Out := s.guarded path Reg.fltReset (fun t => t.fltResetWrite v.toNat)

/-! ### Recovery -/

/-- Start the reset of the oldest window that waits, when no reset runs. -/
def State.nextReset (s : State) : State :=
  if s.rst.isSome then s
  else
    match s.recov.find? (fun w => w.phase == 0) with
    | none => s
    | some w => ({ s with recov := replaceFirst (fun x => x == w) (fun x => { x with phase := 1 }) s.recov }).beginReset w.level w.target

/-- A domain reset finishes, and of a partition's the sweeps first (R527): its ports accept traffic and BUSY clears. A reset of a recovery is followed by the rewinds it waits for; a
partition reset of its own records RST_DONE (R527). -/
def execResetComplete (s : State) : Out :=
  match s.rst with
  | none => .next s
  | some r =>
    let s := if r.domain = 3 then (List.range 16).foldl (fun t k => t.finishRuns k false) s else s
    let s := { s with rst := none }
    match s.recov.find? (fun w => w.phase == 1 && w.level == r.domain + 1 && w.target == r.target) with
    | some w =>
      let w' := { w with phase := 2 }
      let s := { s with recov := replaceFirst (fun x => x == w) (fun _ => w') s.recov }
      .next ((if w'.jobs.isEmpty then s.windowDone w' else s).nextReset)
    | none =>
      let s := if r.domain = 3 then s.recoveryNotice 0x0C3 (s.unitRegion r.target) 4 ((s.ns - r.began) / 1000) 0 0 else s
      .next s.nextReset

/-- The jobs with an engine in a domain. -/
def State.jobsIn (s : State) (level target : Nat) : List (Nat × Job) :=
  s.jobs.filter (fun j => j.2.ending.isNone && (domainCores level target).any (fun c => j.2.clusters.testBit (c / 4)))

/-- Why R540 makes the recovery of a job fail, if it does. -/
def State.recoveryFails (s : State) (j : Job) : Option Nat :=
  if j.open_ && s.updating j then some 1
  else if j.open_ && decide (s.fld Reg.fltCfg 0 2 ≤ j.tries) then some 2 else none

/-- A recovery has failed for a job: RST_FAILED, and its teardown here and on every package of its stage map. -/
def State.failJob (s : State) (space : Nat) (j : Job) (cause : Nat) : State :=
  let s := s.recoveryNotice 0x0C4 s.unitPkg j.id cause (j.t % 2 ^ 32) 0
  ((s.relay space 5 0 j []).1).startTeardown space j 2 false

/-- REQ_PASS with the expired flag, to its taking package, for each serving request in flight on the package (R538). -/
def State.passExpired (s : State) (space : Nat) (j : Job) : State :=
  j.queue.foldl (fun t q =>
    let taker := q.seq / 2 ^ 48
    if taker = t.pkg then t.mapJob space (fun x => { x with queue := x.queue.filter (fun y => y.seq != q.seq) })
    else (t.sendEntry space taker 0x41 0 j (passBody q.seq 0 0 0 true)).1) s

/-- Stop a job's engines, abort its streams, and end its open step; it is then to be rewound (R538). -/
def State.haltJob (s : State) (space : Nat) (j : Job) : State :=
  let s := (s.stopJob j).abortStreams j 4
  let s := if j.chans.isEmpty then (s.passExpired space j).stepEnded space else s.endJobStep space j true
  s.mapJob space (fun x => { x with tries := if j.open_ then x.tries + 1 else x.tries, rewind := some (x.rewind.getD s.ns) })

/-- The recovery of a domain starts, with the jobs already being rewound for it. A job whose recovery fails is torn down; a domain all of
whose jobs fail is not reset. -/
def State.startRecovery (s : State) (level target began : Nat) (before : List Nat) : State :=
  let jobs := s.jobsIn level target
  let inner := s.recov.filter (fun w => w.within level target)
  let before := (before ++ inner.flatMap (·.jobs)).eraseDups
  let s := { s with recov := s.recov.filter (fun w => !w.within level target) }
  let r := jobs.foldl (fun (r : State × List Nat) x =>
    let j := x.2
    if before.contains j.id then r
    else match r.1.recoveryFails j with
      | some cause => (r.1.failJob x.1 j cause, r.2)
      | none => (r.1.haltJob x.1 j, r.2 ++ [j.id])) (s, before)
  if !jobs.isEmpty && r.2.isEmpty then r.1
  else
    let w : Recov := { level := level, target := target, began := began, job := (r.2.head?).getD 0, jobs := r.2 }
    ({ r.1 with recov := r.1.recov ++ [w] }).nextReset

/-- Package recovery (R543): every job torn down, the NOTICE, and ALERT_N. -/
def State.packageRecovery (s : State) (r : FaultRec) : State :=
  let s := { s with recov := [] }
  let s := s.jobs.foldl (fun t j => if j.2.ending.isSome then t else t.failJob j.1 j.2 3) s
  let s := s.postNotice 0x0001 (leBytes 2 r.code ++ [0, 0] ++ leBytes 4 r.unit.toNat)
  ({ s with pins := { s.pins with alert := true } }).setFld Reg.fltOther 22 1 1

def State.recoverAt (s : State) (level target began : Nat) (before : List Nat) (r : FaultRec) : State :=
  if level = 6 then s.packageRecovery r else s.startRecovery level target began before

/-- A record escalates the recovery of a window to the next domain up (R541). -/
def State.escalate (s : State) (w : Recov) (r : FaultRec) : State :=
  let up := nextLevel w.level
  let target := targetOf up (s.domainUnit w.level w.target).toNat
  let s := s.recoveryNotice 0x0C2 (s.domainUnit up target) w.level up r.unit.toNat r.seq
  ({ s with recov := s.recov.erase w }).recoverAt up target w.began w.jobs r

/-- The core whose fault or lantern a record tells, where DBG_CATCH holds it (R589). -/
def State.caughtCore (s : State) (r : FaultRec) : Option Nat :=
  let u := r.unit.toNat
  let c := targetOf 2 u
  if bitsOf u 16 3 = 0 ∧ (bitsOf u 4 3 = 1 ∨ bitsOf u 4 3 = 2) ∧ s.catches c then some c else none

/-- The next record that waits for the supervisor (R537 to R542): a caught core's is kept; one written under recovery escalates it; one
whose domain is already under recovery starts nothing. -/
def execRecoveryStart (s : State) : Out :=
  match s.recq with
  | [] => .next s
  | r :: rest =>
    if s.stopped then .next s
    else
      let s := { s with recq := rest }
      if (s.caughtCore r).isSome then .next { s with caughtRecs := s.caughtRecs ++ [r] }
      else match (if r.esc then s.recov.find? (fun w => w.covers r.unit.toNat) else none) with
        | some w => .next (s.escalate w r)
        | none =>
          match r.recovery (s.fld Reg.fltCfg 2 1 == 1) with
          | none => .next s
          | some level =>
            let target := targetOf level r.unit.toNat
            let domain : Recov := ⟨level, target, 0, 0, 0, []⟩
            if s.recov.any (fun w => domain.within w.level w.target) then .next s
            else .next (s.recoverAt level target s.ns [] r)

/-! ### Rewind (R539, R589) -/

/-- A job's cores but for the caught ones return to job start, and run where the job runs. -/
def State.rewound (s : State) (space : Nat) (j : Job) : State :=
  let caught := fun (e : CoreEnt) => s.catches e.core
  let live := { j with cores := j.cores.filter (fun e => !caught e) }
  let s := (s.placeCores live).placePegs j
  let s := { s with missed := (s.missed ++ (j.cores.filter caught).map CoreEnt.core).eraseDups }
  let s := s.mapJob space (fun x => { x with rewind := none })
  if j.st = .running then s.runJob live else s

/-- A job's rewind is done, and with it the recovery that waited for it last. A recovery resets its domain first. -/
def execRewindDone (space : Fin 16) (s : State) : Out :=
  match s.jobAt space with
  | none => .next s
  | some j =>
    let waits := fun (w : Recov) => w.jobs.contains j.id
    if j.rewind.isSome && s.recov.all (fun w => !waits w || w.phase == 2) then
      let s := s.rewound space j
      .next (s.leaveWindows j.id)
    else .next s

/-- The catch bit of core c clears: the held records start their recovery, and a rewind it missed is made (R589). -/
def State.uncatch (s : State) (c : Nat) : State :=
  let mine := fun (r : FaultRec) => targetOf 2 r.unit.toNat == c
  let s := { s with recq := s.recq ++ s.caughtRecs.filter mine, caughtRecs := s.caughtRecs.filter (fun r => !mine r) }
  if !s.missed.contains c then s
  else
    let s := { s with missed := s.missed.erase c }
    match (s.jobOfCore c).bind (fun n => (s.jobAt n).map (fun j => (n, j))) with
    | none => s
    | some (_, j) =>
      let one := { j with cores := j.cores.filter (fun e => e.core == c) }
      let s := s.placeCores one
      if j.st = .running then s.runJob one else s

/-! ### The watchdog and die-to-die links -/

def execFltHeartbeat (path : Path) (s : State) : Out :=
  s.guarded path Reg.fltBeat (fun t => if t.beat.isSome then { t with beat := some t.ns } else t)

/-- 10 ms without a heartbeat, or a supervisor core that stops: the hardware stops every engine and asserts ALERT_N. -/
def execSupFault (core : Bool) (s : State) : Out :=
  match s.beat with
  | none => .next s
  | some n =>
    if s.stopped ∨ !(core ∨ n + 10000000 ≤ s.ns) then .next s
    else
      let s := s.record 0 0x0C7 2 (s.unitDie 0) 0 0 0 0
      let s := (List.range 64).foldl (fun t c => t.eachEng 63 (fun u e => u.stopEng c e)) s
      .next { s with stopped := true, pins := { s.pins with alert := true } }

/-- A module between two dies runs at x8 or is lost; the near die records it (R532). -/
def execD2dLink (near far : Fin 7) (module : BitVec 32) (lost : Bool) (s : State) : Out :=
  if s.inReset then .next s
  else .next (s.record near 0x0C5 2 (s.unitDie near) far module.toNat (if lost then 0 else 8) 0)

end Sys2Proof.Machine
end

