-- ==== Sys2Proof/Machine/Security.lean ====
section
/-! DEFINITION. The supervisor's check-value unit (R546, R552), quotes (R560) and the fused minimum versions (R563). -/
namespace Sys2Proof.Machine

namespace Reg
def chkOp : Nat := 0x60000
def chkSrc : Nat := 0x60008
def chkLen : Nat := 0x60010
def chkFold : Nat := 0x60018
def chkExpect : Nat := 0x60020
def chkResult : Nat := 0x60028
def svnRaise : Nat := 0x70048
def nonce (j : Nat) : Nat := 0x70400 + 8 * j
def quoteCtrl : Nat := 0x70440
end Reg

/-! ### Check values -/

/-- The bytes of a message the supervisor may read: on the Britum die outside peg memory and setup space, or of a cellar die under key
slot 0; none otherwise. The message lies in one window. -/
def State.chkBytes (s : State) : Option (List Byte) :=
  let a := s.reg Reg.chkSrc
  let n := s.fld Reg.chkLen 0 17
  let b := a + BitVec.ofNat 64 (n - 1)
  let same := match s.window a, s.window b with
    | .store c _, .store d _ => c == d
    | .acc c e _, .acc d f _ => c == d && e == f
    | .attic k _, .attic l _ => k == l
    | .phys, .phys => addrDie a == addrDie b && decide (addrOff a < t2Base) == decide (addrOff b < t2Base)
    | _, _ => false
  if n = 0 ∨ 65536 < n ∨ addrPkg a ≠ s.pkg ∨ addrPkg b ≠ s.pkg ∨ !same then none
  else if addrDie a = 0 then some (s.rdBytes (addrOff a) n) else some (s.supRead (addrDie a) (addrOff a) n)

/-- The check value of a message by POLY. -/
def chkValue (poly : Nat) (bs : List Byte) : Nat :=
  match poly with
  | 0 => crc32c bs
  | 1 => crc32 bs
  | 2 => crc64 bs
  | _ => crc16 bs

def chkBits (poly : Nat) : Nat := match poly with
  | 0 => 32
  | 1 => 32
  | 2 => 64
  | _ => 16

/-- A write to CHK_OP: GO is refused while one runs, and for a length or address out of range. -/
def State.chkWrite (s : State) (v : Nat) : State :=
  if !v.testBit 4 then s.setFld Reg.chkOp 0 3 (bitsOf v 0 3)
  else if s.fld Reg.chkOp 5 1 = 1 ∨ s.chkBytes.isNone then s.unmapped Reg.chkOp
  else (s.setFld Reg.chkOp 0 3 (bitsOf v 0 3)).setFld Reg.chkOp 5 1 1

def execChkCompute (path : Path) (poly : Fin 4) (s : State) : Out :=
  s.guarded path Reg.chkOp (fun t => t.chkWrite (poly.val + 16))
def execChkCompare (path : Path) (poly : Fin 4) (s : State) : Out :=
  s.guarded path Reg.chkOp (fun t => t.chkWrite (poly.val + 4 + 16))

/-- The operation ends: its result, and in compare mode MATCH. -/
def execChkDone (s : State) : Out :=
  if s.fld Reg.chkOp 5 1 = 0 then .next s
  else
    let poly := s.fld Reg.chkOp 0 2
    let value := chkValue poly ((s.chkBytes.getD []) ++ foldBytes (s.regN Reg.chkFold))
    let same := s.fld Reg.chkExpect 0 (chkBits poly) == value
    let s := (s.setFld Reg.chkOp 5 1 0).setRegN Reg.chkResult value
    .next (if s.fld Reg.chkOp 2 1 = 1 then s.setFld Reg.chkOp 6 1 (boolNat same) else s)

/-! ### Quotes -/

/-- Has step 13 passed? -/
def State.measured (s : State) : Bool := decide (13 < s.bu.step) || (s.bu.step == 13 && s.bu.state == 2)

/-- A write to SEC_QUOTE_CTRL. -/
def State.quoteWrite (s : State) (v : Nat) : State :=
  let job := v.testBit 4
  if !v.testBit 8 then s.setFld Reg.quoteCtrl 0 5 (bitsOf v 0 5)
  else if !s.measured ∨ s.fld Reg.quoteCtrl 9 1 = 1 ∨ (job ∧ (s.jobAt (bitsOf v 0 4)).isNone) then s.unmapped Reg.quoteCtrl
  else (s.setFld Reg.quoteCtrl 0 5 (bitsOf v 0 5)).setFld Reg.quoteCtrl 9 1 1

def execQuote (path : Path) (space : Fin 16) (job : Bool) (s : State) : Out :=
  s.guarded path Reg.quoteCtrl (fun t => t.quoteWrite (space.val + 16 * boolNat job + 256))

/-- Bytes 0 to 495 of a quote. -/
def State.quoteBody (s : State) : List Byte :=
  let words := fun (base n : Nat) => (List.range n).flatMap (fun j => leBytes 8 (s.regN (base + 8 * j)))
  let meas := if s.fld Reg.quoteCtrl 4 1 = 1 then ((s.jobAt (s.fld Reg.quoteCtrl 0 4)).map (·.meas)).getD 0 else 0
  leBytes 4 0x54514E48 ++ leBytes 2 1 ++ leBytes 2 s.pkg ++ leBytes 8 s.time.toNat ++ words (Reg.nonce 0) 6 ++
    (List.range 6).flatMap s.mrBytes ++ words 0x70180 12 ++ leBytes 48 meas

/-- The quote is signed: SEC_QUOTE holds it for the current nonce. -/
def execQuoteDone (s : State) : Out :=
  if s.fld Reg.quoteCtrl 9 1 = 0 then .next s
  else
    let body := s.quoteBody
    let s := { s with quote := body ++ leBytes 96 (Config.quoteSig body s.free) }.tickFree
    .next ((s.setFld Reg.quoteCtrl 9 1 0).setFld Reg.quoteCtrl 10 1 1)

/-- A write to SEC_NONCE clears DONE. -/
def State.nonceWrite (s : State) (j : Nat) (v : W64) : State := (s.setReg (Reg.nonce j) v).setFld Reg.quoteCtrl 10 1 0

def execSecNonceWrite (path : Path) (j : Fin 6) (v : BitVec 64) (s : State) : Out :=
  s.guarded path (Reg.nonce j) (fun t => t.nonceWrite j v)

/-! ### Fused minimum versions -/

/-- A fused minimum only rises, and never above the version of the running image 0; it takes effect at the next start. -/
def State.raiseSvn (s : State) (image svn : Nat) : State :=
  let running := byteAt (s.imageHeader 0) 5
  let old := bitsOf s.fusedSvn.toNat (8 * image) 6
  if old < svn ∧ svn ≤ running ∧ s.verified 0 then
    { s with fusedSvn := BitVec.ofNat 32 (withBits s.fusedSvn.toNat (8 * image) 6 svn) }
  else s

def execSecSvnRaise (path : Path) (image : Fin 4) (svn : BitVec 6) (s : State) : Out :=
  s.guarded path Reg.svnRaise (fun t => t.raiseSvn image svn.toNat)

end Sys2Proof.Machine
end

