-- ==== Sys2Proof/Machine/Vector.lean ====
section
/-! DEFINITION. The vector engine (R177 to R195): hazards and stalls, loads and stores, arithmetic, and its generator. -/
namespace Sys2Proof.Machine

def State.vec (s : State) (c : Nat) : Vec := (s.core c).vec
def State.setVec (s : State) (c : Nat) (v : Vec) : State := s.setCore c { s.core c with vec := v }
/-- Lane i of register n. -/
def State.lane (s : State) (c n i : Nat) : W32 := Tab.get (fun _ => 0) (s.vec c).v (64 * n + i)
def State.lanes (s : State) (c n : Nat) : List W32 := (List.range 64).map (s.lane c n)

/-- Write a register, readable lat cycles from now (R178), and its flags (R193). -/
def State.vput (s : State) (c n : Nat) (vs : List W32) (lat flags : Nat) : State :=
  let u := s.vec c
  let s := s.setVec c { u with v := Tab.setRange (fun _ => 0) u.v (64 * n) vs,
                               pend := Tab.set (fun _ => Pend.no) u.pend n (.fixed ((s.core c).cycles + lat)) }
  s.orReg (Reg.vecFlags c) flags

/-- Cycles until register n is readable (R179); 0 when it is. -/
def State.vLeft (s : State) (c n : Nat) : Nat :=
  match Tab.get (fun _ => Pend.no) (s.vec c).pend n with
  | .fixed r => r - (s.core c).cycles
  | _ => 0

/-- A VEC_HAZARD on the first of the registers that is pending (R179, R195). DESIGN CHOICE (log entry 98): of several pending registers the
record names the first in the order VA, VB, VC, VD. -/
def State.vecHazard (s : State) (c : Nat) (rs : List Nat) : Option IssueRes :=
  (rs.find? (fun n => decide (0 < s.vLeft c n))).map (fun n => .fault 0x151 n (s.vLeft c n) 0)

/-- An instruction of VEC from registers to a register: its reads and destination are checked, then f answers the lanes and
flags. -/
def vecBody (c : Nat) (w : EngW) (reads : List Nat) (opc lat : Nat) (f : State → List W32 × Nat) (t : State) : IssueRes :=
  let vd := bitsOf w.opnd.toNat 0 6
  match t.vecHazard c (reads ++ [vd]) with
  | some r => r
  | none =>
    let x := f t
    .go (t.vput c vd x.1 lat x.2) none (engLeft w t c 3 opc lat 0 0)

/-- The values and flags of all lanes. -/
def eachLane (f : Nat → Lane) : List W32 × Nat :=
  let l := (List.range 64).map f
  (l.map (·.1), l.foldl (fun a x => a ||| x.2) 0)

/-! ### Loads and stores (R180 to R184) -/

/-- The runs of bytes of a VLD or VST at an address (R182, R183): scale bytes and data of two blocks, or the elements. -/
def memRuns (w : EngW) (a : Nat) : (Nat × Nat) × (Nat × Nat) :=
  let f := memFmt w
  if isBlock f then
    ((a + 2 * memHalf w, 2), (a + 4 + 2 * memHalf w * lineBytes f, 2 * lineBytes f))
  else ((a, memCnt w * (elemBits f / 8)), (0, 0))

def runsMeet (a b : Nat × Nat) : Bool := decide (a.1 < b.1 + b.2 ∧ b.1 < a.1 + a.2 ∧ 0 < a.2 ∧ 0 < b.2)

/-- The stores of this VEC that hold back another store: those not completed, and those that complete in this core cycle (R180). -/
def State.vecStores (s : State) (c : Nat) : List Issued :=
  (s.eng c 3).out ++ (if (s.vec c).storedAt = (s.core c).cycles then (s.vec c).stored else [])

/-- Do the runs meet the bytes of a store of the list: a VST, or with saves a VSEED save too (R180, R191)? -/
def storesMeet (l : List Issued) (saves : Bool) (r : (Nat × Nat) × (Nat × Nat)) : Bool :=
  l.any (fun i =>
    (i.opc == 0x11 || (saves && i.opc == 0x1B)) &&
    (runsMeet (i.lo, i.len) r.1 || runsMeet (i.lo, i.len) r.2 || runsMeet (i.lo2, i.len2) r.1 || runsMeet (i.lo2, i.len2) r.2))

/-- A store's bytes: it issues no earlier than the cycle after the completion of what it overlaps (R180). -/
def State.vecOverlap (s : State) (c : Nat) (r : (Nat × Nat) × (Nat × Nat)) : Bool := storesMeet (s.vecStores c) true r

/-- The address of a VLD, VST or VSEED (R182): OFF, or the entry plus OFF; none where the address queue is empty. -/
def State.memAddr (s : State) (c : Nat) (w : EngW) : Option Nat :=
  if memAq w then (s.eng c 3).aq.head?.map (fun x => bitsOf x.toNat 0 20 + memOff w) else some (memOff w)

/-- VEC_RANGE (R195, R531) for bytes from lo to hi and an alignment. -/
def State.vecRange (s : State) (c : Nat) (w : EngW) (a hi align : Nat) : Option IssueRes :=
  let x := if memAq w then (s.eng c 3).aq.headD 0 else 0
  if x.toNat / 2 ^ 20 = 0 ∧ a % align = 0 ∧ hi ≤ storeSize then none
  else some (if memAq w then .fault 0x152 0 (x.toNat % 2 ^ 32) (x.toNat / 2 ^ 32) else .fault 0x152 0 a 0)

def State.popMem (s : State) (c : Nat) (w : EngW) : State := if memAq w then s.popA c 3 else s

/-- The highest byte after the runs, and the alignment, of a VLD or VST. -/
def memEnd (w : EngW) (a : Nat) : Nat := let r := memRuns w a; max (r.1.1 + r.1.2) (r.2.1 + r.2.2)
def memAlign (w : EngW) : Nat := if isBlock (memFmt w) then 4 else elemBits (memFmt w) / 8

/-- Lane i of a VLD from an address. -/
def State.loadLane (s : State) (c : Nat) (w : EngW) (a i : Nat) : W32 :=
  let f := memFmt w
  let rd := s.storeRd c a
  if isBlock f then
    let l := 2 * memHalf w + i / 32
    widen f (elemCode rd f l (i % 32)) (some (e8m0 (rd (scaleAt f l))))
  else if memCnt w ≤ i then 0
  else
    let b := elemBits f / 8
    let v := s.rdLE (storeKey c (a + b * i)) b
    if f = 11 then ofInt32 false (signedOf v 8) else widen f v none

/-- VLD (R182, R184). DESIGN CHOICE (log entry 98): the bytes are read at issue. -/
def execVld (c : Fin 64) (w : EngW) (s : State) : Out :=
  s.issue c 3 0x10 w (insnOwn 3 0x10 w) (fun t =>
    match t.memAddr c w with
    | none => .stall .stallQueue
    | some a =>
      if storesMeet (t.eng c 3).out false (memRuns w a) then .stall .stallBusy
      else
        let vd := bitsOf w.opnd.toNat 0 6
        match t.vecHazard c [vd] with
        | some r => r
        | none =>
          match t.vecRange c w a (memEnd w a) (memAlign w) with
          | some r => r
          | none => .go ((t.vput c vd ((List.range 64).map (t.loadLane c w a)) 6 0).popMem c w) none (engLeft w t c 3 0x10 6 0 0))

/-- The draws of an instruction with SR (R190): none when it has SR = 0. -/
def State.vecDraws (s : State) (c : Nat) (sr : Bool) : State × Option (List Nat) :=
  if sr then
    let d := drawList (s.reg (Reg.vecSeed c)) 64
    (s.setReg (Reg.vecSeed c) d.1, some d.2)
  else (s, none)

/-- The bytes of a VST relative to its address, and its flags (R181 to R183). -/
def storeRuns (w : EngW) (us : Option (List Nat)) (v : Nat → W32) : List Run × Nat :=
  let f := memFmt w
  if isBlock f then
    ((List.range 2).flatMap (fun b =>
      let l := 2 * memHalf w + b
      let x := blockOut f ((List.range 32).map (fun m => (v (32 * b + m), true))) (fun m => rndOf us (32 * b + m))
      [(scaleAt f l, leBytes 1 x.1), (lineAt f l, leBytes (lineBytes f) ((List.range 32).foldl
        (fun a m => a + ((x.2[m]?).join.getD 0) * 2 ^ (elemBits f * m)) 0))]), 0)
  else
    let l := (List.range (memCnt w)).map (fun i => vstLane f (rndOf us i) (v i))
    ([(0, l.flatMap (fun x => leBytes (elemBits f / 8) x.1))], l.foldl (fun a x => a ||| x.2) 0)

/-- VST (R181 to R184). DESIGN CHOICE (log entry 98): the bytes change at issue. -/
def execVst (c : Fin 64) (w : EngW) (s : State) : Out :=
  s.issue c 3 0x11 w (insnOwn 3 0x11 w) (fun t =>
    match t.memAddr c w with
    | none => .stall .stallQueue
    | some a =>
      let r := memRuns w a
      if t.vecOverlap c r || (memSr w && (t.vec c).seedLoad) then .stall .stallBusy
      else
        let vn := bitsOf w.opnd.toNat 0 6
        match t.vecHazard c [vn] with
        | some x => x
        | none =>
          match t.vecRange c w a (memEnd w a) (memAlign w) with
          | some x => x
          | none =>
            let d := t.vecDraws c (memSr w)
            let x := storeRuns w d.2 (t.lane c vn)
            let left := engLeft w t c 3 0x11 (if isBlock (memFmt w) then 8 else 4) r.1.1 r.1.2
            .go (((d.1.wrRuns (storeKey c a) x.1).orReg (Reg.vecFlags c) x.2).popMem c w) none
              (left.map (fun i => { i with lo2 := r.2.1, len2 := r.2.2 })))

/-! ### Arithmetic (R185 to R189, R192) -/

def execVarith (c : Fin 64) (w : EngW) (s : State) : Out :=
  let f := fFunc w
  s.issue c 3 0x12 w (insnOwn 3 0x12 w)
    (vecBody c w (varithReads w) 0x12 (if f < 7 then 4 else 2)
      (fun t => eachLane (fun i => varith f (t.lane c (fVA w) i) (t.lane c (fVB w) i) (t.lane c (fVC w) i))))

def execVcmp (c : Fin 64) (w : EngW) (s : State) : Out :=
  s.issue c 3 0x13 w (insnOwn 3 0x13 w)
    (vecBody c w [fVA w, fVB w] 0x13 2
      (fun t => eachLane (fun i => (vcmp (fFunc w) (t.lane c (fVA w) i) (t.lane c (fVB w) i), 0))))

def execVsel (c : Fin 64) (w : EngW) (s : State) : Out :=
  s.issue c 3 0x14 w (insnOwn 3 0x14 w)
    (vecBody c w [fVA w, fVB w, fVC w] 0x14 2
      (fun t => eachLane (fun i => (if t.lane c (fVC w) i = 0 then t.lane c (fVB w) i else t.lane c (fVA w) i, 0))))

def execVred (c : Fin 64) (w : EngW) (s : State) : Out :=
  let f := fFunc w
  let g := fSub w
  s.issue c 3 0x15 w (insnOwn 3 0x15 w)
    (vecBody c w [fVA w] 0x15 (2 + 2 * g) (fun t => vred f g (t.lanes c (fVA w))))

def execVperm (c : Fin 64) (w : EngW) (s : State) : Out :=
  let f := fFunc w
  s.issue c 3 0x16 w (insnOwn 3 0x16 w)
    (vecBody c w (if f = 0 then [fVA w, fVB w] else [fVA w]) 0x16 3
      (fun t => eachLane (fun i => (vperm f (t.lane c (fVA w)) (t.lane c (fVB w)) (fVB w) i, 0))))

def execVcvt (c : Fin 64) (w : EngW) (s : State) : Out :=
  let f := fFunc w
  let sr := w.opnd.getLsbD 32
  s.issue c 3 0x17 w (insnOwn 3 0x17 w) (fun t =>
    if sr && (t.vec c).seedLoad then .stall .stallBusy
    else
      let vd := bitsOf w.opnd.toNat 0 6
      match t.vecHazard c [fVA w, vd] with
      | some r => r
      | none =>
        let d := t.vecDraws c sr
        let x := eachLane (fun i => vcvt f (fSub w) (rndOf d.2 i) (t.lane c (fVA w) i))
        .go (d.1.vput c vd x.1 4 x.2) none (engLeft w t c 3 0x17 4 0 0))

def execVsfu (c : Fin 64) (w : EngW) (s : State) : Out :=
  let f := fFunc w
  s.issue c 3 0x18 w (insnOwn 3 0x18 w) (fun t =>
    let now := (t.core c).cycles
    match (t.vec c).sfuAt with
    | some n =>
      if now < n + 2 then .stall .stallBusy
      else vecBody c w [fVA w] 0x18 12 (fun t => eachLane (fun i => vsfu f (t.lane c (fVA w) i)))
        (t.setVec c { t.vec c with sfuAt := some now })
    | none => vecBody c w [fVA w] 0x18 12 (fun t => eachLane (fun i => vsfu f (t.lane c (fVA w) i)))
        (t.setVec c { t.vec c with sfuAt := some now }))

def execVmovi (c : Fin 64) (w : EngW) (s : State) : Out :=
  let imm : W32 := BitVec.ofNat 32 (bitsOf w.opnd.toNat 6 32)
  s.issue c 3 0x19 w (insnOwn 3 0x19 w)
    (vecBody c w [] 0x19 1
      (fun _ => eachLane (fun i => (if w.opnd.getLsbD 38 then imm + BitVec.ofNat 32 i else imm, 0))))

def execVbcq (c : Fin 64) (w : EngW) (s : State) : Out :=
  s.issue c 3 0x1A w (insnOwn 3 0x1A w) (fun t =>
    match (t.eng c 3).pq with
    | [] => .stall .stallQueue
    | n :: _ =>
      match vecBody c w [] 0x1A 1 (fun _ => eachLane (fun _ => (n, 0))) t with
      | .go t' target left => .go (t'.popP c 3) target left
      | r => r)

/-! ### The generator (R190, R191) -/

/-- VSEED (R191). DESIGN CHOICE (log entry 98): the state and the bytes change at issue. -/
def execVseed (c : Fin 64) (w : EngW) (s : State) : Out :=
  let load := w.opnd.getLsbD 0
  s.issue c 3 0x1B w (insnOwn 3 0x1B w) (fun t =>
    match t.memAddr c w with
    | none => .stall .stallQueue
    | some a =>
      if (if load then storesMeet (t.eng c 3).out true ((a, 8), (0, 0)) else t.vecOverlap c ((a, 8), (0, 0))) then .stall .stallBusy
      else
        match t.vecRange c w a (a + 8) 8 with
        | some r => r
        | none =>
          if load then
            let t := t.popMem c w
            let t := t.setRegN (Reg.vecSeed c) (t.rdLE (storeKey c a) 8)
            .go (t.setVec c { t.vec c with seedLoad := true }) none (engLeft w t c 3 0x1B 6 0 0)
          else
            .go ((t.wrLE (storeKey c a) 8 (t.regN (Reg.vecSeed c))).popMem c w) none (engLeft w t c 3 0x1B 4 a 8))

/-- A register's result becomes readable at its latency: the pending bit clears (R178). -/
def execVecResultReady (c : Fin 64) (v : BitVec 6) (s : State) : Out :=
  if s.vLeft c v.toNat = 0 then
    let u := s.vec c
    .next (s.setVec c { u with pend := Tab.set (fun _ => Pend.no) u.pend v.toNat Pend.no })
  else .next s

end Sys2Proof.Machine
end

