-- ==== Sys2Proof/Machine/Debug.lean ====
section
/-! DEFINITION. Debug access (R576, R580 to R595): the selected core, holds and steps, catch bits, and reads and writes of registers,
tallies, pegs and memory; trace marks. What a read returns stands in State.reply. -/
namespace Sys2Proof.Machine

namespace Reg
def dbgCoreSel : Nat := 0x80000
def dbgErr : Nat := 0x80004
def dbgEngCtrl : Nat := 0x80008
def dbgEngStatus : Nat := 0x80010
def dbgRegSel : Nat := 0x80020
def dbgRegData : Nat := 0x80028
def dbgPegSel : Nat := 0x80030
def dbgPegData : Nat := 0x80038
def dbgMemAddr : Nat := 0x80040
def dbgMemData : Nat := 0x80048
def traceMark : Nat := 0x80120
end Reg

/-- Bits of DBG_ERR. -/
inductive DbgErr where
  | refused | busy | range | xlate | off
deriving DecidableEq, Repr

def DbgErr.bit : DbgErr → Nat
  | .refused => 0
  | .busy => 1
  | .range => 2
  | .xlate => 3
  | .off => 4

/-- An access of a path fails: its DBG_ERR bit, and for a refusal the attempt (R581). -/
def State.dbgFail (s : State) (path : Path) (e : DbgErr) : State :=
  let s := s.orReg (Reg.dbgErr + pathKey path) (2 ^ e.bit)
  if e = .refused then s.attempt 0 0x702 1 (s.unitDie 0) else s

/-- What a read command answers. -/
def State.answer (s : State) (bs : List Byte) : State := { s with reply := bs }
def State.answerWord (s : State) (v : W64) : State := s.answer (leBytes 8 v.toNat)

/-! ### The selected core (R581, R593) -/

/-- The core that a physical core number names: a logical core, or the hidden core of its region. -/
def State.physCore (s : State) (p : Nat) : Nat :=
  let q := p / 17
  let n := p % 17
  let slot := s.slotOf q
  if n < 16 then (if slot = n then hiddenCore q else 16 * q + n)
  else if slot < 16 then 16 * q + slot else hiddenCore q

/-- The core a path selects, if it may reach it. -/
def State.dbgCore (s : State) (path : Path) : Except DbgErr Nat :=
  let sel := Reg.dbgCoreSel + pathKey path
  let i := s.fld sel 0 7
  if s.fld sel 7 1 = 0 then
    if 64 ≤ i then .error .range else if s.closedCore i then .error .refused else .ok i
  else if 68 ≤ i then .error .range
  else
    let c := s.physCore i
    if 64 ≤ c then (if s.bu.stepEnded 6 then .error .off else .ok c)
    else if s.closedCore c then .error .refused else .ok c

/-- The unit of a selected core. -/
def State.dbgUnit (s : State) (c : Nat) : W32 := if c < 64 then s.unitCore c else s.unitRegion (c - 64)

/-! ### Holds and steps (R584 to R587) -/

/-- Path codes of a kind 6 trace entry. -/
def pathCode : Path → Nat
  | .jtag => 0
  | .steward => 1
  | .supervisor _ => 2

/-- Is CLRFAULT barred: the core is under core recovery? -/
def State.inRecovery (s : State) (c : Nat) : Bool := s.recov.any (fun w => w.level == 2 && w.target == c)

/-- Bit e of a field of DBG_ENG_CTRL at bit lo. -/
def ctlBit (v lo e : Nat) : Bool := v.testBit (lo + e)

/-- Does R587 bar the write for engine e, once CLRFAULT is applied? -/
def Eng.dbgBad (k : Eng) (v e : Nat) : Bool :=
  let n := boolNat (ctlBit v 0 e) + boolNat (ctlBit v 8 e) + boolNat (ctlBit v 16 e)
  let held := k.dhold || (ctlBit v 24 e && k.st == .faulted)
  decide (2 ≤ n) || (ctlBit v 16 e && !held)

/-- The write applied to engine e: CLRFAULT first, then HALT, RESUME or STEP. -/
def Eng.dbgApply (k : Eng) (v e : Nat) : Eng :=
  let k := if ctlBit v 24 e && k.st == .faulted then { k with st := .issuing, dhold := true } else k
  let k := if ctlBit v 0 e then { k with dhold := true, stepping := false } else k
  let k := if ctlBit v 8 e then { k with dhold := false, stepping := false } else k
  if ctlBit v 16 e then { k with stepping := true } else k

/-- A write to DBG_ENG_CTRL. -/
def State.engCtrlWrite (s : State) (path : Path) (v : Nat) : State :=
  match s.dbgCore path with
  | .error e => s.dbgFail path e
  | .ok c =>
    let barred := decide (bitsOf v 24 6 ≠ 0) && s.inRecovery c
    let s := if barred then s.dbgFail path .busy else s
    let w := if barred then bitsOf v 0 24 else bitsOf v 0 30
    if (List.range 6).any (fun e => (s.eng c e).dbgBad w e) then s.dbgFail path .range
    else
      let s := (List.range 6).foldl (fun t e => t.setEng c e ((t.eng c e).dbgApply w e)) s
      s.traceAdd (s.dbgUnit c) 6 (BitVec.ofNat 64 v) (BitVec.ofNat 64 (pathCode path))

def execDbgHalt (path : Path) (engines : BitVec 6) (s : State) : Out :=
  s.guarded path Reg.dbgEngCtrl (fun t => t.engCtrlWrite path engines.toNat)
def execDbgResume (path : Path) (engines : BitVec 6) (s : State) : Out :=
  s.guarded path Reg.dbgEngCtrl (fun t => t.engCtrlWrite path (engines.toNat * 2 ^ 8))
def execDbgStep (path : Path) (engines : BitVec 6) (s : State) : Out :=
  s.guarded path Reg.dbgEngCtrl (fun t => t.engCtrlWrite path (engines.toNat * 2 ^ 16))
def execDbgClrfault (path : Path) (engines : BitVec 6) (s : State) : Out :=
  s.guarded path Reg.dbgEngCtrl (fun t => t.engCtrlWrite path (engines.toNat * 2 ^ 24))

/-! ### Catch bits (R589) -/

/-- A write to DBG_CATCH: a changed bit of a core that a job with DEBUG 0 holds is refused; a bit that clears starts what was held. -/
def State.catchWrite (s : State) (path : Path) (v : Nat) : State :=
  let old := s.regN Reg.dbgCatch
  let moved := (List.range 64).filter (fun c => v.testBit c != old.testBit c)
  let barred := moved.filter s.closedCore
  let s := if barred.isEmpty then s else s.dbgFail path .refused
  let new := moved.foldl (fun a c => if barred.contains c then a else withBits a c 1 (bitsOf v c 1)) old
  let s := s.setRegN Reg.dbgCatch new
  (moved.filter (fun c => old.testBit c && !new.testBit c)).foldl (fun t c => t.uncatch c) s

def execDbgCatchWrite (path : Path) (v : BitVec 64) (s : State) : Out :=
  s.guarded path Reg.dbgCatch (fun t => t.catchWrite path v.toNat)

/-! ### Registers and tallies (R590) -/

/-- TPE_STATUS (R176): the feed unit runs an instruction until its last feed cycle ends; an accumulation has still to land. -/
def State.tpeStatus (s : State) (c : Nat) : Nat :=
  let u := (s.core c).tpe
  let now := (s.core c).cycles
  boolNat (u.feed.any (fun f => f.left != 0) || decide (0 < u.busyUntil ∧ now ≤ u.busyUntil)) +
    2 * boolNat (u.land.any (fun x => decide (now ≤ x.2)))

/-- Two 32-bit values as 64 bits, the first lower. -/
def pairWord (a b : W32) : W64 := BitVec.ofNat 64 (a.toNat + b.toNat * 2 ^ 32)

/-- The first element of a PAIR of a k-tile or n-tile of a vector, by INDEX. -/
def tileElem (index pair : Nat) : Nat := 1024 * (index / 32 % 8) + 32 * (index % 32) + 2 * pair

/-- Why the item KIND, INDEX of core c cannot be reached, if so. -/
def State.itemErr (s : State) (c kind index : Nat) : Option DbgErr :=
  match kind with
  | 0 => if 32 ≤ index then some .range else if !(s.eng c 5).dhold || s.gBusy c index then some .busy else none
  | 1 => if 64 ≤ index then some .range else if !(s.eng c 3).dhold || s.vLeft c index != 0 then some .busy else none
  | 2 => if 64 ≤ index then some .range else none
  | 3 | 4 => if !(s.eng c 2).dhold || s.tpeStatus c != 0 then some .busy else none
  | _ => some .range

def State.itemRead (s : State) (c kind index pair : Nat) : W64 :=
  let tile := fun (t : Tab W32) => pairWord (Tab.get (fun _ => 0) t (tileElem index pair)) (Tab.get (fun _ => 0) t (tileElem index pair + 1))
  match kind with
  | 0 => s.g c index
  | 1 => pairWord (s.lane c index (2 * pair)) (s.lane c index (2 * pair + 1))
  | 2 => BitVec.ofNat 64 (s.tally c index)
  | 3 => tile (s.core c).tpe.x
  | _ => tile (s.core c).tpe.y

/-- Write an item; a tally write is traced with the value before (R293, R595). -/
def State.itemWrite (s : State) (c kind index pair : Nat) (v : W64) : State :=
  let k := s.core c
  let two := fun (t : Tab W32) (i : Nat) => Tab.setRange (fun _ => 0) t i [v.truncate 32, (v >>> 32).truncate 32]
  match kind with
  | 0 => if index = 0 then s else s.setCore c { k with g := Tab.set (fun _ => 0) k.g index v }
  | 1 => s.setCore c { k with vec := { k.vec with v := two k.vec.v (64 * index + 2 * pair) } }
  | 2 =>
    let before := s.tally c index
    let x := v.toNat % 2 ^ 16
    (s.postOp c ⟨3, 0, 0, index, ((x : Nat) : Int)⟩).traceAdd (s.dbgUnit c) 4 (BitVec.ofNat 64 (index + x * 2 ^ 16)) (BitVec.ofNat 64 before)
  | 3 => s.setCore c { k with tpe := { k.tpe with x := two k.tpe.x (tileElem index pair) } }
  | _ => s.setCore c { k with tpe := { k.tpe with y := two k.tpe.y (tileElem index pair) } }

/-- The item a path's DBG_REG_SEL names: KIND, INDEX, PAIR. -/
def State.regSel (s : State) (path : Path) : Nat × Nat × Nat :=
  let r := Reg.dbgRegSel + pathKey path
  (s.fld r 0 3, s.fld r 8 8, s.fld r 16 5)

/-- The core and item a path may reach now. -/
def State.dbgItem (s : State) (path : Path) : Except DbgErr Nat :=
  match s.dbgCore path with
  | .error e => .error e
  | .ok c =>
    match s.itemErr c (s.regSel path).1 (s.regSel path).2.1 with
    | some e => .error e
    | none => .ok c

/-- A read of DBG_REG_DATA: the state after it and the value. -/
def State.regDataRead (s : State) (path : Path) : State × W64 :=
  match s.dbgItem path with
  | .error e => (s.dbgFail path e, 0)
  | .ok c => (s, s.itemRead c (s.regSel path).1 (s.regSel path).2.1 (s.regSel path).2.2)

/-- The value of a 64-bit item after a write of the bits in mask. -/
def maskedWord (old v mask : W64) : W64 := (old &&& ~~~mask) ||| (v &&& mask)

/-- A write to DBG_REG_DATA of the bits in mask. -/
def State.regDataWrite (s : State) (path : Path) (v mask : W64) : State :=
  match s.dbgItem path with
  | .error e => s.dbgFail path e
  | .ok c =>
    let x := s.regSel path
    s.itemWrite c x.1 x.2.1 x.2.2 (maskedWord (s.itemRead c x.1 x.2.1 x.2.2) v mask)

/-- A read of one of the block's debug data registers: a package in reset answers OFF (R592). -/
def State.dbgRead (s : State) (path : Path) (f : State → State × W64) : Out :=
  if s.inReset then .next ((s.dbgFail path .off).answerWord 0) else .next ((f (s.accessed path)).1.answerWord (f (s.accessed path)).2)

/-- A write of one of them. -/
def State.dbgWrite (s : State) (path : Path) (off : Nat) (f : State → State) : Out :=
  if s.inReset then .next (s.dbgFail path .off) else s.guarded path off f

def execDbgRegRead (path : Path) (s : State) : Out := s.dbgRead path (fun t => t.regDataRead path)
def execDbgRegWrite (path : Path) (v : BitVec 64) (s : State) : Out :=
  s.dbgWrite path Reg.dbgRegData (fun t => t.regDataWrite path v (BitVec.allOnes 64))

/-! ### Pegs (R591, R294) -/

def State.closedCluster (s : State) (k : Nat) : Bool := s.closedCore (4 * k)

def State.pegSel (s : State) (path : Path) : Nat := s.fld (Reg.dbgPegSel + pathKey path) 0 16

/-- A read of DBG_PEG_DATA: the word as a control core would load it. -/
def State.pegDataRead (s : State) (path : Path) : State × W64 :=
  let p := s.pegSel path
  if s.closedCluster (p / 4096) then (s.dbgFail path .refused, 0)
  else
    let s := s.pegScreen p
    (s.tracePeg p 7 (s.pegWord p), s.pegWord p)

/-- A write to DBG_PEG_DATA: reserved encodings are refused; else the whole word is placed, its waiters told, and the write traced. -/
def State.pegDataWrite (s : State) (path : Path) (v mask : W64) : State :=
  let p := s.pegSel path
  let w := maskedWord (s.pegWord p) v mask
  if s.closedCluster (p / 4096) then s.dbgFail path .refused
  else if !pegWordOk w then s.dbgFail path .range
  else (s.placePeg p w 1).traceAdd (s.unitCluster (p / 4096)) 5 (BitVec.ofNat 64 p) w

def execDbgPegRead (path : Path) (s : State) : Out := s.dbgRead path (fun t => t.pegDataRead path)
def execDbgPegWrite (path : Path) (v : BitVec 64) (s : State) : Out :=
  s.dbgWrite path Reg.dbgPegData (fun t => t.pegDataWrite path v (BitVec.allOnes 64))

/-! ### Memory (R592) -/

/-- Where a debug access of memory goes. -/
inductive DbgPlace where
  | die (off : Nat)
  | tier (m : Map) (va : Nat)

/-- The target a path's DBG_MEM_ADDR names, for a read or a write. -/
def State.memTarget (s : State) (path : Path) (write : Bool) : Except DbgErr DbgPlace :=
  let r := Reg.dbgMemAddr + pathKey path
  let off := s.fld r 0 48
  let space := s.fld r 48 4
  let own := fun (closed : Bool) => if closed then Except.error DbgErr.refused else Except.ok (DbgPlace.die off)
  if off % 8 ≠ 0 then .error .range
  else match britumWindow off with
    | .store c _ => own (s.closedCore c)
    | .acc c _ _ => own (s.closedCore c)
    | .attic k _ => own (s.closedCluster k)
    | .tier va =>
      if s.jobs.any (fun j => j.1 == space && !j.2.debug) then .error .refused
      else match s.walk space va with
        | .error _ => .error .xlate
        | .ok m => if (write && !m.w) || s.chanDown m.die (m.phys va) 8 then .error .xlate else .ok (.tier m va)
    | _ => .error .range

def State.memPlaceRead (s : State) (p : DbgPlace) : W64 :=
  match p with
  | .die off => BitVec.ofNat 64 (s.rdLE off 8)
  | .tier m va => BitVec.ofNat 64 (leNat (s.mapRead m va 8))

def State.memDataRead (s : State) (path : Path) : State × W64 :=
  match s.memTarget path false with
  | .error e => (s.dbgFail path e, 0)
  | .ok p =>
    let v := s.memPlaceRead p
    match p with
    | .die _ => (s, v)
    | .tier m va => (s.mapCount m va 8, v)

def State.memDataWrite (s : State) (path : Path) (v mask : W64) : State :=
  match s.memTarget path true with
  | .error e => s.dbgFail path e
  | .ok p =>
    let w := leBytes 8 (maskedWord (s.memPlaceRead p) v mask).toNat
    match p with
    | .die off => s.wr off w
    | .tier m va => s.mapWrite m va w

def execDbgMemRead (path : Path) (s : State) : Out := s.dbgRead path (fun t => t.memDataRead path)
def execDbgMemWrite (path : Path) (v : BitVec 64) (s : State) : Out :=
  s.dbgWrite path Reg.dbgMemData (fun t => t.memDataWrite path v (BitVec.allOnes 64))

/-! ### Trace (R594) -/

/-- A write to DBG_TRACE_CTRL. -/
def State.traceCtrlWrite (s : State) (v : Nat) : State :=
  let s := s.setRegN Reg.traceCtrl (v % 4)
  if v.testBit 2 then { s with trace := { busyAt := s.trace.busyAt } } else s

/-- CLEAR, with EN and STOP as they stand. -/
def execDbgTraceClear (path : Path) (s : State) : Out :=
  s.guarded path Reg.traceCtrl (fun t => t.traceCtrlWrite (t.fld Reg.traceCtrl 0 2 + 4))

def State.markTrace (s : State) (v : W64) : State := s.traceAdd (s.unitDie 0) 8 v 0

def execDbgTraceMark (path : Path) (v : BitVec 64) (s : State) : Out :=
  s.guarded path Reg.traceMark (fun t => t.markTrace v)

end Sys2Proof.Machine
end

