-- ==== Sys2Proof/Machine/Regs.lean ====
section
/-! DEFINITION. What a read of a setup register returns: the register as it is held, or the view of another part of the state that its
section gives; withheld fields (R576); and a read of the setup space (R36, R37). -/
namespace Sys2Proof.Machine

/-- Bits set for the numbers below n that pass the test. -/
def bitSet (n : Nat) (p : Nat → Bool) : Nat := ((List.range n).filter p).foldl (fun a i => a + 2 ^ i) 0

/-! ### Per-core views -/

/-- CORE_ENG_STATE.STATE: an engine under debug hold that could otherwise run reads 6 (R584). -/
def Eng.stateCode (k : Eng) : Nat :=
  if k.dhold && (k.st.runs || k.st == .stopped) then 6
  else match k.st with
    | .halted => 0
    | .issuing => 1
    | .stallWait => 2
    | .stallQueue => 3
    | .stallBusy => 4
    | .faulted => 5
    | .stopped => 6

def Eng.view (k : Eng) : Nat := k.pc % 2 ^ 20 + k.stateCode * 2 ^ 24 + k.loops.length * 2 ^ 27 + k.fault * 2 ^ 32

/-- The levels of a queue of the five engines, a byte each. -/
def State.levels (s : State) (c : Nat) (f : Eng → Nat) : Nat := (List.range 5).foldl (fun a e => a + f (s.eng c e) * 2 ^ (8 * e)) 0

def State.opeStatus (s : State) (c e : Nat) : Nat :=
  let u := s.ope c e
  let staged := (u.stages.filter (fun g => g.freeAt.all (fun t => decide ((s.core c).cycles < t)))).length
  u.active + u.ty0 * 2 + u.ty1 * 8 + boolNat u.feed.isSome * 32 + min u.drps.length 2 * 64 + min staged 2 * 256 +
    (u.lastD0.getD 0 % 2 ^ 32) * 2 ^ 32

def State.strStatus (s : State) (c : Nat) : Nat :=
  let x := (s.core c).str
  let st := fun (n : Nat) => (Tab.get (fun _ => ({} : Strm)) x.slots n).state
  bitSet 16 (fun n => st n == 1 || st n == 2) + bitSet 16 (fun n => st n == 2) * 2 ^ 16 +
    (min (x.xfers.filter (fun f => !f.retired)).length 768) * 2 ^ 32 + (x.landingAll / 4 % 2 ^ 16) * 2 ^ 48

def Strm.viewA (m : Strm) : Nat := m.done % 2 ^ 32 + (m.total % 2 ^ 32) * 2 ^ 32
def Strm.viewB (m : Strm) : Nat :=
  m.pc % 2 ^ 20 + m.state * 2 ^ 20 + m.cls * 2 ^ 24 + m.d.look % 16 * 2 ^ 28 + (m.filled % 2 ^ 32) * 2 ^ 32

/-! ### Package views -/

/-- 8 bytes at word i of a list of entries of 32 bytes each. -/
def wordOf (bs : List Byte) (i : Nat) : Nat := fieldAt bs (8 * i) 8

/-- The 32 bytes of a logbook entry (R517). -/
def LogEntry.bytes (e : LogEntry) : List Byte :=
  leBytes 1 e.step ++ leBytes 1 e.outcome ++ leBytes 1 e.form ++ leBytes 1 0 ++ leBytes 2 e.detail ++ leBytes 2 e.fault ++
    leBytes 4 e.unit.toNat ++ leBytes 4 e.duration ++ leBytes 8 e.time.toNat ++ leBytes 4 e.d0.toNat ++ leBytes 4 e.d1.toNat

/-- The 32 bytes of a trace entry (R594). -/
def TraceEnt.bytes (e : TraceEnt) : List Byte :=
  leBytes 8 e.time.toNat ++ leBytes 4 e.unit.toNat ++ leBytes 4 e.kind ++ leBytes 8 e.a.toNat ++ leBytes 8 e.b.toNat

def State.buStatus (s : State) : Nat :=
  let b := s.bu
  b.step + b.state * 16 + boolNat b.ready * 128 + boolNat b.ended * 256 +
    (if b.step = 0 then 0 else min ((s.ns - b.began) / 1000) (2 ^ 32 - 1)) * 2 ^ 32

def State.dieStatus (s : State) (d : Nat) : Nat :=
  let b := s.fbuf d
  (if d = 0 then b.head else 0) + b.recs.length * 2 ^ 10 + b.next * 2 ^ 32 + b.dropped * 2 ^ 48

/-- The record at an index of the Britum buffer, if one is held there. -/
def State.fltBufAt (s : State) (i : Nat) : Option FaultRec :=
  let b := s.fbuf 0
  b.recs[(i + 1024 - b.head) % 1024]?

def State.recovering (s : State) (level target : Nat) : Bool := s.recov.any (fun w => w.level == level && w.target == target)

def State.recOther (s : State) : Nat :=
  bitSet 16 (s.recovering 3) + bitSet 4 (s.recovering 4) * 2 ^ 16 + bitSet 2 (fun d => s.recovering 5 (d + 5)) * 2 ^ 20 +
    s.fld Reg.fltOther 22 1 * 2 ^ 22

def State.secStatus (s : State) : Nat :=
  boolNat (decide (12 < s.bu.step) || (s.bu.step == 12 && s.bu.state == 2)) + boolNat s.measured * 2 + boolNat (s.jobs.any (fun j => j.2.debug)) * 4

def State.seqStatusView (s : State) (d : Nat) : Nat :=
  let x := s.cellar d
  let st := if x.running.isSome then 1 else if s.fld (Reg.updCtrl d) 1 1 = 1 then 2 else 0
  st + boolNat x.queued.isSome * 4 + s.fld (Reg.seqStatus d) 32 32 * 2 ^ 32

def State.engStatusView (s : State) (path : Path) : Nat :=
  match s.dbgCore path with
  | .error _ => 0
  | .ok c => bitSet 6 (fun e => (s.eng c e).dhold) + bitSet 6 (fun e => (s.eng c e).stepping) * 2 ^ 8 + ((s.core c).steps % 2 ^ 32) * 2 ^ 32

/-- Is a job with DEBUG 0 loaded on any core? -/
def State.anyClosed (s : State) : Bool := s.jobs.any (fun j => j.2.clusters != 0 && !j.2.debug)

/-! ### Reading a register -/

/-- Each path has its own copy of the debug selectors and of DBG_ERR (R580). -/
def ownCopy (name : String) : Bool :=
  name == "DBG_CORE_SEL" || name == "DBG_ERR" || name == "DBG_REG_SEL" || name == "DBG_PEG_SEL" || name == "DBG_MEM_ADDR"

/-- Where the register at base is held for a path. -/
def regKey (path : Path) (name : String) (base : Nat) : Nat := if ownCopy name then base + pathKey path else base

/-- Mask out the bits of write-only fields, which read zero. -/
def RegDesc.readable (d : RegDesc) (v : Nat) : Nat :=
  d.fields.foldl (fun w f => if f.ty = .wo then withBits w f.lo f.len 0 else w) v

/-- Is the field withheld from the steward's side (R576)? -/
def State.withheld (s : State) (path : Path) (name : String) (c : Nat) : Bool :=
  stewardPath path && ((name == "OPE_SR_SEED" || name == "VEC_SR_SEED") && s.closedCore c || name == "UPD_SR_SEED" && s.anyClosed)

/-- The value of the register at base, one of the array d, with no effect of the read. -/
def State.regView (s : State) (path : Path) (d : RegDesc) (base : Nat) : Nat :=
  let ix := RegDesc.index d.dims (base - d.base)
  let i := ix.getD 0 0
  let j := ix.getD 1 0
  let held := d.readable (s.regN (regKey path d.name base))
  match d.name with
  | "CORE_CTRL" => bitSet 6 (fun e => (s.eng i e).st.runs && !(s.eng i e).dhold)
  | "CORE_ENG_STATE" => (s.eng i j).view
  | "CORE_AQ_LEVEL" => s.levels i (fun k => k.aq.length + k.aqNew.length)
  | "CORE_PQ_LEVEL" => s.levels i (fun k => k.pq.length + k.pqNew.length)
  | "CORE_CYCLES" => (s.core i).cycles % 2 ^ 64
  | "OPE_STATUS" => s.opeStatus i j
  | "TPE_STATUS" => s.tpeStatus i
  | "VEC_PENDING" => bitSet 64 (fun n => s.vLeft i n != 0)
  | "STR_STATUS" => s.strStatus i
  | "STR_SLOT_A" => (Tab.get (fun _ => ({} : Strm)) (s.core i).str.slots j).viewA
  | "STR_SLOT_B" => (Tab.get (fun _ => ({} : Strm)) (s.core i).str.slots j).viewB
  | "OPE_SR_SEED" => if s.withheld path d.name i then 0 else held
  | "VEC_SR_SEED" => if s.withheld path d.name i then 0 else held
  | "UPD_SR_SEED" => if s.withheld path d.name i then 0 else held
  | "CEL_SEQ_STATUS" => s.seqStatusView (i + 1)
  | "GUY_MAP" => bitSet 64 (fun b => Tab.get (fun _ => false) s.linkMap (64 * j + b))
  | "TIM_NOW" => s.time.toNat
  | "RED_CHAN_CFG" => if Reg.redDie j = 5 + i then held else 0
  | "RED_CHAN_TABLE" => if Reg.redDie j = 5 + i then held else 0
  | "RED_CHAN_TIME" => if Reg.redDie j = 5 + i then held else 0
  | "RED_CHAN_STEP_START" => if Reg.redDie j = 5 + i then held else 0
  | "RED_CHAN_STEP_SEQ" => if Reg.redDie j = 5 + i then held else 0
  | "RED_CHAN_SLOTS" => if Reg.redDie j = 5 + i then held else 0
  | "RED_CHAN_STATUS" => if Reg.redDie j = 5 + i then held else 0
  | "JOB_SLOTS" => bitSet 16 (fun n => s.jobs.any (fun x => x.1 == n)) + bitSet 16 (fun k => (s.jobOfCluster k).isSome) * 2 ^ 16
  | "BU_STATUS" => s.buStatus
  | "BU_LOG_COUNT" => s.bu.log.length + s.bu.dropped * 2 ^ 16
  | "BU_LOG" => ((s.bu.log[i / 4]?).map (fun e => wordOf e.bytes (i % 4))).getD 0
  | "FLT_RESET" => s.fld Reg.fltReset 0 14 + boolNat s.rst.isSome * 2 ^ 30
  | "FLT_REC_CORES" => bitSet 64 (s.recovering 2)
  | "FLT_REC_OTHER" => s.recOther
  | "FLT_DIE_STATUS" => s.dieStatus i
  | "FLT_BUF" => ((s.fltBufAt (i / 4)).map (fun r => wordOf r.bytes (i % 4))).getD 0
  | "SEC_STATUS" => s.secStatus
  | "SEC_SLOTS" => bitSet 32 (fun n => s.keyAt 1 n != 0) + bitSet 32 (fun n => s.keyAt 5 n != 0) * 2 ^ 32
  | "SEC_QUOTE" => wordOf s.quote i
  | "DBG_ENG_STATUS" => s.engStatusView path
  | "DBG_TRACE_STATUS" => s.trace.next + boolNat s.trace.wrapped * 2 ^ 11 + s.trace.lost * 2 ^ 32
  | "DBG_TRACE_BUF" => wordOf (Tab.get (fun _ => (⟨0, 0, 0, 0, 0⟩ : TraceEnt)) s.trace.buf (i / 4)).bytes (i % 4)
  | _ => held

/-- A read of the register at base: the debug registers have an effect of their own. -/
def State.regRead (s : State) (path : Path) (d : RegDesc) (base : Nat) : State × Nat :=
  match d.name with
  | "DBG_REG_DATA" => ((s.regDataRead path).1, (s.regDataRead path).2.toNat)
  | "DBG_PEG_DATA" => ((s.pegDataRead path).1, (s.pegDataRead path).2.toNat)
  | "DBG_MEM_DATA" => ((s.memDataRead path).1, (s.memDataRead path).2.toNat)
  | "DBG_ENG_STATUS" =>
    match s.dbgCore path with
    | .error e => (s.dbgFail path e, 0)
    | .ok _ => (s, s.engStatusView path)
  | _ => (s, s.regView path d base)

/-! ### A read of the setup space (R36) -/

/-- The register whose low or high half, or whose whole, lies at a 4-byte offset: its array, its offset, and whether it is the high half. -/
def laneAt (off : Nat) : Option (RegDesc × Nat × Bool) :=
  match regFind off with
  | some d => some (d, off, false)
  | none =>
    if off % 8 = 4 then
      match regFind (off - 4) with
      | some d => if d.width = 64 then some (d, off - 4, true) else none
      | none => none
    else none

/-- Is the access one that the setup space accepts? -/
def accessOk (off size : Nat) : Bool := (size == 4 || size == 8) && off % size == 0

/-- A 4-byte read, with the latch the path held and whether it loads one. -/
def State.laneRead (s : State) (path : Path) (off : Nat) (held : Option (Nat × Nat)) (loads : Bool) : State × Nat :=
  match laneAt off with
  | none => (s, 0)
  | some (d, base, true) =>
    match held with
    | some (r, hi) => if r = base then (s, hi) else let x := s.regRead path d base; (x.1, x.2 / 2 ^ 32 % 2 ^ 32)
    | none => let x := s.regRead path d base; (x.1, x.2 / 2 ^ 32 % 2 ^ 32)
  | some (d, base, false) =>
    let x := s.regRead path d base
    if loads && d.width == 64 then ({ x.1 with latch := (path, base, x.2 / 2 ^ 32 % 2 ^ 32) :: x.1.latch }, x.2 % 2 ^ 32)
    else (x.1, x.2 % 2 ^ 32)

/-- A read of the setup space by a path: the state after it and the bytes read. -/
def State.busRead (s : State) (path : Path) (off size : Nat) : State × List Byte :=
  let l := s.takeLatch path
  if !accessOk off size then (l.1.event (dieOf off) 0x045 (l.1.unitDie (dieOf off)), List.replicate size 0xFF)
  else if size = 4 then let x := l.1.laneRead path off l.2 true; (x.1, leBytes 4 x.2)
  else
    match regFind off with
    | some d =>
      if d.width = 64 then let x := l.1.regRead path d off; (x.1, leBytes 8 x.2)
      else
        let a := l.1.laneRead path off none false
        let b := a.1.laneRead path (off + 4) none false
        (b.1, leBytes 4 a.2 ++ leBytes 4 b.2)
    | none =>
      let b := l.1.laneRead path (off + 4) none false
      (b.1, leBytes 4 0 ++ leBytes 4 b.2)

end Sys2Proof.Machine
end

