-- ==== Sys2Proof/Machine/Bus.lean ====
section
/-! DEFINITION. A write of a setup register by any path: the behaviour its section gives, else the write of its fields (R9 to R12, R36 to
R39, R628). -/
namespace Sys2Proof.Machine

/-- The bits of a number outside a mask of 64 bits, with those of v inside it. -/
def mergeBits (old v mask : Nat) : Nat := (old &&& (2 ^ 64 - 1 - mask)) ||| (v &&& mask)

/-- Does the write leave EN = 1 with a reserved COUNT in MEM_SPACE? -/
def spaceBad (w : Nat) : Bool := w.testBit 0 && (bitsOf w 32 27 == 0 || decide (67108864 < bitsOf w 32 27))

/-- Is an FP32 value of UPD_CLIP refused: negative, NaN or infinite? -/
def clipBad (v : Nat) : Bool := (v.testBit 31 && v % 2 ^ 31 != 0) || bitsOf v 23 8 == 255

/-- A write to CORE_CTRL: each field acts on the engines as they were before the write, so the clears are refused while one runs, STOP
acts on those that run and RUN on the others. A refused write of the clears is recorded once. -/
def State.coreCtrlWrite (s : State) (c v : Nat) : State :=
  let runs := bitSet 6 (fun e => (s.eng c e).st.runs)
  let s := if v.testBit 16 then s.tallyClear c else s
  let s := if v.testBit 17 && !(v.testBit 16 && s.coreRuns c) then s.queueClear c else s
  let s := s.eachEng (bitsOf v 8 6 &&& runs) (fun t e => t.stopEng c e)
  s.eachEng (bitsOf v 0 6 &&& (63 - runs)) (fun t e => t.runEng c e)

/-- The configuration registers of a reduction channel: written on its home die only, and not while it has an open instance. -/
def State.redConfigBars (s : State) (die ch : Nat) : Bool := Reg.redDie ch != die || s.chanBusy ch

/-- A reserved selection of a debug selector (DBG_REG_SEL.KIND) or of DBG_PMU_CFG.EVENT. -/
def dbgReserved (name : String) (v mask : Nat) : Bool :=
  (name == "DBG_REG_SEL" && decide (5 ≤ bitsOf v 0 3) && bitsOf mask 0 3 != 0) || (name == "DBG_PMU_CFG" && decide (13 ≤ bitsOf v 0 4) && bitsOf mask 0 4 != 0)

/-- The write of the bits in mask of the register at base, one of the array d, once its path may write it. -/
def State.regWrite (s : State) (path : Path) (d : RegDesc) (base v mask : Nat) : State :=
  let ix := RegDesc.index d.dims (base - d.base)
  let i := ix.getD 0 0
  let j := ix.getD 1 0
  let key := regKey path d.name base
  let plain := fun (t : State) => t.plainWrite path d base key v mask
  let whole := mergeBits (s.regN key) v mask
  let red := fun (t : State) => if t.redConfigBars (5 + i) j then t.unmapped base else t.plainWrite path d base key v mask
  match d.name with
  | "BU_CTRL" => if v.testBit 4 then s.buGo (bitsOf v 0 4) else s
  | "BU_SPARE_CORE" => s.spareWrite path v
  | "ISL_CORE_FREQ" => s.freqWrite path i v
  | "CORE_CTRL" => s.coreCtrlWrite i v
  | "STR_SPLIT" => s.splitWrite i v
  | "PEG_INIT_CTRL" => s.pegInitWrite i path v
  | "PEG_INIT_WORD" => if s.fld (Reg.pegInitCtrl i) 31 1 = 1 then s.unmapped base else plain s
  | "PEG_ABANDON" => s.sweepCluster i (v % 16)
  | "MEM_SPACE" => if spaceBad whole then s.unmapped base else plain s
  | "MEM_INVAL" => s.invalWrite (mergeBits (s.regN key % 2 ^ 63) v mask)
  | "MEM_RETRAIN" => s.retrainWrite (i + 1) v
  | "ATT_ZERO" => s.attZeroWrite i v
  | "UPD_CLIP" => if clipBad v then s.unmapped base else plain s
  | "UPD_RULE_CFG" => s.ruleCfgWrite (i + 1) j v mask
  | "UPD_RULE_PROG" => if s.ruleLocked (i + 1) (some j) then s.unmapped base else plain s
  | "UPD_RULE_P" => if s.ruleLocked (i + 1) (some j) then s.unmapped base else plain s
  | "UPD_PROG" => if s.ruleLocked (i + 1) none then s.unmapped base else plain s
  | "GUY_PORT_CTRL" => s.portCtrlWrite (4 * i + j) v
  | "RED_CHAN_CFG" => red s
  | "RED_CHAN_TABLE" => red s
  | "RED_CHAN_TIME" => red s
  | "RED_CHAN_SLOTS" => if s.redConfigBars (5 + i) j || !s.quotaOk j v then s.unmapped base else plain s
  | "RED_CHAN_STEP_START" => if Reg.redDie j ≠ 5 + i then s.unmapped base else plain s
  | "RED_CHAN_STEP_SEQ" => if Reg.redDie j ≠ 5 + i then s.unmapped base else s.stepSeqWrite j whole
  | "RED_CHAN_CTRL" => if Reg.redDie j ≠ 5 + i then s.unmapped base else s.redCtrlWrite j v
  | "RED_CHAN_STATUS" => if Reg.redDie j ≠ 5 + i then s.unmapped base else s
  | "JOB_RING_BASE" => if s.ringOn i then s.unmapped base else plain s
  | "JOB_RING_CTLB" => if s.ringOn i then s.unmapped base else plain s
  | "JOB_RING_CFG" => s.ringCfgWrite path i v
  | "FLT_RESET" => s.fltResetWrite v
  | "FLT_HEARTBEAT" => if v.testBit 0 && s.beat.isSome then { s with beat := some s.ns } else s
  | "FLT_BUF_ACK" => if (s.fbuf 0).recs.length < v % 2 ^ 11 then s.unmapped base else s.releaseRecs (v % 2 ^ 11)
  | "CHK_OP" => s.chkWrite v
  | "SEC_NONCE" => s.nonceWrite i (BitVec.ofNat 64 whole)
  | "SEC_QUOTE_CTRL" => s.quoteWrite v
  | "SEC_SVN_RAISE" => s.raiseSvn (bitsOf v 6 2) (bitsOf v 0 6)
  | "DBG_ENG_CTRL" => s.engCtrlWrite path v
  | "DBG_CATCH" => s.catchWrite path whole
  | "DBG_REG_SEL" => if dbgReserved d.name v mask then s.dbgFail path .range else plain s
  | "DBG_PMU_CFG" => if dbgReserved d.name v mask then s.dbgFail path .range else plain s
  | "DBG_REG_DATA" => s.regDataWrite path (BitVec.ofNat 64 v) (BitVec.ofNat 64 mask)
  | "DBG_PEG_DATA" => s.pegDataWrite path (BitVec.ofNat 64 v) (BitVec.ofNat 64 mask)
  | "DBG_MEM_DATA" => s.memDataWrite path (BitVec.ofNat 64 v) (BitVec.ofNat 64 mask)
  | "DBG_TRACE_CTRL" => s.traceCtrlWrite v
  | "DBG_TRACE_MARK" => s.markTrace (BitVec.ofNat 64 (v &&& mask))
  | _ => plain s

/-- A 4-byte write. -/
def State.laneWrite (s : State) (path : Path) (off v : Nat) : State :=
  match laneAt off with
  | none => if s.inReset || (path == .jtag && !inDbg off) then s else s.unmapped off
  | some (d, base, high) =>
    match s.guard path base with
    | some t => t
    | none =>
      if high then s.regWrite path d base (v % 2 ^ 32 * 2 ^ 32) ((2 ^ 32 - 1) * 2 ^ 32) else s.regWrite path d base (v % 2 ^ 32) (2 ^ 32 - 1)

/-- A write of the setup space by a path (R36, R37): it consumes the path's latch; an 8-byte write of no 64-bit register is two 4-byte
ones, the lower first. -/
def State.busWrite (s : State) (path : Path) (off size v : Nat) : State :=
  if s.inReset then s
  else
    let s := (s.takeLatch path).1
    if path == .jtag && !inDbg off then s
    else if !accessOk off size then s.event (dieOf off) 0x045 (s.unitDie (dieOf off))
    else if size = 4 then s.laneWrite path off v
    else
      match regFind off with
      | some d =>
        if d.width = 64 then
          match s.guard path off with
          | some t => t
          | none => s.regWrite path d off (v % 2 ^ 64) (2 ^ 64 - 1)
        else (s.laneWrite path off (v % 2 ^ 32)).laneWrite path (off + 4) (v / 2 ^ 32)
      | none => (s.laneWrite path off (v % 2 ^ 32)).laneWrite path (off + 4) (v / 2 ^ 32)

def execRegisterWrite (path : Path) (off : BitVec 24) (size : Nat) (v : BitVec 64) (s : State) : Out :=
  .next (s.busWrite path off.toNat size v.toNat)

end Sys2Proof.Machine
end

