-- ==== Sys2Proof/Machine/Pins.lean ====
section
/-! DEFINITION. The TAP (R582, R583), SMBus telemetry (R599 to R601), and the pins, clocks, rails, power and thermal limits (R605 to
R624). -/
namespace Sys2Proof.Machine

/-! ### The TAP (R582) -/

def State.selectIr (s : State) (code : Nat) : State := { s with tap := { s.tap with ir := code } }

/-- The steps before the GO of bring-up step 1, and those after a failed one, in which the boundary-scan chain may drive the pins. -/
def State.scanOpen (s : State) : Bool := s.bu.step == 0 || s.bu.ended

/-- The identification code: 1, the manufacturer, 0x0820, the stepping. -/
def idcodeWord : Nat := 1 + Config.manufacturer.toNat * 2 + 0x0820 * 2 ^ 12 + Config.stepping.toNat * 2 ^ 28

def execBypass (s : State) : Out := .next (s.selectIr 0xFF)

def execIdcode (s : State) : Out := .next ((s.selectIr 0x01).answer (leBytes 4 idcodeWord))

/-- The chain is sampled and preloaded, unless a job with DEBUG 0 is loaded. -/
def execSamplePreload (sampled preload : List (BitVec 8)) (s : State) : Out :=
  if s.jobs.any (fun j => !j.2.debug) then .next (s.selectIr 0xFF)
  else .next (({ s with tap := { s.tap with ir := 0x02, chain := preload } }).answer sampled)

/-- The chain drives the pins. -/
def execExtest (chain : List (BitVec 8)) (s : State) : Out :=
  if s.scanOpen then .next { s with tap := { s.tap with ir := 0x00, chain := chain } } else .next (s.selectIr 0xFF)

def execClamp (s : State) : Out := .next (s.selectIr (if s.scanOpen then 0x04 else 0xFF))
def execHighz (s : State) : Out := .next (s.selectIr (if s.scanOpen then 0x05 else 0xFF))

/-- The reset state of the TAP selects IDCODE. -/
def execTestLogicReset (s : State) : Out := .next (s.selectIr 0x01)

/-- The result of an access that Capture-DR returns: STATUS and DATA. -/
def State.accessDone (s : State) (status : Nat) (bs : List Byte) : State :=
  ({ s with tap := { s.tap with data := BitVec.ofNat 64 (leNat bs), status := status } }).answer bs

/-- Update-DR of the DBGACC register starts one access, which is done within 2 µs (R583). -/
def execDbgacc (dr : BitVec 96) (s : State) : Out :=
  let s := s.selectIr 0x20
  let off := bitsOf dr.toNat 64 24
  let size := if dr.getLsbD 89 then 8 else 4
  if s.inReset then .next (s.accessDone 3 [])
  else if dr.getLsbD 88 then
    if !inDbg off ∨ !accessOk off size then .next ((s.busWrite .jtag off size (bitsOf dr.toNat 0 64)).accessDone 2 [])
    else .next ((s.busWrite .jtag off size (bitsOf dr.toNat 0 64)).accessDone 0 [])
  else
    let x := s.busRead .jtag off size
    .next (x.1.accessDone (if accessOk off size then 0 else 2) x.2)

/-! ### SMBus (R599 to R601) -/

/-- One byte of the CRC-8 of SMBus packet-error checking, polynomial x^8 + x^2 + x + 1. -/
def crc8Step (c b : Nat) : Nat :=
  (List.range 8).foldl (fun x _ => if 128 ≤ x then (x * 2 % 256) ^^^ 7 else x * 2) (c ^^^ b)

def State.smbAddress (s : State) : Nat := 0x58 + s.pins.straps

/-- A Block Read of a command: its data bytes, then the packet-error byte. The target answers while PWR_OK is high. -/
def State.smbAnswer (s : State) (cmd : Nat) (data : List Byte) : State :=
  if !s.pins.pwrOk then s.answer []
  else
    let head := [2 * s.smbAddress, cmd, 2 * s.smbAddress + 1, data.length]
    s.answer (data ++ leBytes 1 ((head ++ data.map (·.toNat)).foldl crc8Step 0))

/-- Has step 1 passed? -/
def State.stepOnePassed (s : State) : Bool := decide (1 < s.bu.step) || (s.bu.step == 1 && s.bu.state == 2)

/-- Bytes that read zero until step 1 has passed, and in reset (R601). -/
def State.whenLive (s : State) (bs : List Byte) : List Byte :=
  if s.stepOnePassed && !s.inReset then bs else List.replicate bs.length 0

def execSmbIdentity (s : State) : Out :=
  .next (s.smbAnswer 0x00 (s.whenLive (leBytes 2 0x0820 ++ leBytes 1 Config.stepping.toNat ++ [0] ++ leBytes 2 s.pkg ++ [0, 0])))

/-- The state byte of SMBus command 0x01. -/
def State.smbStateCode (s : State) : Nat :=
  if s.inReset then 0
  else if s.stopped then 5
  else if s.fld Reg.fltOther 22 1 = 1 then 4
  else if s.bu.ended then 3
  else if s.bu.ready then 2
  else 1

def execSmbState (s : State) : Out :=
  .next (s.smbAnswer 0x01 (leBytes 1 s.smbStateCode ++ s.whenLive (leBytes 1 s.bu.step) ++ [0, 0]))

namespace Reg
def therm (d : Nat) : Nat := 0xB1000 + 8 * d
def energy (d : Nat) : Nat := 0xB1080 + 8 * d
def pwrLimit : Nat := 0x20000
def throttle : Nat := 0x20008
end Reg

/-- Die d's reading among seven of 16 bits. -/
def dieReading (dies : BitVec 112) (d : Nat) : Nat := bitsOf dies.toNat (16 * d) 16

/-- The larger of two signed 16-bit values. -/
def maxSigned (a b : Nat) : Nat := if signedOf a 16 < signedOf b 16 then b else a

/-- The die sensors are read: DBG_THERM.NOW and MAX. -/
def State.readSensors (s : State) (dies : BitVec 112) : State :=
  (List.range 7).foldl (fun t d =>
    let now := dieReading dies d
    (t.setFld (Reg.therm d) 0 16 now).setFld (Reg.therm d) 16 16 (maxSigned (t.fld (Reg.therm d) 16 16) now)) s

/-- The hottest die sensor as DBG_THERM shows it. -/
def State.hottest (s : State) : Nat := (List.range 6).foldl (fun a d => maxSigned a (s.fld (Reg.therm (d + 1)) 0 16)) (s.fld (Reg.therm 0) 0 16)

def execSmbTemperatures (dies : BitVec 112) (s : State) : Out :=
  if !s.pins.pwrOk then .next (s.answer [])
  else
    let s := s.readSensors dies
    .next (s.smbAnswer 0x10 ((List.range 7).flatMap (fun d => leBytes 2 (dieReading dies d)) ++ leBytes 2 s.hottest))

def execSmbPowers (powers : BitVec 128) (s : State) : Out :=
  let p := (List.range 8).map (fun d => bitsOf powers.toNat (16 * d) 16)
  .next (s.smbAnswer 0x20 (s.whenLive (p.flatMap (leBytes 2) ++ leBytes 2 (p.foldl (· + ·) 0))))

def execSmbLatestFault (s : State) : Out :=
  let held := (s.fbuf 0).recs
  let r := match held.getLast? with
    | some r => (r.bytes.take 2, r.bytes.drop 4 |>.take 4)
    | none => ([0, 0], [0, 0, 0, 0])
  .next (s.smbAnswer 0x30 (s.whenLive (r.1 ++ leBytes 2 held.length ++ r.2)))

/-! ### Reset (R607, R608, R613, R616, R624) -/

/-- Keys of controller memory, which no reset of the package touches. -/
def outside (k : Nat) : Bool := decide (2 ^ 64 ≤ k ∧ k < 2 ^ 65)

/-- Package reset: everything as at reset but what is not of the package's reset domain: the clock of the model, the commands that wait, the
pins and the telemetry unit, the TAP, the fuses, and the controller's memory. A fused minimum raised before takes effect. -/
def State.packageReset (s : State) : State :=
  let therm := s.regs.filter (fun x => decide (0xB1000 ≤ x.1 ∧ x.1 < 0xB1040))
  let t : State :=
    { State.reset with
      pending := s.pending, ns := s.ns, half := s.half, free := s.free, tap := s.tap, fusedSvn := s.fusedSvn, revoked := s.revoked, reply := s.reply,
      regs := therm, mem := Tab.keep outside s.mem,
      pins := { s.pins with alert := s.pins.trip, link := false, lost100 := false } }
  t.setRegN Reg.svn s.fusedSvn.toNat

/-- The straps are sampled, and the telemetry unit runs. -/
def execPwrOkRise (straps : BitVec 2) (s : State) : Out :=
  if s.pins.pwrOk then .next s
  else .next { s with pins := { s.pins with pwrOk := true, straps := straps.toNat, lost100 := false, lostA := false, lostB := false, link := s.pins.resetN } }

/-- The package enters reset, and the telemetry unit is reset: a thermal trip ends, and the highest temperatures are forgotten. -/
def execPwrOkFall (s : State) : Out :=
  let s := s.packageReset
  .next (({ s with pins := { resetN := s.pins.resetN, pwrOk := false, link := false } }).resetRegs 0xB1000 0xB1040 (fun _ => false))

/-- RESET_N falls and stays low for some time: below 1 µs it is ignored; from 10 µs on the package resets; between the two whether it
resets is not defined, and the level is high again. -/
def execResetNFall (heldNs : Nat) (s : State) : Out :=
  if heldNs < 1000 then .next s
  else if 10000 ≤ heldNs then
    if s.pins.trip then .next { s with pins := { s.pins with resetN := false } }
    else
      let s := s.packageReset
      .next { s with pins := { s.pins with resetN := false } }
  else if s.pins.trip then .next s
  else
    let resets := (Config.freeValue s.free).getLsbD 0
    let s := s.tickFree
    if resets then
      let s := s.packageReset
      .next { s with pins := { s.pins with link := s.pins.resetN && s.pins.pwrOk } }
    else .next s

/-- A rising edge has effect only while PWR_OK is high: the package leaves reset and the steward link trains. -/
def execResetNRise (s : State) : Out :=
  if s.pins.pwrOk then .next { s with pins := { s.pins with resetN := true, link := !s.pins.trip } } else .next s

/-- A die sensor reaches 115 °C: THERMTRIP_N and ALERT_N go low, and every die is held in reset until PWR_OK falls. -/
def execThermalTrip (s : State) : Out :=
  if !s.pins.pwrOk then .next s
  else .next (({ s with pins := { s.pins with trip := true } }).packageReset)

/-! ### Clocks and rails (R612, R618) -/

/-- REFCLK100 is lost once step 1 has passed: every island stops. -/
def State.stopIslands (s : State) : State :=
  let s := (List.range 64).foldl (fun t c =>
    let t := t.eachEng 63 (fun u e => u.stopEng c e)
    t.setCore c { t.core c with clkOn := false }) s
  { s with stopped := true, pins := { s.pins with alert := true } }

/-- The ports of a guyline die lose lock and go down; a running step 10 fails. -/
def State.loseSerdes (s : State) (die : Nat) : State :=
  let ports := (List.range 8).filter (fun g => guyDie g == die && s.portUsed g)
  let s := ports.foldl (fun t g =>
    if t.portState g = 2 ∨ t.portState g = 3 ∨ t.portState g = 6 then (t.setFld (Reg.portStatus g) 6 4 0).portDown g else t) s
  match ports with
  | g :: _ => if s.bu.step = 10 ∧ s.bu.state = 1 then s.buFail 0x0A01 0 (s.unitDie die) g (s.portState g) else s
  | [] => if s.bu.step = 10 ∧ s.bu.state = 1 then s.buFail 0x0A01 0 (s.unitDie die) (4 * (die - 5)) (s.portState (4 * (die - 5))) else s

/-- A reference clock is lost: 0 REFCLK100, 1 REFCLK156A, 2 REFCLK156B. -/
def execRefclkLost (clock : Fin 3) (s : State) : Out :=
  if !s.pins.pwrOk then .next s
  else
    let one := decide (s.bu.step = 1 ∧ s.bu.state = 1)
    match clock.val with
    | 0 =>
      let s := { s with pins := { s.pins with lost100 := true } }
      if s.inReset then .next s
      else if one then .next (s.buFail 0x0102 0 s.unitPkg 0 0)
      else if s.stepOnePassed then .next s.stopIslands else .next s
    | n =>
      let s := { s with pins := if n = 1 then { s.pins with lostA := true } else { s.pins with lostB := true } }
      if s.inReset then .next s
      else if one && s.planCode 10 != 1 then .next (s.buFail 0x0102 0 s.unitPkg 1 0)
      else .next (s.loseSerdes (if n = 1 then 5 else 6))

/-- REFCLK156A (or B) is back: its ports may train again. -/
def execRefclkReturn (b : Bool) (s : State) : Out :=
  .next { s with pins := if b then { s.pins with lostB := false } else { s.pins with lostA := false } }

/-- A rail leaves its tolerance for a time. -/
def execRailExcursion (rail : Fin 13) (mv : BitVec 32) (us : Nat) (s : State) : Out :=
  if s.inReset ∨ s.bu.step = 0 then .next s
  else if s.bu.step = 1 ∧ s.bu.state = 1 then .next (s.buFail 0x0104 0 s.unitPkg rail 0)
  else if 5 ≤ us then .next (s.record 0 0x0C6 2 s.unitPkg (0x0100 + rail) mv.toNat 0 0)
  else .next { s with pins := { s.pins with excursions := s.pins.excursions + 1 } }

/-- A die finds an internal fault of its own. -/
def execDieInternalFault (die : Fin 7) (d0 d1 : BitVec 32) (s : State) : Out :=
  if s.inReset then .next s else .next (s.record die 0x0C6 2 (s.unitDie die) d0.toNat d1.toNat 0 0)

/-! ### Power and temperature (R598, R621, R622) -/

/-- Die d's energy of the last millisecond among eight of 32 bits, in µJ. -/
def energyOf (e : BitVec 256) (d : Nat) : Nat := bitsOf e.toNat (32 * d) 32

/-- The sensors' energy of one millisecond is counted, and the temperatures are read. -/
def State.measurePower (s : State) (energy : BitVec 256) (dies : BitVec 112) : State :=
  let s := (List.range 8).foldl (fun t d => t.setRegN (Reg.energy d) (t.regN (Reg.energy d) + energyOf energy d)) s
  let total := (List.range 8).foldl (fun a d => a + energyOf energy d) 0
  ({ s with cap := { s.cap with energy := (total :: s.cap.energy).take 1000, evalAt := s.ns } }).readSensors dies

/-- Package power over the last second, in 0.1 W. -/
def State.power (s : State) : Nat := s.cap.energy.foldl (· + ·) 0 / 100000

def State.capNow (s : State) : Nat := s.fld Reg.pwrStatus 20 4

/-- The cap after the evaluation, and whether power and temperature lower it (R621). -/
def State.nextCap (s : State) : Nat × Bool × Bool :=
  let p := s.power
  let t := signedOf s.hottest 16
  let limit := 10 * s.fld Reg.pwrLimit 0 10
  let hot : Int := s.fld Reg.throttle 0 10
  let cap := s.capNow
  if limit < p ∨ hot ≤ t then (max (cap - 1) (s.fld Reg.pwrLimit 10 4), decide (limit < p), decide (hot ≤ t))
  else if 100 * p < 95 * limit ∧ t < hot - 40 ∧ s.cap.changed + 10000000 ≤ s.ns then (min (cap + 1) 12, false, false)
  else (cap, false, false)

/-- The cores of running jobs take the smaller of their job's step and the cap. -/
def State.applyCap (s : State) : State :=
  s.jobs.foldl (fun t j =>
    if j.2.st = .running then j.2.cores.foldl (fun u e => u.setFreq e.core (min (j.2.freq.getD (s.fld (Reg.coreFreq e.core) 0 4)) t.capNow)) t
    else t) s

/-- The cap moves to a new value: its causes, the notices of its fall and return, and the time spent below 12. -/
def State.moveCap (s : State) (cap : Nat) (byPower byHeat : Bool) : State :=
  let old := s.capNow
  let r := Reg.pwrStatus
  let s := if cap = old then s else { s with cap := { s.cap with changed := s.ns } }
  let s := s.setFld r 20 4 cap
  let s := if cap < 12 then (if byPower then s.setFld r 16 1 1 else s) else s.setFld r 16 1 0
  let s := if cap < 12 then (if byHeat then s.setFld r 17 1 1 else s) else s.setFld r 17 1 0
  let s := if cap < 12 then s.setFld r 32 32 (satInc (s.fld r 32 32) 32) else s
  if old = 12 ∧ cap < 12 then
    let s := { s with cap := { s.cap with below := some s.ns } }
    s.postNotice 0x0002 (leBytes 1 (boolNat byPower + 2 * boolNat byHeat) ++ leBytes 1 cap ++ [0, 0] ++ leBytes 2 s.power ++ leBytes 2 s.hottest)
  else if old < 12 ∧ cap = 12 then
    let ms := (s.ns - s.cap.below.getD s.ns) / 1000000
    ({ s with cap := { s.cap with below := none } }).postNotice 0x0003 ([0, 0, 0, 0] ++ leBytes 4 ms)
  else s

/-- One millisecond's measurement, and from step 13 on the supervisor's evaluation of the cap. -/
def execPowerCapEval (energy : BitVec 256) (dies : BitVec 112) (s : State) : Out :=
  if s.inReset ∨ s.ns < s.cap.evalAt + 1000000 then .next s
  else
    let s := s.measurePower energy dies
    let s := s.setFld Reg.pwrStatus 0 16 (min s.power 65535)
    if s.bu.step < 13 ∨ s.stopped then .next s
    else
      let n := s.nextCap
      .next (s.moveCap n.1 n.2.1 n.2.2).applyCap

/-! ### The steward port (R620) -/

/-- Only the port's configuration space is reset, with Bus Master Enable. -/
def execStewardLinkReset (s : State) : Out := .next { s with busMaster := false }

/-- The controller has restored the configuration space and sets Bus Master Enable. -/
def execBusMasterEnable (s : State) : Out :=
  if s.inReset ∨ !s.pins.link then .next s else .next { s with busMaster := true }

end Sys2Proof.Machine
end

