-- ==== Sys2Proof/Machine/Clock.lean ====
section
/-! DEFINITION. Half a nanosecond with no command (DESIGN CHOICE, log entry 2): the time base (R417, R421), the core clocks (R41), the lantern's
count (R290, R291), the per-cycle event counters (R596), and the fabric ports (R389). -/
namespace Sys2Proof.Machine

/-- Does some counter of core c select an event? -/
def State.countsEvents (s : State) (c : Nat) : Bool :=
  s.regs.any (fun x => decide (Reg.pmuCfg c 0 ≤ x.1 ∧ x.1 < Reg.pmuCfg c 4))

/-- Store-room requests refused in a cycle (R299), for a counter that selects them: the arbitration is timing that the model leaves out, so
their number is a free value (DESIGN CHOICE, log entry 92). -/
def State.refusals (s : State) (c : Nat) : State :=
  if (List.range 4).any (fun i => s.fld (Reg.pmuCfg c i) 0 7 == 8) then (s.pmu c 8 0 (Config.freeValue s.free).toNat).tickFree else s

/-- The per-cycle events of n cycles of core c. -/
def State.pmuCycles (s : State) (c n : Nat) (quiet : Bool) : State :=
  if !s.countsEvents c then s
  else
    let s := s.pmu c 1 0 n
    let s := (List.range 6).foldl (fun t e =>
      if (t.eng c e).dhold then t
      else match (t.eng c e).st with
        | .stallWait => t.pmu c 3 e n
        | .stallQueue => t.pmu c 4 e n
        | .stallBusy => t.pmu c 5 e n
        | _ => t) s
    let s := s.pmu c 10 0 (n * ((s.core c).str.xfers.filter (fun f => !f.retired)).length)
    let s := if quiet then s.pmu c 11 0 n else s
    s.refusals c

/-- The lantern counts n cycles, quiet or not. -/
def State.lanternCycles (s : State) (c n : Nat) (quiet : Bool) : State :=
  let r := Reg.lanternCount c
  if quiet then
    (if s.fld (Reg.lantern c) 31 1 = 1 then s else s.setFld r 0 32 (min (s.fld r 0 32 + n) (2 ^ 32 - 1)))
  else (s.setFld r 0 32 0).setFld (Reg.lantern c) 31 1 0

/-- A report that arrived in the cycle counts from now on: it satisfies a wait or stops it (R275, R279). -/
def State.takeReport (s : State) (c e : Nat) (r : Report) : State :=
  if !(s.eng c e).waits || !((s.pegWaits c e).any (fun x => x.1 == r.peg)) then s
  else if r.st ≠ 0 then s.waitFault c e r.peg r.st
  else s.setEng c e { s.eng c e with reports := (s.eng c e).reports.filter (·.peg != r.peg) ++ [r] }

def State.takeReports (s : State) (c e : Nat) : State :=
  match (s.eng c e).repNew with
  | [] => s
  | rs => rs.foldl (fun t r => t.takeReport c e r) (s.setEng c e { s.eng c e with repNew := [] })

/-- An engine at the end of core cycle n: a refetch puts its next issue six cycles after, and one more for each engine of a lower number
that began one in the same cycle (R52), and pushed entries whose cycle comes may be popped (R75). -/
def Eng.nextCycle (k : Eng) (e n : Nat) (jumps : List Nat) : Eng :=
  let k := if jumps.contains e then { k with next := n + 6 + (jumps.filter (fun x => decide (x < e))).length } else k
  if k.aqNew.isEmpty && k.pqNew.isEmpty then k
  else { k with
    aq := k.aq ++ (k.aqNew.filter (fun x => decide (x.1 ≤ n + 1))).map (·.2), aqNew := k.aqNew.filter (fun x => decide (n + 1 < x.1)),
    pq := k.pq ++ (k.pqNew.filter (fun x => decide (x.1 ≤ n + 1))).map (·.2), pqNew := k.pqNew.filter (fun x => decide (n + 1 < x.1)) }

/-- The core cycle ends: tally operations are applied (R71), engines whose HALT has completed halt, reports that arrived count, and the
queues move on. -/
def State.endCycle (s : State) (c : Nat) : State :=
  let n := (s.core c).cycles
  let s := (s.closeWindow c).applyOps c
  let s := (List.range 6).foldl (fun t e => if (t.core c).halts.contains e then t.haltNow c e else t) s
  let s := (List.range 6).foldl (fun t e => t.takeReports c e) s
  let j := (s.core c).jumps
  let k := (List.range 6).foldl (fun (k : Core) e => k.setEng e ((k.eng e).nextCycle e n j)) (s.core c)
  s.setCore c { k with halts := [], jumps := [], fetched := false, cycles := n + 1, stirred := k.stirNext, stirNext := false }

/-- Half a nanosecond of core c, in two-thousandths of a cycle: 600 MHz and 50 MHz for each step of CUR. No more than one cycle passes. -/
def State.tickCore (s : State) (c : Nat) : State :=
  let k := s.core c
  if !k.clkOn || k.clkHeld then s
  else
    let f := k.frac + 600 + 50 * s.fld (Reg.coreFreq c) 16 4
    let n := f / 2000
    if n = 0 then s.setCore c { k with frac := f }
    else
      let quiet := s.quiet c
      let s := (s.setCore c { k with frac := f % 2000 }).endCycle c
      (s.lanternCycles c n quiet).pmuCycles c n quiet

/-- In holdover the package keeps its last disciplined rate: the last correction is made again over the time it was made over (R422;
DESIGN CHOICE, log entry 45). -/
def State.holdRate (s : State) : State :=
  if s.fld Reg.timStatus 0 2 = 3 ∧ s.tim.rateSpan ≠ 0 ∧ (s.ns - s.tim.ruledAt) % s.tim.rateSpan = 0 then
    { s with tim := { s.tim with slew := s.tim.slew + s.tim.rate } }
  else s

/-- One nanosecond of the time base; a correction is slewed by at most 1 ns in each µs. -/
def State.tickTime (s : State) : State :=
  let s := s.holdRate
  if s.ns % 1000 = 0 ∧ s.tim.slew ≠ 0 then
    let d : Int := if 0 < s.tim.slew then 1 else -1
    { s with time := s.time + BitVec.ofInt 64 (1 + d), tim := { s.tim with slew := s.tim.slew - d } }
  else { s with time := s.time + 1 }

/-- Half a nanosecond in which no command is carried out; what counts whole nanoseconds moves with the second half.
Peg units first serve queued takes, and after the new network cycles begin their runs go on (R270, R287). -/
def State.tick (s : State) : State :=
  let whole := s.half
  let still := s.inReset || s.pins.lost100
  let s := if whole && !still then s.serveAll else s
  let cyc := s.netCycle
  let s := { s with half := !whole, ns := s.ns + boolNat whole }
  if still then s
  else
    let s := (List.range 64).foldl State.tickCore (if whole then s.tickTime else s)
    let s := s.advanceRuns (s.netCycle - cyc)
    if whole then (List.range 8).foldl (fun t g => (t.portDrained g).portTick g) s else s

end Sys2Proof.Machine
end

