-- ==== Sys2Proof/Machine/Outer.lean ====
section
/-! DEFINITION. The outer-product engines (R95 to R134): the feed unit (MMA, SWAP), the bank unit (DRP, SRS), the stage unit
(STG), and the swap check. -/
namespace Sys2Proof.Machine

/-! ### Formats and operands (R98 to R104) -/

/-- The classes of R99. -/
def opClass (fmt : Nat) : Nat :=
  if fmt ≤ 1 then 0 else if fmt ≤ 7 then 1 else if fmt = 8 then 2 else if fmt = 9 then 3 else 4

/-- Steps of an operand tile (R98). -/
def classSteps (cls : Nat) : Nat :=
  match cls with
  | 0 => 32
  | 2 => 8
  | 4 => 96
  | _ => 16

/-- Reduction indices of one step. -/
def classRank (cls : Nat) : Nat :=
  match cls with
  | 2 => 4
  | 0 => 1
  | 4 => 1
  | _ => 2

/-- Bytes of an operand tile: code 9 is INT8 here. -/
def operandBytes (fmt : Nat) : Nat := if fmt = 9 then 1024 else tileBytes fmt

/-- MMA's operand fields (R133). -/
structure MmaOp where
  fa : Nat
  fb : Nat
  tsa : Bool
  tsb : Bool
  ta : Bool
  tb : Bool
  swb : Bool
deriving DecidableEq, Repr

def mmaOp (o : BitVec 40) : MmaOp :=
  ⟨bitsOf o.toNat 0 4, bitsOf o.toNat 4 4, o.getLsbD 8, o.getLsbD 9, o.getLsbD 10, o.getLsbD 11, o.getLsbD 12⟩

/-- A pair or modifier that R99 refuses. -/
def MmaOp.refused (m : MmaOp) : Bool :=
  opClass m.fa != opClass m.fb || (m.tsa && decide (4 ≤ m.fa)) || (m.tsb && decide (4 ≤ m.fb)) ||
  (m.ta && decide (4 ≤ m.fa ∧ m.fa ≤ 8)) || (m.tb && decide (4 ≤ m.fb ∧ m.fb ≤ 8))

/-- The bank type an MMA of a class makes (R113): 1 FP32, 2 INT32. -/
def classType (cls : Nat) : Nat := if cls = 3 then 2 else 1

def Ope.ty (o : Ope) (b : Nat) : Nat := if b = 0 then o.ty0 else o.ty1
def Ope.setTy (o : Ope) (b t : Nat) : Ope := if b = 0 then { o with ty0 := t } else { o with ty1 := t }
def Ope.bank (o : Ope) (b : Nat) : Tab W32 := if b = 0 then o.bank0 else o.bank1
def Ope.setBank (o : Ope) (b : Nat) (t : Tab W32) : Ope := if b = 0 then { o with bank0 := t } else { o with bank1 := t }
def Ope.lastRead (o : Ope) (b : Nat) : Option Nat := if b = 0 then o.last0 else o.last1
def Ope.setLast (o : Ope) (b : Nat) (n : Nat) : Ope := if b = 0 then { o with last0 := some n } else { o with last1 := some n }

/-- The cell (i, j) of a bank or staged tile. -/
def cellAt (t : Tab W32) (i j : Nat) : W32 := Tab.get (fun _ => 0) t (32 * i + j)

/-- A bank from its cells. -/
def cells (f : Nat → Nat → W32) : Tab W32 := Tab.build (fun _ => 0) 1024 (fun k => f (k / 32) (k % 32))

/-! ### The bank phase (R115) -/



/-- Staging buffers in use now. -/
def Ope.stagesInUse (o : Ope) (now : Nat) : List Stage :=
  o.stages.filter (fun g => match g.freeAt with | some n => decide (now < n) | none => true)

/-- The oldest staged tile no DRP has taken. -/
def Ope.nextStage (o : Ope) : Option Stage := o.stages.find? (·.freeAt.isNone)

/-- DRPs the bank unit holds: those whose bank phase has not ended (R116). -/
def Ope.bankQueue (o : Ope) (now : Nat) : List Drp :=
  o.drps.filter (fun d => match d.d0 with | some n => decide (now < n + 32) | none => true)

/-- Drain-out buffers in use. -/
def Ope.bufsUsed (o : Ope) : Nat := (o.drps.filter (fun d => d.d0.isSome && drpMode d.opnd == 3)).length

/-- The lower bounds on d₀ that R115 gives, in its order; none where a condition has not come about. -/
def Ope.bounds (o : Ope) (d : Drp) : List (Option Nat) :=
  [ some (d.issued + 2),
    some (match o.lastD0 with | some n => n + 32 | none => 0),
    some (match o.lastRead d.bank with | some l => l + 34 | none => 0),
    some (if drpBias d.opnd then d.issued + 7 else 0),
    if drpPre d.opnd = 4 then (o.nextStage.bind (·.done)).map (· + 2) else some 0,
    if drpMode d.opnd = 3 then (if o.bufsUsed < 2 then some (o.bufAt + 2) else none) else some 0 ]

/-- The earliest d₀ (R115), if every condition has come about. -/
def Ope.earliest (o : Ope) (d : Drp) : Option Nat :=
  (o.bounds d).foldl (fun a b => match a, b with | some x, some y => some (max x y) | _, _ => none) (some 0)

/-- The first condition of R115, numbered from 1, that d₀ = w + 2 does not meet; 0 if all are met. -/
def Ope.firstUnmet (o : Ope) (d : Drp) (w : Nat) : Nat :=
  match (List.range 6).find? (fun k => match (o.bounds d)[k]? with | some (some n) => decide (w + 2 < n) | _ => true) with
  | some k => k + 1
  | none => 0

/-! ### The swap check (R125, R126) -/

/-- The oldest DRP whose d₀ is not fixed by now gives the fault of a swap: X, D2 and D3. -/
def Ope.swapEarly (o : Ope) (w : Nat) : Option (Nat × Nat × Nat) :=
  match o.drps.find? (fun d => match d.d0 with | some n => decide (w + 2 < n) | none => true) with
  | none => none
  | some d =>
    some (d.pc + o.firstUnmet d w * 2 ^ 20, w % 2 ^ 32, match d.d0 with | some n => n % 2 ^ 32 | none => 0xFFFFFFFF)

/-! ### The pairs of an MMA (R96, R97, R103, R107 to R110) -/

/-- An operand of a pair as the feeder presents it: the code and scale of position p at reduction index k. -/
def State.slice (s : State) (c base fmt : Nat) (ts turned : Bool) (k p : Nat) : Num × Num :=
  let rd := s.storeRd c base
  let l := if turned then p else k
  let m := if turned then k else p
  let scale := if ts then num32 (s.tileScale c base) else if isBlock fmt then e8m0 (rd (scaleAt fmt l)) else .fin false 1 0
  (elemNum fmt (elemCode rd fmt l m), scale)

/-- An FP32 element of an operand tile, turned or not. -/
def State.sliceWord (s : State) (c base : Nat) (turned : Bool) (k p : Nat) : W32 :=
  BitVec.ofNat 32 (elemCode (s.storeRd c base) 10 (if turned then p else k) (if turned then k else p))

/-- An INT8 element of an operand tile. -/
def State.sliceInt (s : State) (c base : Nat) (turned : Bool) (k p : Nat) : Int :=
  signedOf (elemCode (s.storeRd c base) 11 (if turned then p else k) (if turned then k else p)) 8

/-- One cell after the steps of a pair (R96, R97, R140, R142, R146), and whether an INT8 sum wrapped. -/
def State.cellPair (s : State) (c a b : Nat) (m : MmaOp) (i j : Nat) (acc : W32) : W32 × Bool :=
  let cls := opClass m.fa
  if cls = 3 then
    (List.range 16).foldl (fun r q =>
      let p := fun (k : Nat) => (s.sliceInt c a m.ta k i, s.sliceInt c b m.tb k j)
      let x := stepInt r.1 [p (2 * q), p (2 * q + 1)]
      (x.1, r.2 || x.2)) (acc, false)
  else if cls = 4 then
    ((List.range 32).foldl (fun r k =>
      let x := split32 (s.sliceWord c a m.ta k i)
      let y := split32 (s.sliceWord c b m.tb k j)
      stepFp (stepFp (stepFp r [x.1.mul y.1]) [x.1.mul y.2]) [x.2.mul y.1]) acc, false)
  else
    let r := classRank cls
    ((List.range (classSteps cls)).foldl (fun v q =>
      stepFp v ((List.range r).map (fun h =>
        let x := s.slice c a m.fa m.tsa m.ta (q * r + h) i
        let y := s.slice c b m.fb m.tsb m.tb (q * r + h) j
        prod4 x.1 x.2 y.1 y.2))) acc, false)

/-- The check of a pair's entry (R103, R104). -/
def pairOk (m : MmaOp) (x : W64) : Bool :=
  bitsOf x.toNat 20 12 == 0 && bitsOf x.toNat 52 12 == 0 &&
  fits (bitsOf x.toNat 0 20) (operandBytes m.fa) (if m.tsa then 4 else 0) 4 &&
  fits (bitsOf x.toNat 32 20) (operandBytes m.fb) (if m.tsb then 4 else 0) 4

/-- Remove the oldest outstanding instruction at pc with the opcode, and apply its completion signals. -/
def State.retire (s : State) (c e pc opc : Nat) : State :=
  let k := s.eng c e
  match k.out.find? (fun i => i.pc == pc && i.opc == opc) with
  | none => s
  | some i => ((s.setEng c e { k with out := k.out.erase i }).signals c e i.pc true i.sig0 i.sig1).tryHalt c e

/-- The cycles of a tile sequence's turning load (R108). -/
def turnCycles (m : MmaOp) : Nat := if m.ta || m.tb then classSteps (opClass m.fa) else 0

/-- A pair of the running MMA begins: its entry is popped and checked, and its steps accumulate into the active bank. A pair that begins late
delays every later step as much (R109). -/
def execMmaPairBegin (c : Fin 64) (e : Fin 2) (s : State) : Out :=
  let o := s.ope c e
  let now := (s.core c).cycles
  match o.feed, (s.eng c e).aq with
  | some f, x :: _ =>
    let m := mmaOp f.opnd
    if f.left = 0 ∨ now < f.next ∨ s.still c then .next s
    else if !pairOk m x then
      let k := s.eng c e
      let o := { o with feed := none }
      let s := s.setOpe c e (if f.fed = 0 then o else o.setLast o.active (f.next + turnCycles m - 1))
      let s := s.setEng c e { k with out := k.out.filter (fun i => !(i.pc == f.pc && i.opc == 0x10)) }
      .next (s.late c e f.pc 0x133 (min f.fed 0xFFFFFF) (x.toNat % 2 ^ 32) (x.toNat / 2 ^ 32))
    else
      let a := bitsOf x.toNat 0 20
      let b := bitsOf x.toNat 32 20
      let old := o.bank o.active
      let cell := fun (i j : Nat) => s.cellPair c a b m i j (cellAt old i j)
      let wrapped := opClass m.fa == 3 && (List.range 1024).any (fun n => (cell (n / 32) (n % 32)).2)
      let o := o.setBank o.active (cells (fun i j => (cell i j).1))
      let s := (s.popA c e).setOpe c e { o with feed := some { f with left := f.left - 1, fed := f.fed + 1, next := now + classSteps (opClass m.fa) } }
      let s := if wrapped then s.orReg (Reg.opeFlags c e) 4 else s
      .next ((s.setRegN (Reg.opeFed c e) (s.regN (Reg.opeFed c e) + 1)).pmu c 6 e (classSteps (opClass m.fa)))
  | _, _ => .next s

/-- The last read of the running MMA: it completes, and the feed unit accepts the next (R109, R110). -/
def execMmaLastRead (c : Fin 64) (e : Fin 2) (s : State) : Out :=
  let o := s.ope c e
  let now := (s.core c).cycles
  match o.feed with
  | some f =>
    let m := mmaOp f.opnd
    if f.left ≠ 0 ∨ now + 1 < f.next + turnCycles m ∨ s.still c then .next s
    else .next ((s.setOpe c e ({ o with feed := none }.setLast o.active now)).retire c e f.pc 0x10)
  | none => .next s

/-! ### DRP (R114 to R122) -/

/-- A combination refused at issue (R119, R121 to R123): ty is the shadow bank's type, mask the row mask. -/
def drpRefused (o : BitVec 40) (ty : Nat) (mask : W32) (staged : Bool) : Bool :=
  let d := drpMode o
  let a := drpRow o
  let b := drpProw o
  ((d == 1 || d == 2) && drpPre o == 3 && a != b && decide (a < b + 32 ∧ b < a + 32)) ||
  (d == 3 && ty == 2 && drpFmt o != 10) ||
  (d == 3 && drpOord o && decide (6 ≤ drpFmt o ∧ drpFmt o ≤ 8) && mask != 0) ||
  (drpPre o == 4 && !staged)

/-- The check of a DRP's entry (R119, R132). -/
def drpEntryOk (o : BitVec 40) (x : W64) : Bool :=
  bitsOf x.toNat 20 12 == 0 && bitsOf x.toNat 52 12 == 0 &&
  (if drpMode o == 3 then fits (bitsOf x.toNat 0 20) (tileBytes (drpFmt o)) (if drpOts o then 4 else 0) 4
   else bitsOf x.toNat 0 20 == 0) &&
  (if drpBias o then fits (bitsOf x.toNat 32 20) 128 0 4 else bitsOf x.toNat 32 20 == 0)

/-- The bank's type after a preload (R113). -/
def typeAfter (pre ty : Nat) : Nat := if pre = 0 then ty else if pre = 1 then 0 else 1

/-- DRP's own part at issue. Where OPE_COMBO and OPE_RANGE both apply the model takes OPE_COMBO (DESIGN CHOICE, log entry 97). -/
def drpBody (c e : Nat) (w : EngW) (t : State) : IssueRes :=
  let o := t.ope c e
  let k := t.eng c e
  let now := (t.core c).cycles
  let op := w.opnd
  if 2 ≤ (o.bankQueue now).length || k.out.any (fun i => i.opc == 0x14) then .stall .stallBusy
  else if (drpMasked op && k.pq.isEmpty) || (drpEntry op && k.aq.isEmpty) then .stall .stallQueue
  else
    let mask := if drpMasked op then k.pq.headD 0 else 0
    let x := if drpEntry op then k.aq.headD 0 else 0
    let sh := 1 - o.active
    let free := (o.stages.filter (·.freeAt.isNone)).length - (o.drps.filter (fun d => d.d0.isNone && drpPre d.opnd == 4)).length
    if drpRefused op (o.ty sh) mask (decide (1 ≤ free)) then .fault 0x132 0 0 0
    else if drpEntry op && !drpEntryOk op x then .fault 0x133 0 (x.toNat % 2 ^ 32) (x.toNat / 2 ^ 32)
    else
      let d : Drp := { pc := k.pc, opnd := op, sig0 := w.sig0, sig1 := w.sig1, bank := sh, ty := o.ty sh, entry := x,
                       mask := mask, issued := now }
      let o := { o.setTy sh (typeAfter (drpPre op) (o.ty sh)) with drps := o.drps ++ [d] }
      let t := if drpMasked op then t.popP c e else t
      let t := if drpEntry op then t.popA c e else t
      .go (t.setOpe c e o) none (engLeft w t c e 0x12 0 0 0)

def execDrp (c : Fin 64) (e : Fin 2) (w : EngW) (s : State) : Out := s.issue c e 0x12 w (insnOwn e 0x12 w) (drpBody c e w)

/-- The key of cell (r, j) of OPE e's accumulator memory. -/
def accCell (c e r j : Nat) : Nat := accKey c e (128 * r + 4 * j)

def State.accWord (s : State) (c e r j : Nat) : W32 := BitVec.ofNat 32 (s.rdLE (accCell c e r j) 4)

/-- The values a DRP drains: element (i, j) with its live mark (R122). -/
def drained (bank : Tab W32) (mask : W32) (i j : Nat) : W32 × Bool := (cellAt bank i j, !mask.getLsbD i)

/-- Rows written to accumulator memory by an overwrite or add-into (R114, R143). -/
def State.drainAcc (s : State) (c e : Nat) (d : Drp) (bank : Tab W32) : State :=
  let r0 := drpRow d.opnd
  let add := drpMode d.opnd == 2
  let val := fun (i j : Nat) =>
    let v := cellAt bank i j
    if !add then v
    else if d.ty = 2 then s.accWord c e (r0 + i) j + v else add32 (s.accWord c e (r0 + i) j) v
  let wrapped := fun (i j : Nat) =>
    let x := (s.accWord c e (r0 + i) j).toInt + (cellAt bank i j).toInt
    decide (x < -2147483648 ∨ 2147483647 < x)
  let live := (List.range 32).filter (fun i => !d.mask.getLsbD i)
  let any := fun (p : Nat → Nat → Bool) => live.any (fun i => (List.range 32).any (fun j => p i j))
  let flags := if d.ty = 2 then (if add && any wrapped then 4 else 0)
    else boolNat (any (fun i j => isNan32 (val i j))) + 2 * boolNat (any (fun i j => isInf32 (val i j)))
  let s := live.foldl (fun t i =>
    t.wr (accCell c e (r0 + i) 0) ((List.range 32).flatMap (fun j => leBytes 4 (val i j).toNat))) s
  s.orReg (Reg.opeFlags c e) flags

/-- The runs of a converted tile relative to the tile address, and whether a conversion overflowed (R119, R152, R155, R159). -/
def drainRuns (fmt : Nat) (ots oord : Bool) (us : Option (List Nat)) (v : Nat → Nat → W32 × Bool) : List Run × Bool :=
  let at_ := fun (l m : Nat) => if oord then (m, l) else (l, m)
  let val := fun (l m : Nat) => v (at_ l m).1 (at_ l m).2
  let rnd := fun (l m : Nat) => rndOf us (32 * (at_ l m).1 + (at_ l m).2)
  let live := (List.range 1024).filterMap (fun k => let x := v (k / 32) (k % 32); if x.2 then some (num32 x.1) else none)
  if isBlock fmt then
    ((List.range 32).flatMap (fun l =>
      let vs := (List.range 32).map (val l)
      if vs.all (fun x => !x.2) then []
      else
        let b := blockOut fmt vs (rnd l)
        (scaleAt fmt l, leBytes 1 b.1) :: lineRuns fmt l b.2), false)
  else
    match fmtOf fmt with
    | none => ([], false)
    | some f =>
      let lines := fun (g : Nat → Nat → Nat) =>
        (List.range 32).flatMap (fun l => lineRuns fmt l ((List.range 32).map (fun m => if (val l m).2 then some (g l m) else none)))
      if ots then
        match scaleExp live f.emax (-126) 127 with
        | none => (lines (fun _ _ => 0), false)
        | some e => (lines (fun l m => f.elemOut (rnd l m) (num32 (val l m).1) e), false)
      else if fmt = 10 then (lines (fun l m => (val l m).1.toNat), false)
      else
        (lines (fun l m => (f.narrow (rnd l m) (num32 (val l m).1)).1),
         (List.range 1024).any (fun k => (val (k / 32) (k % 32)).2 && (f.narrow (rnd (k / 32) (k % 32)) (num32 (val (k / 32) (k % 32)).1)).2))

/-- The tile scale that OTS writes (R159). -/
def otsScale (fmt : Nat) (v : Nat → Nat → W32 × Bool) : W32 :=
  let live := (List.range 1024).filterMap (fun k => let x := v (k / 32) (k % 32); if x.2 then some (num32 x.1) else none)
  match fmtOf fmt with
  | none => 0
  | some f =>
    match scaleExp live f.emax (-126) 127 with
    | none => nan32
    | some e => (Num.fin false 1 e).to32

/-- A drain-out (R119): its bytes in the store room, its flags and its draws. -/
def State.drainOut (s : State) (c e : Nat) (d : Drp) (bank : Tab W32) : State :=
  let o := d.opnd
  let v := drained bank d.mask
  let base := bitsOf d.entry.toNat 0 20
  let dr := drawList (s.reg (Reg.opeSeed c e)) 1024
  let r := drainRuns (drpFmt o) (drpOts o) (drpOord o) (if drpOsr o then some dr.2 else none) v
  let any := fun (p : W32 → Bool) => d.ty != 2 && (List.range 1024).any (fun k => let x := v (k / 32) (k % 32); x.2 && p x.1)
  let flags := boolNat (any isNan32) + 2 * boolNat (any isInf32) + 8 * boolNat r.2
  let s := s.wrRuns (storeKey c base) r.1
  let s := if drpOts o then s.wrLE (storeKey c (base - 4)) 4 (otsScale (drpFmt o) v).toNat else s
  let s := if drpOsr o then s.setReg (Reg.opeSeed c e) dr.1 else s
  s.orReg (Reg.opeFlags c e) flags

/-- The bank after a preload (R114, R162). -/
def State.preload (s : State) (c e : Nat) (d : Drp) (bank staged : Tab W32) : Tab W32 :=
  let b := bitsOf d.entry.toNat 32 20
  let bias := fun (n : Nat) => BitVec.ofNat 32 (s.rdLE (storeKey c (b + 4 * n)) 4)
  match drpPre d.opnd with
  | 0 => bank
  | 1 => []
  | 2 => cells (fun _ j => bias j)
  | 3 => cells (fun i j => s.accWord c e (drpProw d.opnd + i) j)
  | 4 => staged
  | _ => cells (fun i _ => bias i)

/-- d₀ of the oldest waiting DRP is fixed and its bank phase runs: the drain of every row, and its preload from what stood
before the drain (R115, R118, R121). -/
def State.phaseStart (s : State) (c e : Nat) : State :=
  let o := s.ope c e
  match o.drps.find? (·.d0.isNone) with
  | none => s
  | some d =>
    match o.earliest d with
    | none => s
    | some d0 =>
      if (s.core c).cycles + 2 < d0 then s
      else
        let bank := o.bank d.bank
        let staged := match o.nextStage with | some g => g.tile | none => []
        let after := s.preload c e d bank staged
        let o := { o.setBank d.bank after with
          drps := replaceFirst (·.d0.isNone) (fun x => { x with d0 := some d0 }) o.drps, lastD0 := some d0,
          stages := if drpPre d.opnd = 4 then
              replaceFirst (·.freeAt.isNone) (fun g => { g with freeAt := some (d0 + 31) }) o.stages
            else o.stages }
        let s := match drpMode d.opnd with
          | 0 => s
          | 3 => s.drainOut c e d bank
          | _ => s.drainAcc c e d bank
        (s.setOpe c e o).pmu c 7 e 32

/-- The device itself fixes d₀ two cycles before it (R115): what is due is done now. -/
def State.fixPhases (s : State) (c e : Nat) : Nat → State
  | 0 => s
  | n + 1 => (s.phaseStart c e).fixPhases c e n

def execBankPhaseStart (c : Fin 64) (e : Fin 2) (s : State) : Out := if s.still c then .next s else .next (s.phaseStart c e)

/-! ### MMA and SWAP (R106 to R113) -/

/-- MMA's own part at issue. Where OPE_COMBO and SWAP_EARLY both apply the model takes OPE_COMBO; an MMA of count 0 takes it for a pair that
R99 refuses, and makes no check of the bank's type (DESIGN CHOICE, log entry 97). -/
def mmaBody (c e : Nat) (w : EngW) (t : State) : IssueRes :=
  let m := mmaOp w.opnd
  let t := if m.swb then t.fixPhases c e 3 else t
  let o := t.ope c e
  let k := t.eng c e
  let now := (t.core c).cycles
  if o.feed.isSome then .stall .stallBusy
  else
    match k.pq with
    | [] => .stall .stallQueue
    | n :: _ =>
      let b := if m.swb then 1 - o.active else o.active
      let ty := o.ty b
      if m.refused || (n != 0 && ty != 0 && ty != classType (opClass m.fa)) then .fault 0x132 0 0 0
      else
        match (if m.swb then o.swapEarly now else none) with
        | some (x, d2, d3) => .fault 0x131 x d2 d3
        | none =>
          let o := { o with active := b }
          let t := t.popP c e
          if n = 0 then .go (t.setOpe c e o) none none
          else
            let o := if ty = 0 then o.setTy b (classType (opClass m.fa)) else o
            let f : Feed := { pc := k.pc, opnd := w.opnd, sig0 := w.sig0, sig1 := w.sig1, left := n.toNat, fed := 0, issued := now, next := now + 1 }
            .go (t.setOpe c e { o with feed := some f }) none (engLeft w t c e 0x10 0 0 0)

def execMma (c : Fin 64) (e : Fin 2) (w : EngW) (s : State) : Out :=
  s.issue c e 0x10 w (insnOwn e 0x10 w) (mmaBody c e w)

def execSwap (c : Fin 64) (e : Fin 2) (w : EngW) (s : State) : Out :=
  s.issue c e 0x11 w (insnOwn e 0x11 w) (fun t =>
    let t := t.fixPhases c e 3
    let o := t.ope c e
    if o.feed.isSome then .stall .stallBusy
    else
      match o.swapEarly (t.core c).cycles with
      | some (x, d2, d3) => .fault 0x131 x d2 d3
      | none => .go (t.setOpe c e { o with active := 1 - o.active }) none none)

/-! ### Completion of DRP -/

/-- Cycles from d₀ to a DRP's completion at the earliest (R118). -/
def drpCycles (o : BitVec 40) : Nat :=
  match drpMode o with
  | 0 => 31
  | 1 => 33
  | 2 => 34
  | _ => if drpOord o || drpOts o then 67 else 35

/-- The first DRP whose last write is visible completes (R118); of two drain-out buffers in use, one becomes free (R120). -/
def execDrpComplete (c : Fin 64) (e : Fin 2) (s : State) : Out :=
  let o := s.ope c e
  let now := (s.core c).cycles
  match o.drps.find? (fun d => match d.d0 with | some n => decide (n + drpCycles d.opnd ≤ now) && !s.still c | none => false) with
  | none => .next s
  | some d =>
    let o := { o with drps := o.drps.erase d,
                      bufAt := if drpMode d.opnd = 3 ∧ 2 ≤ o.bufsUsed then now else o.bufAt }
    .next ((s.setOpe c e o).retire c e d.pc 0x12)

/-! ### STG and SRS (R123, R124) -/

def stgFmt (o : BitVec 40) : Nat := bitsOf o.toNat 0 4

/-- The cycles that an STG reads its tile, 64 bytes in each (R123). -/
def stgCycles (o : BitVec 40) : Nat := (tileBytes (stgFmt o) + (if o.getLsbD 4 then 4 else 0) + 63) / 64

/-- STG. A second may issue while the first still reads, and reads after it; OPE_COMBO is taken before OPE_RANGE (DESIGN CHOICE, log
entry 97). -/
def execStg (c : Fin 64) (e : Fin 2) (w : EngW) (s : State) : Out :=
  let f := stgFmt w.opnd
  let sts := w.opnd.getLsbD 4
  s.issue c e 0x13 w (insnOwn e 0x13 w) (fun t =>
    let o := t.ope c e
    let k := t.eng c e
    let now := (t.core c).cycles
    if 2 ≤ (o.stagesInUse now).length then .stall .stallBusy
    else
      match k.aq with
      | [] => .stall .stallQueue
      | x :: _ =>
        if sts && decide (4 ≤ f) then .fault 0x132 0 0 0
        else if !(bitsOf x.toNat 20 44 == 0 && fits (bitsOf x.toNat 0 20) (tileBytes f) (if sts then 4 else 0) 4) then
          .fault 0x133 0 (x.toNat % 2 ^ 32) (x.toNat / 2 ^ 32)
        else
          let g : Stage := { pc := k.pc, sig0 := w.sig0, sig1 := w.sig1, opnd := w.opnd, entry := x, from_ := now }
          .go ((t.popA c e).setOpe c e { o with stages := o.stagesInUse now ++ [g] }) none (engLeft w t c e 0x13 0 0 0))

/-- The oldest STG's tile is in its staging buffer (R123, R161). -/
def execStgComplete (c : Fin 64) (e : Fin 2) (s : State) : Out :=
  let o := s.ope c e
  let before := o.stages.foldl (fun n g => max n (g.done.getD 0)) 0
  match o.stages.find? (fun g => g.done.isNone) with
  | none => .next s
  | some g =>
    if s.still c || decide ((s.core c).cycles < max g.from_ before + stgCycles g.opnd) then .next s else
    let base := bitsOf g.entry.toNat 0 20
    let f := stgFmt g.opnd
    let sts := g.opnd.getLsbD 4
    let sord := g.opnd.getLsbD 5
    let tile := cells (fun i j => if sord then s.tileWord c base f sts j i else s.tileWord c base f sts i j)
    let done := fun (g : Stage) => { g with done := some (s.core c).cycles, tile := tile }
    .next ((s.setOpe c e { o with stages := replaceFirst (·.done.isNone) done o.stages }).retire c e g.pc 0x13)

def execSrs (c : Fin 64) (e : Fin 2) (w : EngW) (s : State) : Out :=
  s.issue c e 0x14 w (insnOwn e 0x14 w) (fun t =>
    let o := t.ope c e
    let k := t.eng c e
    if !o.drps.isEmpty || k.out.any (fun i => i.opc == 0x14) then .stall .stallBusy
    else
      match k.aq with
      | [] => .stall .stallQueue
      | x :: _ =>
        let a := bitsOf x.toNat 0 20
        if !(bitsOf x.toNat 20 44 == 0 && fits a 8 0 8) then .fault 0x133 0 (x.toNat % 2 ^ 32) (x.toNat / 2 ^ 32)
        else
          let t' := if w.opnd = 0 then t.wrLE (storeKey c a) 8 (t.regN (Reg.opeSeed c e))
            else t.setRegN (Reg.opeSeed c e) (t.rdLE (storeKey c a) 8)
          .go (t'.popA c e) none (engLeft w t c e 0x14 4 0 0))

end Sys2Proof.Machine
end

