-- ==== Sys2Proof/Machine/Thin.lean ====
section
/-! DEFINITION. The thin-path engine (R164 to R176): TMV and its tiles, TLDX, TSTY and TZY. -/
namespace Sys2Proof.Machine

def State.tpe (s : State) (c : Nat) : Tpe := (s.core c).tpe
def State.setTpe (s : State) (c : Nat) (t : Tpe) : State := s.setCore c { s.core c with tpe := t }

/-- TMV's operand fields (R175): vectors, format, orientation and tile scale. -/
structure TmvOp where
  mm : Nat
  fmt : Nat
  wt : Bool
  ts : Bool
deriving DecidableEq, Repr

def tmvOp (o : BitVec 40) : TmvOp := ⟨bitsOf o.toNat 0 3 + 1, bitsOf o.toNat 3 4, o.getLsbD 7, o.getLsbD 8⟩

/-- Core cycles of one W tile (R168). -/
def TmvOp.cycles (m : TmvOp) : Nat := if 2 ≤ m.fmt ∧ m.mm ≤ 4 then 4 else 8

/-- The feed unit holds no instruction, or is in the last feed cycle of one (R172). -/
def State.tpeFree (s : State) (c : Nat) : Bool := (s.tpe c).feed.isNone && decide ((s.tpe c).busyUntil ≤ (s.core c).cycles)

/-- Formats of x and y (R169, R170). -/
def vecFmt (f : Nat) : Bool := decide (f ≤ 3) || f == 10

def execTmv (c : Fin 64) (w : EngW) (s : State) : Out :=
  s.issue c 2 0x10 w (insnOwn 2 0x10 w) (fun t =>
    let m := tmvOp w.opnd
    let k := t.eng c 2
    if !t.tpeFree c then .stall .stallBusy
    else
      match k.pq with
      | [] => .stall .stallQueue
      | n :: _ =>
        if decide (8 < m.fmt) || (m.ts && decide (4 ≤ m.fmt)) then .fault 0x142 0 0 0
        else if n = 0 then .go (t.popP c 2) none none
        else
          let now := (t.core c).cycles
          let f : Feed := { pc := k.pc, opnd := w.opnd, sig0 := w.sig0, sig1 := w.sig1, left := n.toNat, fed := 0, issued := now }
          let t := t.popP c 2
          .go (t.setTpe c { t.tpe c with feed := some f, busyUntil := now }) none (engLeft w t c 2 0x10 (n.toNat * m.cycles) 0 0))

/-- Element q of line l of a W tile with its scale. -/
def State.wElem (s : State) (c base : Nat) (m : TmvOp) (l q : Nat) : Num × Num :=
  let rd := s.storeRd c base
  (elemNum m.fmt (elemCode rd m.fmt l q),
   if m.ts then num32 (s.tileScale c base) else if isBlock m.fmt then e8m0 (rd (scaleAt m.fmt l)) else .fin false 1 0)

/-- The new y of vector v, output j of the n-tile (R167). -/
def State.thinCell (s : State) (c base : Nat) (m : TmvOp) (kt v j : Nat) (acc : W32) : W32 :=
  let x := fun (q : Nat) => num32 (Tab.get (fun _ => 0) (s.tpe c).x (1024 * v + 32 * kt + q))
  let one := Num.fin false 1 0
  if m.wt then
    stepFp acc ((List.range 32).map (fun q => let w := s.wElem c base m j q; prod4 (x q) one w.1 w.2))
  else
    (List.range 8).foldl (fun a g =>
      stepFp a ((List.range 4).map (fun q => let w := s.wElem c base m (4 * g + q) j; prod4 (x (4 * g + q)) one w.1 w.2))) acc

/-- One tile of TMV in the y buffer (R167). -/
def State.thinTile (s : State) (c base : Nat) (m : TmvOp) (kt nt : Nat) : Tab W32 :=
  let y0 := (s.tpe c).y
  (List.range m.mm).foldl (fun y v =>
    Tab.setRange (fun _ => 0) y (1024 * v + 32 * nt)
      ((List.range 32).map (fun j => s.thinCell c base m kt v j (Tab.get (fun _ => 0) y0 (1024 * v + 32 * nt + j))))) y0

/-- The check of a W tile's entry (R165, R176). -/
def wEntryOk (m : TmvOp) (x : W64) : Bool :=
  bitsOf x.toNat 20 12 == 0 && bitsOf x.toNat 37 3 == 0 && bitsOf x.toNat 45 19 == 0 &&
  fits (bitsOf x.toNat 0 20) (tileBytes m.fmt) (if m.ts then 4 else 0) 4

/-- The next tile of the running TMV begins: its entry is checked and popped, and the tile accumulates (R165, R176). DESIGN CHOICE (log entry
98): W is read as the tile begins. -/
def execTmvTileBegin (c : Fin 64) (s : State) : Out :=
  let u := s.tpe c
  let now := (s.core c).cycles
  match u.feed, (s.eng c 2).aq with
  | some f, x :: _ =>
    let m := tmvOp f.opnd
    if f.left = 0 ∨ now < u.busyUntil + 1 ∨ s.still c then .next s
    else if !wEntryOk m x then
      let k := s.eng c 2
      let s := s.setTpe c { u with feed := none }
      let s := s.setEng c 2 { k with out := k.out.filter (fun i => !(i.pc == f.pc && i.opc == 0x10)) }
      .next (s.late c 2 f.pc 0x141 (min f.fed 0xFFFFFF) (x.toNat % 2 ^ 32) (x.toNat / 2 ^ 32))
    else
      let nt := bitsOf x.toNat 40 5
      let y := s.thinTile c (bitsOf x.toNat 0 20) m (bitsOf x.toNat 32 5) nt
      let last := now + m.cycles - 1
      let s := (s.popA c 2).setTpe c { u with
        y := y, feed := some { f with left := f.left - 1, fed := f.fed + 1 }, busyUntil := last,
        land := Tab.set (fun _ => 0) u.land nt (max (Tab.get (fun _ => 0) u.land nt) (last + 6)) }
      .next ((s.setRegN (Reg.tpeFed c) (s.regN (Reg.tpeFed c) + 1)).pmu c 12 0 (32))
  | _, _ => .next s

/-- Bytes of an element of an x or y format. -/
def vecBytes (f : Nat) : Nat := elemBits f / 8

/-- Feed cycles of one vector of c k-tiles or n-tiles (R172). -/
def feedCycles (n fmt : Nat) : Nat := (32 * n * vecBytes fmt + 255) / 256

/-- TLDX (R169, R172). DESIGN CHOICE (log entry 98): x is read at issue, and TPE_COMBO is taken before TPE_RANGE. -/
def execTldx (c : Fin 64) (w : EngW) (s : State) : Out :=
  let o := w.opnd.toNat
  let m := bitsOf o 0 3
  let f := bitsOf o 3 4
  let k0 := bitsOf o 7 5
  let n := bitsOf o 12 5 + 1
  s.issue c 2 0x11 w (insnOwn 2 0x11 w) (fun t =>
    if !t.tpeFree c then .stall .stallBusy
    else
      match (t.eng c 2).aq with
      | [] => .stall .stallQueue
      | x :: _ =>
        let a := bitsOf x.toNat 0 20
        if !vecFmt f || decide (32 < k0 + n) then .fault 0x142 0 0 0
        else if !(bitsOf x.toNat 20 44 == 0 && fits a (32 * n * vecBytes f) 0 (vecBytes f)) then
          .fault 0x141 0 (x.toNat % 2 ^ 32) (x.toNat / 2 ^ 32)
        else
          let vs := (List.range (32 * n)).map (fun i => widen f (t.rdLE (storeKey c (a + vecBytes f * i)) (vecBytes f)) none)
          let last := (t.core c).cycles + feedCycles n f
          let t := t.popA c 2
          let u := t.tpe c
          .go (t.setTpe c { u with x := Tab.setRange (fun _ => 0) u.x (1024 * m + 32 * k0) vs, busyUntil := last })
            none (engLeft w t c 2 0x11 (feedCycles n f) 0 0))

/-- The first feed cycle of a TSTY or TZY on n-tiles k0 to k0 + n - 1 (R172, R173). -/
def Tpe.firstFeed (u : Tpe) (now k0 n : Nat) : Nat :=
  (List.range n).foldl (fun a i => max a (Tab.get (fun _ => 0) u.land (k0 + i) + 1)) (now + 1)

/-- One value stored by TSTY (R170): its code and whether it sets SAT. DESIGN CHOICE (log entry 98): YFMT 10 keeps the bits of a NaN that
debug access put into y. -/
def narrowTo (f : Nat) (rnd : Rnd) (v : W32) : Nat × Bool :=
  if f = 10 then (v.toNat, false)
  else match fmtOf f with
    | some g => g.narrow rnd (num32 v)
    | none => (0, false)

/-- TSTY (R170, R173). DESIGN CHOICE (log entry 98): y is stored at issue, and TPE_COMBO is taken before TPE_RANGE. -/
def execTsty (c : Fin 64) (w : EngW) (s : State) : Out :=
  let o := w.opnd.toNat
  let mm := bitsOf o 0 3 + 1
  let k0 := bitsOf o 3 5
  let n := bitsOf o 8 5 + 1
  let f := bitsOf o 13 4
  s.issue c 2 0x12 w (insnOwn 2 0x12 w) (fun t =>
    if !t.tpeFree c then .stall .stallBusy
    else
      match (t.eng c 2).aq with
      | [] => .stall .stallQueue
      | x :: _ =>
        let at_ := fun (v : Nat) => bitsOf x.toNat 0 20 + v * bitsOf x.toNat 32 20
        if !vecFmt f || decide (32 < k0 + n) then .fault 0x142 0 0 0
        else if !(bitsOf x.toNat 20 12 == 0 && bitsOf x.toNat 52 12 == 0 &&
            (List.range mm).all (fun v => fits (at_ v) (32 * n * vecBytes f) 0 (vecBytes f))) then
          .fault 0x141 0 (x.toNat % 2 ^ 32) (x.toNat / 2 ^ 32)
        else
          let t := t.popA c 2
          let u := t.tpe c
          let now := (t.core c).cycles
          let last := u.firstFeed now k0 n + mm * feedCycles n f - 1
          let val := fun (v i : Nat) => Tab.get (fun _ => 0) u.y (1024 * v + 32 * k0 + i)
          let any := fun (p : W32 → Bool) => (List.range mm).any (fun v => (List.range (32 * n)).any (fun i => p (val v i)))
          let flags := boolNat (any isNan32) + 2 * boolNat (any isInf32) + 4 * boolNat (any (fun v => (narrowTo f .rne v).2))
          let y := if w.opnd.getLsbD 17 then
              Tab.keep (fun k => !(decide (k / 1024 < mm) && decide (32 * k0 ≤ k % 1024 ∧ k % 1024 < 32 * (k0 + n)))) u.y
            else u.y
          let t := t.setTpe c { u with y := y, busyUntil := last }
          let t := (List.range mm).foldl (fun t v =>
            t.wr (storeKey c (at_ v)) ((List.range (32 * n)).flatMap (fun i => leBytes (vecBytes f) (narrowTo f .rne (val v i)).1))) t
          .go (t.orReg (Reg.tpeFlags c) flags) none (engLeft w t c 2 0x12 (last + 2 - now) 0 0))

def execTzy (c : Fin 64) (w : EngW) (s : State) : Out :=
  let k0 := bitsOf w.opnd.toNat 0 5
  let n := bitsOf w.opnd.toNat 5 5 + 1
  s.issue c 2 0x13 w (insnOwn 2 0x13 w) (fun t =>
    if !t.tpeFree c then .stall .stallBusy
    else if 32 < k0 + n then .fault 0x142 0 0 0
    else
      let u := t.tpe c
      let now := (t.core c).cycles
      let last := u.firstFeed now k0 n
      let y := Tab.keep (fun k => !(decide (32 * k0 ≤ k % 1024 ∧ k % 1024 < 32 * (k0 + n)))) u.y
      .go (t.setTpe c { u with y := y, busyUntil := last }) none (engLeft w t c 2 0x13 (last - now) 0 0))

end Sys2Proof.Machine
end

