-- ==== Sys2Proof/Machine/Takes.lean ====
section
/-! DEFINITION. Peg takes (R276, R277): an engine asks for a take once its instruction meets every other condition for issue, and a grant
that reaches it lets the instruction issue. -/
namespace Sys2Proof.Machine

/-- The issue of an instruction word by engine e, 0 to 4. -/
def State.runEngWord (s : State) (c : Fin 64) (e : Nat) (x : Nat) : Out :=
  let w := engWOf x
  let opc := bitsOf x 0 8
  if h : e < 5 then
    match opc with
    | 1 => execNop c ⟨e, h⟩ w s
    | 2 => execLoop c ⟨e, h⟩ w s
    | 3 => execJump c ⟨e, h⟩ w s
    | 4 => execBrq c ⟨e, h⟩ w s
    | 5 => execSettle c ⟨e, h⟩ w s
    | 6 => execHalt c ⟨e, h⟩ w s
    | _ =>
      if h2 : e < 2 then
        match opc with
        | 0x10 => execMma c ⟨e, h2⟩ w s
        | 0x11 => execSwap c ⟨e, h2⟩ w s
        | 0x12 => execDrp c ⟨e, h2⟩ w s
        | 0x13 => execStg c ⟨e, h2⟩ w s
        | _ => execSrs c ⟨e, h2⟩ w s
      else if e = 2 then
        match opc with
        | 0x10 => execTmv c w s
        | 0x11 => execTldx c w s
        | 0x12 => execTsty c w s
        | _ => execTzy c w s
      else if e = 3 then
        match opc with
        | 0x10 => execVld c w s
        | 0x11 => execVst c w s
        | 0x12 => execVarith c w s
        | 0x13 => execVcmp c w s
        | 0x14 => execVsel c w s
        | 0x15 => execVred c w s
        | 0x16 => execVperm c w s
        | 0x17 => execVcvt c w s
        | 0x18 => execVsfu c w s
        | 0x19 => execVmovi c w s
        | 0x1A => execVbcq c w s
        | _ => execVseed c w s
      else execStrm c w s
  else .next s

/-- The issue of the instruction at engine e's program counter. A control-core instruction with a peg wait is PWAIT. -/
def State.runWord (s : State) (c : Fin 64) (e : Nat) : Out :=
  match iqAt (s.eng c e).iq (s.eng c e).pc with
  | none => .next s
  | some x =>
    if e = 5 then execPwait c ⟨BitVec.ofNat 1 (bitsOf x 25 1), BitVec.ofNat 13 (bitsOf x 12 13), BitVec.ofNat 12 (bitsOf x 0 12)⟩ s
    else s.runEngWord c e x

/-- The engine with the grant of a take. -/
def State.withGrant (s : State) (c e p : Nat) : State := s.setEng c e { s.eng c e with grant := some p }

/-- Would the instruction issue, or take its own fault, were the take granted now: does it meet every other condition (R276)? A stall leaves
the grant where it is. For STRM these are the conditions of cycle a of its acceptance window (R228). -/
def State.takeReady (s : State) (c : Fin 64) (e p : Nat) : Bool :=
  let g := s.withGrant c e p
  match iqAt (s.eng c e).iq (s.eng c e).pc with
  | none => false
  | some x =>
    if e = 4 ∧ bitsOf x 0 8 = 0x10 then g.windowReady c (engWOf x)
    else match g.runWord c e with
      | .next t => (t.eng c e).grant.isNone
      | _ => false

/-- A take request reaches the peg unit, the engine's instruction meeting every other condition (R276, R279). It is granted in this network
cycle when the peg is full and live and no earlier request waits. -/
def execPegTakeRequest (c : Fin 64) (e : Fin 6) (s : State) : Out :=
  match s.pegWaits c e with
  | (p, true) :: _ =>
    if !s.reached c e || (s.eng c e).grant.isSome || s.pegs.takes.contains (Watch.mk p c e) || s.pegs.grants.contains (Watch.mk p c e) ||
       !s.pegFree p || !s.takeReady c e p then
      .next s
    else
      let s := s.pegScreen p
      let w := s.pegWord p
      if pegState w ≠ 0 then .next (s.waitFault c e p (pegState w))
      else
        let s := { s with pegs := { s.pegs with takes := s.pegs.takes ++ [Watch.mk p c e] } }
        .next ((s.stirWaiters p).serve p)
  | _ => .next s

/-- The oldest grant on its way to the engine arrives: the instruction issues with its take, at once or, under a debug hold, when the hold
lets it; or the grant goes back as a return (R276, R277). -/
def execPegGrant (c : Fin 64) (e : Fin 6) (s : State) : Out :=
  match s.pegs.grants.find? (fun x => x.core == c.val && x.eng == e.val) with
  | none => .next s
  | some w =>
    let s := ({ s with pegs := { s.pegs with grants := s.pegs.grants.erase w } }).stirNext c
    if (s.eng c e).waits && (s.eng c e).grant.isNone && (s.pegWaits c e).head? == some (w.peg, true) then
      (s.withGrant c e w.peg).runWord c e
    else .next { s with pegs := { s.pegs with returns := s.pegs.returns ++ [w.peg] } }

end Sys2Proof.Machine
end

