-- ==== Sys2Proof/Machine/Dispatch.lean ====
section
/-! DEFINITION. Which meaning each command has: one arm per constructor, in the order of spec/opcode_table.json. -/
namespace Sys2Proof.Machine

def exec (i : Instr) (s : State) : Host.Outcome State Fault Refusal :=
  match i with
  | .instructionFetch c => Sys2Proof.Machine.execInstructionFetch c s
  | .nop c e w => Sys2Proof.Machine.execNop c e w s
  | .loop c e w => Sys2Proof.Machine.execLoop c e w s
  | .jump c e w => Sys2Proof.Machine.execJump c e w s
  | .brq c e w => Sys2Proof.Machine.execBrq c e w s
  | .settle c e w => Sys2Proof.Machine.execSettle c e w s
  | .halt c e w => Sys2Proof.Machine.execHalt c e w s
  | .instructionComplete c e n => Sys2Proof.Machine.execInstructionComplete c e n s
  | .alu c x => Sys2Proof.Machine.execAlu c x s
  | .addi c x => Sys2Proof.Machine.execAddi c x s
  | .andi c x => Sys2Proof.Machine.execAndi c x s
  | .ori c x => Sys2Proof.Machine.execOri c x s
  | .xori c x => Sys2Proof.Machine.execXori c x s
  | .slti c x => Sys2Proof.Machine.execSlti c x s
  | .sltiu c x => Sys2Proof.Machine.execSltiu c x s
  | .shi c x => Sys2Proof.Machine.execShi c x s
  | .lui c x => Sys2Proof.Machine.execLui c x s
  | .lih c x => Sys2Proof.Machine.execLih c x s
  | .lit c x => Sys2Proof.Machine.execLit c x s
  | .lb c x => Sys2Proof.Machine.execLb c x s
  | .lbu c x => Sys2Proof.Machine.execLbu c x s
  | .lh c x => Sys2Proof.Machine.execLh c x s
  | .lhu c x => Sys2Proof.Machine.execLhu c x s
  | .lw c x => Sys2Proof.Machine.execLw c x s
  | .lwu c x => Sys2Proof.Machine.execLwu c x s
  | .ld c x => Sys2Proof.Machine.execLd c x s
  | .sb c x => Sys2Proof.Machine.execSb c x s
  | .sh c x => Sys2Proof.Machine.execSh c x s
  | .sw c x => Sys2Proof.Machine.execSw c x s
  | .sd c x => Sys2Proof.Machine.execSd c x s
  | .loadDataReturn c n => Sys2Proof.Machine.execLoadDataReturn c n s
  | .ctlResultReady c g => Sys2Proof.Machine.execCtlResultReady c g s
  | .beq c x => Sys2Proof.Machine.execBeq c x s
  | .bne c x => Sys2Proof.Machine.execBne c x s
  | .blt c x => Sys2Proof.Machine.execBlt c x s
  | .bge c x => Sys2Proof.Machine.execBge c x s
  | .bltu c x => Sys2Proof.Machine.execBltu c x s
  | .bgeu c x => Sys2Proof.Machine.execBgeu c x s
  | .jal c x => Sys2Proof.Machine.execJal c x s
  | .jalr c x => Sys2Proof.Machine.execJalr c x s
  | .ctlLoop c x => Sys2Proof.Machine.execCtlLoop c x s
  | .pusha c x => Sys2Proof.Machine.execPusha c x s
  | .pushp c x => Sys2Proof.Machine.execPushp c x s
  | .tadd c x => Sys2Proof.Machine.execTadd c x s
  | .twait c x => Sys2Proof.Machine.execTwait c x s
  | .ttake c x => Sys2Proof.Machine.execTtake c x s
  | .trd c x => Sys2Proof.Machine.execTrd c x s
  | .pwait c x => Sys2Proof.Machine.execPwait c x s
  | .waitg c x => Sys2Proof.Machine.execWaitg c x s
  | .rds c x => Sys2Proof.Machine.execRds c x s
  | .ctlHalt c rest => Sys2Proof.Machine.execCtlHalt c rest s
  | .storeRetire c n => Sys2Proof.Machine.execStoreRetire c n s
  | .mma c e w => Sys2Proof.Machine.execMma c e w s
  | .mmaPairBegin c e => Sys2Proof.Machine.execMmaPairBegin c e s
  | .mmaLastRead c e => Sys2Proof.Machine.execMmaLastRead c e s
  | .swap c e w => Sys2Proof.Machine.execSwap c e w s
  | .drp c e w => Sys2Proof.Machine.execDrp c e w s
  | .bankPhaseStart c e => Sys2Proof.Machine.execBankPhaseStart c e s
  | .drpComplete c e => Sys2Proof.Machine.execDrpComplete c e s
  | .stg c e w => Sys2Proof.Machine.execStg c e w s
  | .stgComplete c e => Sys2Proof.Machine.execStgComplete c e s
  | .srs c e w => Sys2Proof.Machine.execSrs c e w s
  | .tmv c w => Sys2Proof.Machine.execTmv c w s
  | .tmvTileBegin c => Sys2Proof.Machine.execTmvTileBegin c s
  | .tldx c w => Sys2Proof.Machine.execTldx c w s
  | .tsty c w => Sys2Proof.Machine.execTsty c w s
  | .tzy c w => Sys2Proof.Machine.execTzy c w s
  | .vld c w => Sys2Proof.Machine.execVld c w s
  | .vst c w => Sys2Proof.Machine.execVst c w s
  | .varith c w => Sys2Proof.Machine.execVarith c w s
  | .vcmp c w => Sys2Proof.Machine.execVcmp c w s
  | .vsel c w => Sys2Proof.Machine.execVsel c w s
  | .vred c w => Sys2Proof.Machine.execVred c w s
  | .vperm c w => Sys2Proof.Machine.execVperm c w s
  | .vcvt c w => Sys2Proof.Machine.execVcvt c w s
  | .vsfu c w => Sys2Proof.Machine.execVsfu c w s
  | .vmovi c w => Sys2Proof.Machine.execVmovi c w s
  | .vbcq c w => Sys2Proof.Machine.execVbcq c w s
  | .vseed c w => Sys2Proof.Machine.execVseed c w s
  | .vecResultReady c v => Sys2Proof.Machine.execVecResultReady c v s
  | .strmWindowOpen c w => Sys2Proof.Machine.execStrmWindowOpen c w s
  | .strm c w => Sys2Proof.Machine.execStrm c w s
  | .streamRequestStart c slot => Sys2Proof.Machine.execStreamRequestStart c slot s
  | .listPieceRead c slot => Sys2Proof.Machine.execListPieceRead c slot s
  | .transferArrive c n => Sys2Proof.Machine.execTransferArrive c n s
  | .tileCommit c slot => Sys2Proof.Machine.execTileCommit c slot s
  | .transferRetire c n => Sys2Proof.Machine.execTransferRetire c n s
  | .streamComplete c slot => Sys2Proof.Machine.execStreamComplete c slot s
  | .suspensionResume who => Sys2Proof.Machine.execSuspensionResume who s
  | .suspensionAbort who cause pkg => Sys2Proof.Machine.execSuspensionAbort who cause pkg s
  | .strSplitWrite c path v => Sys2Proof.Machine.execStrSplitWrite c path v s
  | .pegFill peg => Sys2Proof.Machine.execPegFill peg s
  | .pegWatch c e second => Sys2Proof.Machine.execPegWatch c e second s
  | .pegReport c e => Sys2Proof.Machine.execPegReport c e s
  | .pegTakeRequest c e => Sys2Proof.Machine.execPegTakeRequest c e s
  | .pegGrant c e => Sys2Proof.Machine.execPegGrant c e s
  | .pegReturn peg => Sys2Proof.Machine.execPegReturn peg s
  | .pegArmApply c => Sys2Proof.Machine.execPegArmApply c s
  | .pegRead c => Sys2Proof.Machine.execPegRead c s
  | .pegInit k path v => Sys2Proof.Machine.execPegInit k path v s
  | .pegAbandon k path v => Sys2Proof.Machine.execPegAbandon k path v s
  | .lanternFire c => Sys2Proof.Machine.execLanternFire c s
  | .run c path engines => Sys2Proof.Machine.execRun c path engines s
  | .stop c path engines => Sys2Proof.Machine.execStop c path engines s
  | .tallyClear c path => Sys2Proof.Machine.execTallyClear c path s
  | .queueClear c path => Sys2Proof.Machine.execQueueClear c path s
  | .coreFreqChange c path v => Sys2Proof.Machine.execCoreFreqChange c path v s
  | .coreFreqRelockDone c => Sys2Proof.Machine.execCoreFreqRelockDone c s
  | .registerWrite path off size v => Sys2Proof.Machine.execRegisterWrite path off size v s
  | .translationWalk r => Sys2Proof.Machine.execTranslationWalk r s
  | .tierAccess r => Sys2Proof.Machine.execTierAccess r s
  | .memInval path v => Sys2Proof.Machine.execMemInval path v s
  | .memInvalDone => Sys2Proof.Machine.execMemInvalDone s
  | .pageMove space va cellar tier frame => Sys2Proof.Machine.execPageMove space va cellar tier frame s
  | .memRetrain cellar path v => Sys2Proof.Machine.execMemRetrain cellar path v s
  | .retrainDone cellar result heldUs => Sys2Proof.Machine.execRetrainDone cellar result heldUs s
  | .attZero k path v => Sys2Proof.Machine.execAttZero k path v s
  | .attZeroDone k => Sys2Proof.Machine.execAttZeroDone k s
  | .updateCommand cellar bytes => Sys2Proof.Machine.execUpdateCommand cellar bytes s
  | .passStart cellar => Sys2Proof.Machine.execPassStart cellar s
  | .cveRun cellar e => Sys2Proof.Machine.execCveRun cellar e s
  | .passComplete cellar => Sys2Proof.Machine.execPassComplete cellar s
  | .ruleSlotEnable cellar slot path v => Sys2Proof.Machine.execRuleSlotEnable cellar slot path v s
  | .cveAdd cellar e x => Sys2Proof.Machine.execCveAdd cellar e x s
  | .cveSub cellar e x => Sys2Proof.Machine.execCveSub cellar e x s
  | .cveMul cellar e x => Sys2Proof.Machine.execCveMul cellar e x s
  | .cveFma cellar e x => Sys2Proof.Machine.execCveFma cellar e x s
  | .cveFnma cellar e x => Sys2Proof.Machine.execCveFnma cellar e x s
  | .cveMin cellar e x => Sys2Proof.Machine.execCveMin cellar e x s
  | .cveMax cellar e x => Sys2Proof.Machine.execCveMax cellar e x s
  | .cveAbs cellar e x => Sys2Proof.Machine.execCveAbs cellar e x s
  | .cveNeg cellar e x => Sys2Proof.Machine.execCveNeg cellar e x s
  | .cveSgn cellar e x => Sys2Proof.Machine.execCveSgn cellar e x s
  | .cveSqrt cellar e x => Sys2Proof.Machine.execCveSqrt cellar e x s
  | .cveRsqrt cellar e x => Sys2Proof.Machine.execCveRsqrt cellar e x s
  | .cveRcp cellar e x => Sys2Proof.Machine.execCveRcp cellar e x s
  | .cveCmp cellar e x => Sys2Proof.Machine.execCveCmp cellar e x s
  | .cveSel cellar e x => Sys2Proof.Machine.execCveSel cellar e x s
  | .cveSum cellar e x => Sys2Proof.Machine.execCveSum cellar e x s
  | .cveBcast cellar e x => Sys2Proof.Machine.execCveBcast cellar e x s
  | .cveLds cellar e x => Sys2Proof.Machine.execCveLds cellar e x s
  | .cveSts cellar e x => Sys2Proof.Machine.execCveSts cellar e x s
  | .cveMov cellar e x => Sys2Proof.Machine.execCveMov cellar e x s
  | .cveEnd cellar e x => Sys2Proof.Machine.execCveEnd cellar e x s
  | .frameReceive g corrected uncorrectable bytes => Sys2Proof.Machine.execFrameReceive g corrected uncorrectable bytes s
  | .replayTimeout g => Sys2Proof.Machine.execReplayTimeout g s
  | .packetForward g => Sys2Proof.Machine.execPacketForward g s
  | .write n => Sys2Proof.Machine.execWrite n s
  | .add n => Sys2Proof.Machine.execAdd n s
  | .read n => Sys2Proof.Machine.execRead n s
  | .readData n => Sys2Proof.Machine.execReadData n s
  | .ack n => Sys2Proof.Machine.execAck n s
  | .nak n => Sys2Proof.Machine.execNak n s
  | .ctrl n => Sys2Proof.Machine.execCtrl n s
  | .linkstate n pkg g down seq => Sys2Proof.Machine.execLinkstate n pkg g down seq s
  | .e2eTimeout n => Sys2Proof.Machine.execE2eTimeout n s
  | .backoffExpire n => Sys2Proof.Machine.execBackoffExpire n s
  | .e2eLimit n => Sys2Proof.Machine.execE2eLimit n s
  | .portLossOfLock g good => Sys2Proof.Machine.execPortLossOfLock g good s
  | .portNarrowDone g width => Sys2Proof.Machine.execPortNarrowDone g width s
  | .portNarrowTimeout g => Sys2Proof.Machine.execPortNarrowTimeout g s
  | .portUpHoldExpire g => Sys2Proof.Machine.execPortUpHoldExpire g s
  | .portAutoRetry g => Sys2Proof.Machine.execPortAutoRetry g s
  | .portRetrain g path v => Sys2Proof.Machine.execPortRetrain g path v s
  | .portRetrainDone g lanes width reversed peer peerG shape => Sys2Proof.Machine.execPortRetrainDone g lanes width reversed peer peerG shape s
  | .syncSend g => Sys2Proof.Machine.execSyncSend g s
  | .sync n => Sys2Proof.Machine.execSync n s
  | .timHoldover => Sys2Proof.Machine.execTimHoldover s
  | .timMasterLost => Sys2Proof.Machine.execTimMasterLost s
  | .sendUnitStart ch => Sys2Proof.Machine.execSendUnitStart ch s
  | .sendRound ch => Sys2Proof.Machine.execSendRound ch s
  | .contrib n => Sys2Proof.Machine.execContrib n s
  | .redDeadline ch => Sys2Proof.Machine.execRedDeadline ch s
  | .redGrace ch => Sys2Proof.Machine.execRedGrace ch s
  | .repeatNotice n => Sys2Proof.Machine.execRepeatNotice n s
  | .normContribution ch => Sys2Proof.Machine.execNormContribution ch s
  | .scalar n => Sys2Proof.Machine.execScalar n s
  | .scalarResult n => Sys2Proof.Machine.execScalarResult n s
  | .distSendStart n => Sys2Proof.Machine.execDistSendStart n s
  | .dist n => Sys2Proof.Machine.execDist n s
  | .distDone n => Sys2Proof.Machine.execDistDone n s
  | .channelAbort ch path => Sys2Proof.Machine.execChannelAbort ch path s
  | .channelStepSeq ch path v => Sys2Proof.Machine.execChannelStepSeq ch path v s
  | .jobPoll prod0 entries0 prod3 entries3 cons1 cons2 => Sys2Proof.Machine.execJobPoll prod0 entries0 prod3 entries3 cons1 cons2 s
  | .ringEnable r path v => Sys2Proof.Machine.execRingEnable r path v s
  | .load d => Sys2Proof.Machine.execLoad d s
  | .start => Sys2Proof.Machine.execStart s
  | .pause => Sys2Proof.Machine.execPause s
  | .resume => Sys2Proof.Machine.execResume s
  | .teardown => Sys2Proof.Machine.execTeardown s
  | .teardownFinish space => Sys2Proof.Machine.execTeardownFinish space s
  | .export_ => Sys2Proof.Machine.execExport s
  | .request space input => Sys2Proof.Machine.execRequest space input s
  | .stepOpen => Sys2Proof.Machine.execStepOpen s
  | .reqPass => Sys2Proof.Machine.execReqPass s
  | .stepClose space => Sys2Proof.Machine.execStepClose space s
  | .jobStepLate space => Sys2Proof.Machine.execJobStepLate space s
  | .jobRootLost space => Sys2Proof.Machine.execJobRootLost space s
  | .requestExpire space slot => Sys2Proof.Machine.execRequestExpire space slot s
  | .mailboxArrival space => Sys2Proof.Machine.execMailboxArrival space s
  | .bubbleAt space => Sys2Proof.Machine.execBubbleAt space s
  | .reqOut space => Sys2Proof.Machine.execReqOut space s
  | .place space frames => Sys2Proof.Machine.execPlace space frames s
  | .mailboxNote space => Sys2Proof.Machine.execMailboxNote space s
  | .powerAndClocks path rail pll => Sys2Proof.Machine.execPowerAndClocks path rail pll s
  | .fuseRead path bad d => Sys2Proof.Machine.execFuseRead path bad d s
  | .selfTest path d tests => Sys2Proof.Machine.execSelfTest path d tests s
  | .yieldMap path => Sys2Proof.Machine.execYieldMap path s
  | .spares path => Sys2Proof.Machine.execSpares path s
  | .islandClocks path bad => Sys2Proof.Machine.execIslandClocks path bad s
  | .dieToDieLinks path narrow bad => Sys2Proof.Machine.execDieToDieLinks path narrow bad s
  | .tier1 path bad => Sys2Proof.Machine.execTier1 path bad s
  | .tier2 path spd bad => Sys2Proof.Machine.execTier2 path spd bad s
  | .fabric path => Sys2Proof.Machine.execFabric path s
  | .timeBase path => Sys2Proof.Machine.execTimeBase path s
  | .identityAndMeasurement path ok => Sys2Proof.Machine.execIdentityAndMeasurement path ok s
  | .firmwareLoad path => Sys2Proof.Machine.execFirmwareLoad path s
  | .coreFirmware path noAck => Sys2Proof.Machine.execCoreFirmware path noAck s
  | .ready path => Sys2Proof.Machine.execReady path s
  | .buStepEnd => Sys2Proof.Machine.execBuStepEnd s
  | .buStepLimit => Sys2Proof.Machine.execBuStepLimit s
  | .spareRepoint path v => Sys2Proof.Machine.execSpareRepoint path v s
  | .firmwareChunk src => Sys2Proof.Machine.execFirmwareChunk src s
  | .firmwarePull n image first count => Sys2Proof.Machine.execFirmwarePull n image first count s
  | .faultRecordMove die => Sys2Proof.Machine.execFaultRecordMove die s
  | .recoveryStart => Sys2Proof.Machine.execRecoveryStart s
  | .fltReset path v => Sys2Proof.Machine.execFltReset path v s
  | .resetComplete => Sys2Proof.Machine.execResetComplete s
  | .rewindDone space => Sys2Proof.Machine.execRewindDone space s
  | .fltHeartbeat path => Sys2Proof.Machine.execFltHeartbeat path s
  | .supFault core => Sys2Proof.Machine.execSupFault core s
  | .fltBufAck path count => Sys2Proof.Machine.execFltBufAck path count s
  | .chkCompute path poly => Sys2Proof.Machine.execChkCompute path poly s
  | .chkCompare path poly => Sys2Proof.Machine.execChkCompare path poly s
  | .chkDone => Sys2Proof.Machine.execChkDone s
  | .d2dLink near far module lost => Sys2Proof.Machine.execD2dLink near far module lost s
  | .quote path space job => Sys2Proof.Machine.execQuote path space job s
  | .quoteDone => Sys2Proof.Machine.execQuoteDone s
  | .secNonceWrite path j v => Sys2Proof.Machine.execSecNonceWrite path j v s
  | .secSvnRaise path image svn => Sys2Proof.Machine.execSecSvnRaise path image svn s
  | .dbgHalt path engines => Sys2Proof.Machine.execDbgHalt path engines s
  | .dbgResume path engines => Sys2Proof.Machine.execDbgResume path engines s
  | .dbgStep path engines => Sys2Proof.Machine.execDbgStep path engines s
  | .dbgClrfault path engines => Sys2Proof.Machine.execDbgClrfault path engines s
  | .dbgCatchWrite path v => Sys2Proof.Machine.execDbgCatchWrite path v s
  | .dbgRegRead path => Sys2Proof.Machine.execDbgRegRead path s
  | .dbgRegWrite path v => Sys2Proof.Machine.execDbgRegWrite path v s
  | .dbgPegRead path => Sys2Proof.Machine.execDbgPegRead path s
  | .dbgPegWrite path v => Sys2Proof.Machine.execDbgPegWrite path v s
  | .dbgMemRead path => Sys2Proof.Machine.execDbgMemRead path s
  | .dbgMemWrite path v => Sys2Proof.Machine.execDbgMemWrite path v s
  | .dbgTraceClear path => Sys2Proof.Machine.execDbgTraceClear path s
  | .dbgTraceMark path v => Sys2Proof.Machine.execDbgTraceMark path v s
  | .bypass => Sys2Proof.Machine.execBypass s
  | .idcode => Sys2Proof.Machine.execIdcode s
  | .samplePreload sampled preload => Sys2Proof.Machine.execSamplePreload sampled preload s
  | .extest chain => Sys2Proof.Machine.execExtest chain s
  | .clamp => Sys2Proof.Machine.execClamp s
  | .highz => Sys2Proof.Machine.execHighz s
  | .dbgacc dr => Sys2Proof.Machine.execDbgacc dr s
  | .smbIdentity => Sys2Proof.Machine.execSmbIdentity s
  | .smbState => Sys2Proof.Machine.execSmbState s
  | .smbTemperatures dies => Sys2Proof.Machine.execSmbTemperatures dies s
  | .smbPowers powers => Sys2Proof.Machine.execSmbPowers powers s
  | .smbLatestFault => Sys2Proof.Machine.execSmbLatestFault s
  | .pwrOkRise straps => Sys2Proof.Machine.execPwrOkRise straps s
  | .pwrOkFall => Sys2Proof.Machine.execPwrOkFall s
  | .resetNFall heldNs => Sys2Proof.Machine.execResetNFall heldNs s
  | .resetNRise => Sys2Proof.Machine.execResetNRise s
  | .thermalTrip => Sys2Proof.Machine.execThermalTrip s
  | .refclkLost clock => Sys2Proof.Machine.execRefclkLost clock s
  | .railExcursion rail mv us => Sys2Proof.Machine.execRailExcursion rail mv us s
  | .powerCapEval energy dies => Sys2Proof.Machine.execPowerCapEval energy dies s
  | .stewardLinkReset => Sys2Proof.Machine.execStewardLinkReset s
  | .pegInitDone k => Sys2Proof.Machine.execPegInitDone k s
  | .pegSweepDone k => Sys2Proof.Machine.execPegSweepDone k s
  | .dieInternalFault die d0 d1 => Sys2Proof.Machine.execDieInternalFault die d0 d1 s
  | .refclkReturn b => Sys2Proof.Machine.execRefclkReturn b s
  | .busMasterEnable => Sys2Proof.Machine.execBusMasterEnable s
  | .testLogicReset => Sys2Proof.Machine.execTestLogicReset s

end Sys2Proof.Machine
end

