-- ==== Sys2Proof/Safety.lean ====
section
/-! DEFINITION. The terms in which statements are made: the canonical form of the state's memory and registers, what a
command leaves alone, and when an engine is at an instruction that may issue. -/
namespace Sys2Proof.Machine

/-- Memory and the register file are in their canonical form. -/
def State.Canonical (s : State) : Prop := Memory.wf s.mem = true ∧ Tab.wf regReset s.regs = true

/-- Every byte of memory reads as before, but for those that the test names. -/
def MemOnly (s t : State) (touched : Nat → Prop) : Prop := ∀ k, ¬ touched k → t.rd8 k = s.rd8 k

/-- Every register of the setup space reads as before, but for those that the test names. -/
def RegsOnly (s t : State) (touched : Nat → Prop) : Prop := ∀ off, ¬ touched off → t.reg off = s.reg off

/-- The bytes from key k on, n of them. -/
def Within (k n x : Nat) : Prop := k ≤ x ∧ x < k + n

/-- The debug counters of core c (R595). -/
def PmuOf (c off : Nat) : Prop := ∃ i, i < 4 ∧ off = Reg.pmuCnt c i

/-- A core other than c holds what it held. -/
def OtherCores (s t : State) (c : Nat) : Prop := ∀ k, k ≠ c → t.core k = s.core k

/-- Nothing outside the cores, the counters and the trace buffer has changed. -/
def CoreOnly (s t : State) : Prop := t = { s with cores := t.cores, regs := t.regs, trace := t.trace }

/-- As CoreOnly, and memory may have changed. -/
def CoreMem (s t : State) : Prop := t = { s with cores := t.cores, regs := t.regs, trace := t.trace, mem := t.mem }

/-- Engine e of core c runs, no hold, held clock, reset or pending HALT keeps it, this core cycle is one it may issue in, its program
counter lies in the code region and this is the instruction queued there (R41, R49 to R52, R66, R527, R585). -/
def State.atWord (s : State) (c e word : Nat) : Bool :=
  s.able c e && decide ((s.eng c e).next ≤ (s.core c).cycles) &&
  (s.eng c e).out.all (fun i => i.opc != haltOpc e) && s.inCode c (s.eng c e).pc &&
  iqAt (s.eng c e).iq (s.eng c e).pc == some word

/-- As atWord for an engine instruction of this opcode, with no reserved field and its waits met (R57, R60). -/
def State.mayIssue (s : State) (c e opc : Nat) (w : EngW) : Bool :=
  s.atWord c e (engEnc w opc) && engFieldsOk w && s.waitsOk c e w

/-- An engine instruction's issue after its own part has left the state t: its takes are made, the program goes on, and its
signals apply (R60, R63). -/
def State.issued (s t : State) (c e : Nat) (w : EngW) (target : Option Nat) (left : Option Issued) : State :=
  (t.takeWaits c e w).finish c e (s.eng c e).pc w.sig0 w.sig1 target left

/-- A control-core instruction's issue after its own part has left the state t. -/
def State.ctlIssued (s t : State) (c : Nat) (target : Option Nat) (left : Option Issued) : State :=
  t.finish c 5 (s.eng c 5).pc 0 0 target left

/-- The control core of core c has issued an instruction that touches nothing but its own engine and its registers: the other cores,
the core's other engines, tallies, accesses in flight, all memory and every register of the setup space but the core's debug
counters are as before. -/
def CtlFrame (s t : State) (c : Nat) : Prop :=
  CoreOnly s t ∧ OtherCores s t c ∧ RegsOnly s t (PmuOf c) ∧ (∀ e, e ≠ 5 → t.eng c e = s.eng c e) ∧
  t.core c = { s.core c with engs := (t.core c).engs, g := (t.core c).g, gpend := (t.core c).gpend,
                             stirred := (t.core c).stirred, steps := (t.core c).steps, jumps := (t.core c).jumps }

/-- The program of engine e went on in sequence, with the back edges of the loops that end here (R53, R68). A back edge that refetches
discards the instruction queue, which the loops note. -/
def InSequence (s t : State) (c e : Nat) : Prop :=
  (t.eng c e).st = .issuing ∧
  (t.eng c e).pc = (advance (insnSize e) (s.eng c e).pc (s.eng c e).loops).2.1 ∧
  (t.eng c e).loops =
    (if (s.eng c e).refetches e then loseLoops true (advance (insnSize e) (s.eng c e).pc (s.eng c e).loops).1
     else (advance (insnSize e) (s.eng c e).pc (s.eng c e).loops).1)

/-- The program of engine e went to an address, and its instruction queue is discarded (R52). -/
def WentTo (s t : State) (c e target : Nat) : Prop :=
  (t.eng c e).st = .issuing ∧ (t.eng c e).pc = target ∧ (t.eng c e).iq = [] ∧ (t.eng c e).loops = loseLoops false (s.eng c e).loops

/-- Control-core register gd holds v, pending for lat cycles, and every other register is as before; g0 discards it (R79, R86). -/
def GWritten (s t : State) (c gd : Nat) (v : W64) (lat : Nat) : Prop :=
  (∀ n, t.g c n = if n = gd ∧ n ≠ 0 then v else s.g c n) ∧
  (gd ≠ 0 → t.gpend c gd = .fixed ((s.core c).cycles + lat)) ∧ (∀ n, n ≠ gd → t.gpend c n = s.gpend c n)

/-- A control-core instruction computed v into gd, readable after lat cycles, and did nothing else. -/
def CtlComputes (s t : State) (c gd : Nat) (v : W64) (lat : Nat) : Prop :=
  GWritten s t c gd v lat ∧ InSequence s t c 5 ∧ CtlFrame s t c

/-- Every control-core register is as before. -/
def GKept (s t : State) (c : Nat) : Prop := (t.core c).g = (s.core c).g ∧ (t.core c).gpend = (s.core c).gpend

/-- A vector instruction has written these lanes to a register, readable after lat cycles, and nothing else but the flags. -/
def VecWrites (s u : State) (c vd lat : Nat) (val : Nat → W32) : Prop :=
  (∀ i, i < 64 → u.lane c vd i = val i) ∧ (∀ n i, n ≠ vd → i < 64 → u.lane c n i = s.lane c n i) ∧ u.vLeft c vd = lat ∧
  (∀ n, n ≠ vd → u.vLeft c n = s.vLeft c n) ∧ CoreOnly s u ∧ OtherCores s u c ∧ RegsOnly s u (fun off => off = Reg.vecFlags c) ∧
  GKept s u c ∧ (u.core c).tally = (s.core c).tally

/-- None of these control-core registers is pending (R87). -/
def State.regsReady (s : State) (c : Nat) (l : List Nat) : Bool := l.all (fun n => n == 0 || !s.gBusy c n)

/-- No store of the control core was aborted or is held (R85). -/
def State.gateOpen (s : State) (c : Nat) : Bool := (s.core c).aborted.isEmpty && (s.core c).stores.all (fun x => !x.held)

/-- A setup write of this path to this register passes (R38, R39, R498, R94). -/
def State.mayWrite (s : State) (path : Path) (off : Nat) : Bool := (s.guard path off).isNone

/-- The bits [lo + len - 1 : lo] of two registers are the same number. -/
def SameField (s t : State) (off lo len : Nat) : Prop := t.fld off lo len = s.fld off lo len

/-- A record has been written at the end of a die's fault buffer with the die's next sequence number, once Ready and while the buffer
has room (R529, R534). -/
def Recorded (s t : State) (die code kind : Nat) (unit : W32) (d0 d1 : Nat) : Prop :=
  s.bu.ready = true → (s.fbuf die).recs.length < fbufCap die →
  ∃ x, (t.fbuf die).recs = (s.fbuf die).recs ++ [x] ∧ x.code = code ∧ x.kind = kind ∧ x.unit = unit ∧ x.d0 = BitVec.ofNat 32 d0 ∧
    x.d1 = BitVec.ofNat 32 d1 ∧ x.seq = (s.fbuf die).next ∧ x.time = s.time ∧ x.die = die

/-- A walk has found m: it enters these caches and is counted, and nothing else has changed. A full cache takes a free value to choose the
entry it gives up (R316). -/
def Walked (s t : State) (us : List Nat) (space va : Nat) (m : Map) : Prop :=
  t = { s with tlb := (s.cache us space va m).tlb, free := (s.cache us space va m).free, regs := t.regs } ∧ RegsOnly s t (fun off => off = Reg.xlateCount) ∧
  SameField s t Reg.xlateCount 0 32 ∧ t.fld Reg.xlateCount 32 32 = (s.fld Reg.xlateCount 32 32 + 1) % 2 ^ 32

/-- A stream's transfer, a load or a store that goes to a tier has met a translation fault: MEM_XLATE is recorded. -/
def XlateFaulted (s t : State) (unit : W32) (space cause kind slot va : Nat) : Prop :=
  t.mem = s.mem ∧ t.tlb = s.tlb ∧
  Recorded s t 0 0x301 2 unit (space + cause * 16 + kind * 128 + slot * 512) (va % 2 ^ 32)

/-- The GO of step n by this path is taken, and no plan code skips the step (R497, R516). -/
def State.takesGo (s : State) (path : Path) (n : Nat) : Bool :=
  s.mayWrite path Reg.buCtrl && !s.bu.refusesGo n && !(s.planCode n == 1 && (n == 10 || n == 11))

/-- Step n has begun and its action is carried out, with what the step fails with. -/
def State.begun (s : State) (n : Nat) (f : Option BuFail) : State :=
  { s with bu := { s.bu with step := n, state := 1, began := s.ns, acted := true, fail := f } }

/-- The running step has ended with this outcome, and its outcome entry stands at the end of the logbook (R499, R517). -/
def StepEnded (s t : State) (outcome detail fault : Nat) (unit : W32) (d0 d1 : Nat) : Prop :=
  t.bu.step = s.bu.step ∧ t.bu.state = outcome + 2 ∧ t.bu.ended = (s.bu.ended || outcome == 1) ∧ t.bu.fail = none ∧
  (s.bu.log.length < 480 → t.bu.log.getLast? =
    some ⟨s.bu.step, outcome, s.planCode s.bu.step, detail, fault, unit, (s.ns - s.bu.began) / 1000, s.time, BitVec.ofNat 32 d0, BitVec.ofNat 32 d1⟩)

/-- The state of these cores is as after a core reset, with their clocks as they were (R48, R523). -/
def CoresReset (s t : State) (cores : List Nat) : Prop :=
  ∀ c ∈ cores, (∀ e, t.eng c e = {}) ∧ (∀ n, t.tally c n = 0) ∧ (∀ n, t.g c n = 0) ∧ (t.core c).clkOn = (s.core c).clkOn

/-- The n-th packet of a type delivered to this package, which passes its checks (R549 to R551). -/
def State.goodPkt (s : State) (typ n : Nat) (p : Pkt) : Prop := (s.inbox.filter (fun k => k.typ == typ))[n]? = some p ∧ s.checked p = none

end Sys2Proof.Machine
end

