-- ==== Sys2Proof/WellFormed.lean ====
section
/-! DEFINITION. Well-formed commands: what an operand's type does not already bound. A command that is not well formed is no event of the
part; exec still answers for it. -/
namespace Sys2Proof

/-- Defects name physical cores 0 to 67, arrays of engines 0 and 1 with lines 0 to 31, cellar vector engines of dies 1 to 4, supervisor cores 0
to 3, and unit classes 1 to 6 (R505, R506). -/
def Defects.wf (d : Defects) : Bool :=
  d.cores.all (fun p => decide (p < 68)) && d.arrays.all (fun a => decide (a.1 < 68 ∧ a.2.1 < 2 ∧ a.2.2.2 < 33)) &&
  d.cves.all (fun x => decide (1 ≤ x.1 ∧ x.1 ≤ 4 ∧ x.2 < 16)) && d.sup.all (fun n => decide (n < 4)) &&
  d.units.all (fun x => decide (1 ≤ x.1 ∧ x.1 ≤ 6))

/-- The header's length and the lists whose lengths the bundle's sections fix (R471, R472). -/
def LoadData.wf (d : LoadData) : Bool :=
  d.header.length == 512 && d.images.all (fun i => i.starts.length == 6) &&
  d.update.all (fun u => decide (u.cfg.length ≤ 16 ∧ u.prog.length ≤ 16 ∧ u.params.length ≤ 16)) &&
  d.items.length == 4

/-- A chunk is 1024 bytes (R511). -/
def ChunkFrom.wf : ChunkFrom → Bool
  | .port _ bytes => bytes.length == 1024
  | .packet _ => true

/-- The check of a command's operands. -/
def Instr.wf : Instr → Bool
  | .registerWrite _ _ size _ => decide (1 ≤ size)
  | .updateCommand _ bytes => bytes.length == 64
  | .frameReceive _ _ _ bytes => bytes.length == 2056
  | .portLossOfLock _ good => good != 15
  | .jobPoll _ entries0 _ entries3 _ _ => entries0.all (fun e => e.length == 64) && entries3.all (fun e => e.length == 64)
  | .load d => d.wf
  | .fuseRead _ _ d => d.wf
  | .selfTest _ d tests => d.wf && tests.length == d.cores.length
  | .tier2 _ spd _ => spd.length == 16 && spd.all (fun l => l.all (fun m => decide (m.size < 8)))
  | .firmwareChunk src => src.wf
  | .d2dLink near far _ _ => near != far
  | .samplePreload sampled preload => sampled.length == preload.length
  | .instructionFetch .. | .nop .. | .loop .. | .jump .. | .brq .. | .settle .. | .halt .. | .instructionComplete ..
  | .alu .. | .addi .. | .andi .. | .ori .. | .xori .. | .slti .. | .sltiu .. | .shi .. | .lui .. | .lih .. | .lit ..
  | .lb .. | .lbu .. | .lh .. | .lhu .. | .lw .. | .lwu .. | .ld .. | .sb .. | .sh .. | .sw .. | .sd .. | .loadDataReturn ..
  | .ctlResultReady .. | .beq .. | .bne .. | .blt .. | .bge .. | .bltu .. | .bgeu .. | .jal .. | .jalr .. | .ctlLoop ..
  | .pusha .. | .pushp .. | .tadd .. | .twait .. | .ttake .. | .trd .. | .pwait .. | .waitg .. | .rds .. | .ctlHalt ..
  | .storeRetire .. | .mma .. | .mmaPairBegin .. | .mmaLastRead .. | .swap .. | .drp .. | .bankPhaseStart ..
  | .drpComplete .. | .stg .. | .stgComplete .. | .srs .. | .tmv .. | .tmvTileBegin .. | .tldx .. | .tsty .. | .tzy ..
  | .vld .. | .vst .. | .varith .. | .vcmp .. | .vsel .. | .vred .. | .vperm .. | .vcvt .. | .vsfu .. | .vmovi .. | .vbcq ..
  | .vseed .. | .vecResultReady .. | .strmWindowOpen .. | .strm .. | .streamRequestStart .. | .listPieceRead ..
  | .transferArrive .. | .tileCommit .. | .transferRetire .. | .streamComplete .. | .suspensionResume ..
  | .suspensionAbort .. | .strSplitWrite .. | .pegFill .. | .pegWatch .. | .pegReport .. | .pegTakeRequest .. | .pegGrant ..
  | .pegReturn .. | .pegArmApply .. | .pegRead .. | .pegInit .. | .pegAbandon .. | .lanternFire .. | .run .. | .stop ..
  | .tallyClear .. | .queueClear .. | .coreFreqChange .. | .coreFreqRelockDone .. | .translationWalk .. | .tierAccess ..
  | .memInval .. | .memInvalDone .. | .pageMove .. | .memRetrain .. | .retrainDone .. | .attZero .. | .attZeroDone ..
  | .passStart .. | .cveRun .. | .passComplete .. | .ruleSlotEnable .. | .cveAdd .. | .cveSub .. | .cveMul .. | .cveFma ..
  | .cveFnma .. | .cveMin .. | .cveMax .. | .cveAbs .. | .cveNeg .. | .cveSgn .. | .cveSqrt .. | .cveRsqrt .. | .cveRcp ..
  | .cveCmp .. | .cveSel .. | .cveSum .. | .cveBcast .. | .cveLds .. | .cveSts .. | .cveMov .. | .cveEnd ..
  | .replayTimeout .. | .packetForward .. | .write .. | .add .. | .read .. | .readData .. | .ack .. | .nak .. | .ctrl ..
  | .linkstate .. | .e2eTimeout .. | .backoffExpire .. | .e2eLimit .. | .portNarrowDone .. | .portNarrowTimeout ..
  | .portUpHoldExpire .. | .portAutoRetry .. | .portRetrain .. | .portRetrainDone .. | .syncSend .. | .sync ..
  | .timHoldover .. | .timMasterLost .. | .sendUnitStart .. | .sendRound .. | .contrib .. | .redDeadline .. | .redGrace ..
  | .repeatNotice .. | .normContribution .. | .scalar .. | .scalarResult .. | .distSendStart .. | .dist .. | .distDone ..
  | .channelAbort .. | .channelStepSeq .. | .ringEnable .. | .start .. | .pause .. | .resume .. | .teardown ..
  | .teardownFinish .. | .export_ .. | .request .. | .stepOpen .. | .reqPass .. | .stepClose .. | .jobStepLate ..
  | .jobRootLost .. | .requestExpire .. | .mailboxArrival .. | .bubbleAt .. | .reqOut .. | .place .. | .mailboxNote ..
  | .powerAndClocks .. | .yieldMap .. | .spares .. | .islandClocks .. | .dieToDieLinks .. | .tier1 .. | .fabric ..
  | .timeBase .. | .identityAndMeasurement .. | .firmwareLoad .. | .coreFirmware .. | .ready .. | .buStepEnd ..
  | .buStepLimit .. | .spareRepoint .. | .firmwarePull .. | .faultRecordMove .. | .recoveryStart .. | .fltReset ..
  | .resetComplete .. | .rewindDone .. | .fltHeartbeat .. | .supFault .. | .fltBufAck .. | .chkCompute .. | .chkCompare ..
  | .chkDone .. | .quote .. | .quoteDone .. | .secNonceWrite .. | .secSvnRaise .. | .dbgHalt .. | .dbgResume ..
  | .dbgStep .. | .dbgClrfault .. | .dbgCatchWrite .. | .dbgRegRead .. | .dbgRegWrite .. | .dbgPegRead .. | .dbgPegWrite ..
  | .dbgMemRead .. | .dbgMemWrite .. | .dbgTraceClear .. | .dbgTraceMark .. | .bypass .. | .idcode .. | .extest ..
  | .clamp .. | .highz .. | .dbgacc .. | .smbIdentity .. | .smbState .. | .smbTemperatures .. | .smbPowers ..
  | .smbLatestFault .. | .pwrOkRise .. | .pwrOkFall .. | .resetNFall .. | .resetNRise .. | .thermalTrip .. | .refclkLost ..
  | .railExcursion .. | .powerCapEval .. | .stewardLinkReset .. | .pegInitDone .. | .pegSweepDone .. | .dieInternalFault ..
  | .refclkReturn .. | .busMasterEnable .. | .testLogicReset .. => true

end Sys2Proof
end

