-- ==== Sys2Proof/Certificates/Slice0/Obligations.lean ====
section
/-! DEFINITION. The statements for the provers. -/
open Sys2Proof Sys2Proof.Machine

/-! ### The control core -/

/-- R80: the ALU's sixteen functions, with results readable after 1 cycle, or 3 for the products (R86); nothing else changes. -/
def Obligations.AluFunctions : Prop :=
  ∀ (c : Fin 64) (i : FmtA) (s : State) (f : Nat) (v : W64),
    let a := s.g c i.ga.toNat
    let b := s.g c i.gb.toNat
    let n := b.toNat % 64
    (f, v) ∈ [(0x000, a + b), (0x001, a - b), (0x002, a &&& b), (0x003, a ||| b), (0x004, a ^^^ b), (0x005, a <<< n),
      (0x006, a >>> n), (0x007, a.sshiftRight n), (0x008, if a.toInt < b.toInt then 1 else 0),
      (0x009, if a.toNat < b.toNat then 1 else 0), (0x00A, if a.toInt < b.toInt then a else b),
      (0x00B, if a.toInt < b.toInt then b else a), (0x00C, if a.toNat < b.toNat then a else b),
      (0x00D, if a.toNat < b.toNat then b else a), (0x010, a * b), (0x011, BitVec.ofNat 64 (a.toNat * b.toNat / 2 ^ 64))] →
    i.func.toNat = f → s.atWord c 5 (encA 0x01 i) = true → s.regsReady c [i.ga.toNat, i.gb.toNat, i.gd.toNat] = true →
    ∃ t, exec (.alu c i) s = .next t ∧ CtlComputes s t c i.gd.toNat v (if f = 0x010 ∨ f = 0x011 then 3 else 1)

/-- R80: the immediate instructions.
R80, R81: TRD reads a tally and RDS one of six values. -/
def Obligations.ImmediatesAndValueReads : Prop :=
  (∀ (c : Fin 64) (i : FmtI) (s : State),
      let a := s.g c i.ga.toNat
      let ready := fun opc => s.atWord c 5 (encI opc i) = true ∧ s.regsReady c [i.ga.toNat, i.gd.toNat] = true
      let computes := fun (k : Instr) (v : W64) => ∃ t, exec k s = .next t ∧ CtlComputes s t c i.gd.toNat v 1
      (ready 0x02 → computes (.addi c i) (a + i.imm.signExtend 64)) ∧
      (ready 0x03 → computes (.andi c i) (a &&& i.imm.zeroExtend 64)) ∧
      (ready 0x04 → computes (.ori c i) (a ||| i.imm.zeroExtend 64)) ∧
      (ready 0x05 → computes (.xori c i) (a ^^^ i.imm.zeroExtend 64)) ∧
      (ready 0x06 → computes (.slti c i) (if a.toInt < i.imm.toInt then 1 else 0)) ∧
      (ready 0x07 → computes (.sltiu c i) (if a.toNat < (i.imm.signExtend 64).toNat then 1 else 0)) ∧
      (ready 0x08 → i.imm.toNat < 64 → computes (.shi c i) (a <<< i.imm.toNat)) ∧
      (ready 0x08 → 64 ≤ i.imm.toNat → i.imm.toNat < 128 → computes (.shi c i) (a >>> (i.imm.toNat - 64))) ∧
      (ready 0x08 → 128 ≤ i.imm.toNat → i.imm.toNat < 192 → computes (.shi c i) (a.sshiftRight (i.imm.toNat - 128))) ∧
      (ready 0x09 → i.ga = 0 → computes (.lui c i) ((i.imm ++ 0#16).signExtend 64)) ∧
      (ready 0x0A → computes (.lih c i) (a.extractLsb' 48 16 ++ i.imm ++ a.extractLsb' 0 32)) ∧
      (ready 0x0B → computes (.lit c i) (i.imm ++ a.extractLsb' 0 48))) ∧
  (∀ (c : Fin 64) (s : State),
      (∀ i : FmtT, s.atWord c 5 (encT 0x37 i) = true → i.imm = 0 → s.regsReady c [i.g.toNat] = true →
        ∃ t, exec (.trd c i) s = .next t ∧ CtlComputes s t c i.g.toNat (BitVec.ofNat 64 (s.tally c i.tally.toNat)) 2) ∧
      (∀ (i : FmtI) (v : W64), s.atWord c 5 (encI 0x3C i) = true → i.ga = 0 → s.regsReady c [i.gd.toNat] = true →
        (i.imm.toNat, v) ∈ [(0, BitVec.ofNat 64 c), (1, BitVec.ofNat 64 s.pkg), (2, (s.unitEng c 5).zeroExtend 64),
          (3, BitVec.ofNat 64 (s.core c).cycles), (4, s.time), (5, (s.reg Reg.pkgId &&& 0xFFFFFFFF))] →
        ∃ t, exec (.rds c i) s = .next t ∧ CtlComputes s t c i.gd.toNat v 2))

/-- R83, R84, R86: a load from the core's own store room of bytes that no store of the core is still to change reads them, little-endian,
extends them and writes the register after 4 cycles.
R84, R86, R394: a load from outside the own store room leaves its register pending and stands among the core's loads until its
data returns; the return writes the extended value and ends the wait. -/
def Obligations.ControlLoads : Prop :=
  (∀ (c : Fin 64) (i : FmtI) (s : State),
      let a := s.g c i.ga.toNat + i.imm.signExtend 64
      let ready := fun (opc n : Nat) => s.atWord c 5 (encI opc i) = true ∧ s.regsReady c [i.ga.toNat, i.gd.toNat] = true ∧
        s.gateOpen c = true ∧ s.ctlAddrFault c a n false = none ∧ addrPkg a = s.pkg ∧ s.window a = .store c (addrOff a % 0x100000) ∧
        s.storeCovers c a n = false
      let v := fun (n : Nat) => s.rdLE (addrOff a) n
      let loads := fun (k : Instr) (v : W64) => ∃ t, exec k s = .next t ∧ CtlComputes s t c i.gd.toNat v 4
      (ready 0x10 1 → loads (.lb c i) ((BitVec.ofNat 8 (v 1)).signExtend 64)) ∧
      (ready 0x11 1 → loads (.lbu c i) (BitVec.ofNat 64 (v 1))) ∧
      (ready 0x12 2 → loads (.lh c i) ((BitVec.ofNat 16 (v 2)).signExtend 64)) ∧
      (ready 0x13 2 → loads (.lhu c i) (BitVec.ofNat 64 (v 2))) ∧
      (ready 0x14 4 → loads (.lw c i) ((BitVec.ofNat 32 (v 4)).signExtend 64)) ∧
      (ready 0x15 4 → loads (.lwu c i) (BitVec.ofNat 64 (v 4))) ∧
      (ready 0x16 8 → loads (.ld c i) (BitVec.ofNat 64 (v 8)))) ∧
  ((∀ (c : Fin 64) (i : FmtI) (s : State) (opc n : Nat) (sgn : Bool) (k : Instr),
      let a := s.g c i.ga.toNat + i.imm.signExtend 64
      (opc, n, sgn, k) ∈ [(0x10, 1, true, .lb c i), (0x11, 1, false, .lbu c i), (0x12, 2, true, .lh c i), (0x13, 2, false, .lhu c i),
        (0x14, 4, true, .lw c i), (0x15, 4, false, .lwu c i), (0x16, 8, false, .ld c i)] →
      s.atWord c 5 (encI opc i) = true → s.regsReady c [i.ga.toNat, i.gd.toNat] = true → s.gateOpen c = true →
      s.ctlAddrFault c a n false = none → addrPkg a = s.pkg → (∀ o, s.window a ≠ .store c o) → s.storeCovers c a n = false →
      ∃ t, exec k s = .next t ∧ InSequence s t c 5 ∧ CoreOnly s t ∧ OtherCores s t c ∧ (i.gd ≠ 0 → t.gpend c i.gd.toNat = .variable) ∧
        ∃ l, (t.core c).loads = (s.core c).loads ++ [l] ∧ l.gd = i.gd.toNat ∧ l.addr = a ∧ l.size = n ∧ l.signed = sgn ∧ l.data = none) ∧
    (∀ (c : Fin 64) (s : State) (n : Nat) (l : CtlLoad) (d : W64), (s.core c).loads[n]? = some l → l.held = false →
      l.aborted = none → l.data = some d → s.still c = false →
      ∃ t, exec (.loadDataReturn c n) s = .next t ∧ (t.core c).loads = (s.core c).loads.eraseIdx n ∧ CoreOnly s t ∧ OtherCores s t c ∧
        (l.gd ≠ 0 → t.g c l.gd = extend l.size l.signed d.toNat ∧ t.gpend c l.gd = .no) ∧ ∀ m, m ≠ l.gd → t.g c m = s.g c m) ∧
    (∀ (c : Fin 64) (g : BitVec 5) (s : State) (r : Nat), s.gpend c g.toNat = .fixed r → r ≤ (s.core c).cycles →
      ∃ t, exec (.ctlResultReady c g) s = .next t ∧ t.gpend c g.toNat = .no ∧ CoreOnly s t ∧ OtherCores s t c ∧
        (t.core c).g = (s.core c).g ∧ ∀ m, m ≠ g.toNat → t.gpend c m = s.gpend c m))

/-- R83 to R85: a store to the core's own store room is done at once: its bytes are written little-endian and no other byte of memory
changes.
R85, R283: any other local store is outstanding until its destination has taken it, and then retires; a 64-bit store into peg memory
is an arm of that peg. -/
def Obligations.ControlStores : Prop :=
  (∀ (c : Fin 64) (i : FmtI) (s : State) (opc n : Nat) (k : Instr),
      let a := s.g c i.ga.toNat + i.imm.signExtend 64
      (opc, n, k) ∈ [(0x18, 1, .sb c i), (0x19, 2, .sh c i), (0x1A, 4, .sw c i), (0x1B, 8, .sd c i)] →
      s.atWord c 5 (encI opc i) = true → s.regsReady c [i.ga.toNat, i.gd.toNat] = true → s.gateOpen c = true →
      s.ctlAddrFault c a n true = none → addrPkg a = s.pkg → s.window a = .store c (addrOff a % 0x100000) →
      ∃ t, exec k s = .next t ∧ t.rdLE (addrOff a) n = (s.g c i.gd.toNat).toNat % 2 ^ (8 * n) ∧
        MemOnly s t (Within (addrOff a) n) ∧ CoreMem s t ∧ OtherCores s t c ∧ RegsOnly s t (PmuOf c) ∧ GKept s t c ∧
        (t.core c).stores = (s.core c).stores ∧ InSequence s t c 5) ∧
  ((∀ (c : Fin 64) (i : FmtI) (s : State) (opc n : Nat) (k : Instr),
      let a := s.g c i.ga.toNat + i.imm.signExtend 64
      (opc, n, k) ∈ [(0x18, 1, .sb c i), (0x19, 2, .sh c i), (0x1A, 4, .sw c i), (0x1B, 8, .sd c i)] →
      s.atWord c 5 (encI opc i) = true → s.regsReady c [i.ga.toNat, i.gd.toNat] = true → s.gateOpen c = true →
      s.ctlAddrFault c a n true = none → addrPkg a = s.pkg → (∀ o, s.window a ≠ .store c o) → (∀ p o, s.window a ≠ .peg p o) →
      ∃ t, exec k s = .next t ∧ InSequence s t c 5 ∧ CoreMem s t ∧ OtherCores s t c ∧ GKept s t c ∧
        MemOnly s t (Within (addrOff a) n) ∧
        ∃ x, (t.core c).stores = (s.core c).stores ++ [x] ∧ x.addr = a ∧ x.size = n ∧ x.data = s.g c i.gd.toNat) ∧
    (∀ (c : Fin 64) (i : FmtI) (s : State) (p o : Nat),
      let a := s.g c i.ga.toNat + i.imm.signExtend 64
      s.atWord c 5 (encI 0x1B i) = true → s.regsReady c [i.ga.toNat, i.gd.toNat] = true → s.gateOpen c = true →
      s.ctlAddrFault c a 8 true = none → addrPkg a = s.pkg → s.window a = .peg p o → armOk (s.g c i.gd.toNat) = true →
      ∃ t, exec (.sd c i) s = .next t ∧ InSequence s t c 5 ∧ CoreOnly s t ∧ OtherCores s t c ∧
        (t.core c).arms = (s.core c).arms ++ [⟨p, s.g c i.gd.toNat, (s.eng c 5).pc, (s.core c).pegSeq⟩]) ∧
    (∀ (c : Fin 64) (s : State) (n : Nat) (x : CtlStore), (s.core c).stores[n]? = some x → x.done = true → x.held = false →
      ∃ t, exec (.storeRetire c n) s = .next t ∧ (t.core c).stores = (s.core c).stores.eraseIdx n ∧ CoreOnly s t ∧ OtherCores s t c ∧
        t.regs = s.regs))

/-- R52, R80, R82: the branches go to pc + 4·offset when their condition holds and in sequence otherwise; JAL and JALR go to their
target with the link in gd; LOOP enters its body, or skips it when the count is 0. -/
def Obligations.BranchesAndLoops : Prop :=
  ∀ (c : Fin 64) (s : State),
    (∀ (i : FmtB) (opc : Nat) (taken : Prop) (k : Instr),
      let a := s.g c i.ga.toNat
      let b := s.g c i.gb.toNat
      let target : Int := (s.eng c 5).pc + 4 * i.off.toInt
      (opc, taken, k) ∈ [(0x20, a = b, Instr.beq c i), (0x21, a ≠ b, Instr.bne c i), (0x22, a.toInt < b.toInt, Instr.blt c i),
        (0x23, b.toInt ≤ a.toInt, Instr.bge c i), (0x24, a.toNat < b.toNat, Instr.bltu c i), (0x25, b.toNat ≤ a.toNat, Instr.bgeu c i)] →
      s.atWord c 5 (encB opc i) = true → s.regsReady c [i.ga.toNat, i.gb.toNat] = true → (s.eng c 5).jumpOk target = true →
      ∃ t, exec k s = .next t ∧ (taken → WentTo s t c 5 (target % 2 ^ 20).toNat) ∧ (¬ taken → InSequence s t c 5) ∧
        GKept s t c ∧ CtlFrame s t c) ∧
    (∀ (i : FmtJ), let target : Int := (s.eng c 5).pc + 4 * i.off.toInt
      s.atWord c 5 (encJ 0x26 i) = true → s.regsReady c [i.gd.toNat] = true → s.jumpFault c 5 target = none →
      ∃ t, exec (.jal c i) s = .next t ∧ WentTo s t c 5 target.toNat ∧ CtlFrame s t c ∧
        GWritten s t c i.gd.toNat (BitVec.ofNat 64 ((s.eng c 5).pc + 4)) 1) ∧
    (∀ (i : FmtI), let target := (s.g c i.ga.toNat + i.imm.signExtend 64).toNat / 4 * 4
      s.atWord c 5 (encI 0x27 i) = true → s.regsReady c [i.ga.toNat, i.gd.toNat] = true → s.jumpFault c 5 target = none →
      ∃ t, exec (.jalr c i) s = .next t ∧ WentTo s t c 5 target ∧ CtlFrame s t c ∧
        GWritten s t c i.gd.toNat (BitVec.ofNat 64 ((s.eng c 5).pc + 4)) 1) ∧
    (∀ (i : FmtI),
      let pc := (s.eng c 5).pc
      let last := pc + 4 * i.imm.toNat
      let n := (s.g c i.ga.toNat).toNat % 2 ^ 32
      s.atWord c 5 (encI 0x28 i) = true → s.regsReady c [i.ga.toNat] = true → i.gd = 0 → i.imm ≠ 0 → (s.eng c 5).loops.length < 4 →
      (∀ l ∈ (s.eng c 5).loops, last ≤ l.last) →
      ∃ t, exec (.ctlLoop c i) s = .next t ∧ GKept s t c ∧ CtlFrame s t c ∧
        (n ≠ 0 → (t.eng c 5).pc = pc + 4 ∧ (t.eng c 5).loops = ⟨pc + 4, last, n, false⟩ :: (s.eng c 5).loops) ∧
        (n = 0 → let r := (advance 4 last (s.eng c 5).loops)
          (t.eng c 5).pc = r.2.1 ∧
          (t.eng c 5).loops = (if ({ s.eng c 5 with pc := last } : Eng).refetches 5 then loseLoops true r.1 else r.1)))

/-- R75, R76, R80: PUSHA and PUSHP append to an engine's queues what may be popped two cycles on; TADD applies its amount to a tally and TTAKE takes
one, as this core cycle ends; TWAIT, WAITG and PWAIT pass once their condition holds; HALT halts the control core, as the cycle ends, once
nothing of it is outstanding. -/
def Obligations.ControlQueuesAndTallies : Prop :=
  ∀ (c : Fin 64) (s : State),
    (∀ (i : FmtQ), let e := i.eng.toNat
      s.atWord c 5 (encQ 0x30 i) = true → e ≤ 4 → i.rsvd = 0 → (s.eng c e).aq.length + (s.eng c e).aqNew.length < 64 → s.regsReady c [i.ga.toNat, i.gb.toNat] = true →
      ∃ t, exec (.pusha c i) s = .next t ∧ InSequence s t c 5 ∧ CoreOnly s t ∧ OtherCores s t c ∧ GKept s t c ∧
        (t.eng c e) = { s.eng c e with
          aqNew := (s.eng c e).aqNew ++ [((s.core c).cycles + 2, (s.g c i.gb.toNat).setWidth 32 ++ (s.g c i.ga.toNat).setWidth 32)] }) ∧
    (∀ (i : FmtQ), let e := i.eng.toNat
      s.atWord c 5 (encQ 0x31 i) = true → e ≤ 4 → i.rsvd = 0 → i.gb = 0 → (s.eng c e).pq.length + (s.eng c e).pqNew.length < 16 →
      s.regsReady c [i.ga.toNat] = true →
      ∃ t, exec (.pushp c i) s = .next t ∧ InSequence s t c 5 ∧ CoreOnly s t ∧ OtherCores s t c ∧ GKept s t c ∧
        (t.eng c e) = { s.eng c e with pqNew := (s.eng c e).pqNew ++ [((s.core c).cycles + 2, (s.g c i.ga.toNat).setWidth 32)] }) ∧
    (∀ (i : FmtT), s.atWord c 5 (encT 0x34 i) = true → i.g = 0 → s.gateOpen c = true → (s.core c).arms = [] →
      ∃ t, exec (.tadd c i) s = .next t ∧ InSequence s t c 5 ∧ CoreOnly s t ∧ OtherCores s t c ∧ GKept s t c ∧
        (t.core c).tops = (s.core c).tops ++ [⟨1, 5, (s.eng c 5).pc, i.tally.toNat, i.imm.toInt⟩] ∧ ∀ k, t.tally c k = s.tally c k) ∧
    (∀ (i : FmtT), s.atWord c 5 (encT 0x35 i) = true → i.imm = 0 → s.gateOpen c = true → s.regsReady c [i.g.toNat] = true →
      (s.g c i.g.toNat).toNat % 65536 ≤ s.tally c i.tally.toNat →
      ∃ t, exec (.twait c i) s = .next t ∧ InSequence s t c 5 ∧ GKept s t c ∧ CtlFrame s t c) ∧
    (∀ (i : FmtT), s.atWord c 5 (encT 0x36 i) = true → i.g = 0 → i.imm = 0 → s.gateOpen c = true → 1 ≤ s.spare c i.tally.toNat →
      ∃ t, exec (.ttake c i) s = .next t ∧ InSequence s t c 5 ∧ CoreOnly s t ∧ OtherCores s t c ∧ GKept s t c ∧
        (t.core c).tops = (s.core c).tops ++ [⟨0, 5, (s.eng c 5).pc, i.tally.toNat, -1⟩] ∧ ∀ k, t.tally c k = s.tally c k) ∧
    (∀ (i : FmtP), let p := 4096 * (c.val / 4) + i.peg.toNat
      s.atWord c 5 (encP 0x38 i) = true → i.rsvd = 0 → s.gateOpen c = true →
      (i.take = 1 → (s.eng c 5).grant = some p) → (i.take = 0 → ∃ r ∈ (s.eng c 5).reports, r.peg = p ∧ r.full = true ∧ r.st = 0) →
      exec (.pwait c i) s = .next (s.ctlIssued (s.endWait c 5) c none none)) ∧
    (∀ (i : FmtA), s.atWord c 5 (encA 0x39 i) = true → i.gd = 0 → i.gb = 0 → i.func = 0 → s.gateOpen c = true →
      s.regsReady c [i.ga.toNat] = true → (i.ga = 0 → (s.core c).stores = [] ∧ (s.core c).arms = []) →
      ∃ t, exec (.waitg c i) s = .next t ∧ InSequence s t c 5 ∧ GKept s t c ∧ CtlFrame s t c) ∧
    (s.atWord c 5 (0x3E * 2 ^ 26) = true → s.gateOpen c = true → (∀ l ∈ (s.core c).loads, l.aborted.isSome = true) →
      (s.core c).stores = [] → (s.core c).arms = [] →
      ∃ t, exec (.ctlHalt c 0) s = .next t ∧ (t.core c).halts = (s.core c).halts ++ [5] ∧ InSequence s t c 5 ∧ CoreOnly s t ∧ OtherCores s t c ∧
        GKept s t c ∧ ∀ e, e ≠ 5 → t.eng c e = s.eng c e)

/-! ### The engines' common instructions, fetch and completion -/

/-- R60, R63, R66 to R69: an engine instruction that may issue issues. NOP, SETTLE with nothing outstanding and HALT go on in sequence;
SETTLE otherwise waits for what is outstanding; JUMP and BRQ go to their target; LOOP enters its body or, with a count of 0, goes on as
from the body's last instruction (the queue's part of this: DESIGN CHOICE, log entry 95). A HALT with nothing outstanding halts as the core
cycle ends. -/
def Obligations.EngineCommonInstructions : Prop :=
  ∀ (c : Fin 64) (e : Fin 5) (w : EngW) (s : State),
    (s.mayIssue c e 1 w = true → w.opnd = 0 → exec (.nop c e w) s = .next (s.issued s c e w none none)) ∧
    (s.mayIssue c e 5 w = true → w.opnd = 0 → (s.eng c e).out = [] → exec (.settle c e w) s = .next (s.issued s c e w none none)) ∧
    (s.mayIssue c e 5 w = true → w.opnd = 0 → (s.eng c e).out ≠ [] → exec (.settle c e w) s =
      .next (s.issued s c e w none (some { pc := (s.eng c e).pc, opc := 5, sig0 := w.sig0, sig1 := w.sig1, ready := (s.core c).cycles }))) ∧
    (s.mayIssue c e 3 w = true → w.opnd.toNat < 2 ^ 16 → s.jumpFault c e (16 * w.opnd.toNat : Nat) = none →
      exec (.jump c e w) s = .next (s.issued s c e w (some (16 * w.opnd.toNat)) none)) ∧
    (∀ (n : W32) (rest : List W32), s.mayIssue c e 4 w = true → w.opnd = 0 → (s.eng c e).pq = n :: rest →
      s.jumpFault c e ((s.eng c e).pc + 16 * n.toInt) = none → exec (.brq c e w) s =
        .next (s.issued (s.setEng c e { s.eng c e with pq := rest }) c e w (some ((s.eng c e).pc + 16 * n.toInt).toNat) none)) ∧
    (∀ (n : W32) (rest : List W32),
      let pc := (s.eng c e).pc
      let last := pc + 16 * w.opnd.toNat
      s.mayIssue c e 2 w = true → 1 ≤ w.opnd.toNat → w.opnd.toNat < 4096 → (s.eng c e).pq = n :: rest → (s.eng c e).loops.length < 4 →
      (∀ l ∈ (s.eng c e).loops, last ≤ l.last) →
      (n ≠ 0 → exec (.loop c e w) s = .next (s.issued (s.setEng c e { s.eng c e with
        pq := rest, loops := ⟨pc + 16, last, n.toNat, false⟩ :: (s.eng c e).loops }) c e w none none)) ∧
      (n = 0 → exec (.loop c e w) s = .next (s.issued (s.setEng c e { s.eng c e with pq := rest, pc := last }) c e w none none))) ∧
    (s.mayIssue c e 6 w = true → w.opnd = 0 →
      exec (.halt c e w) s = .next ((s.issued s c e w none
        (some { pc := (s.eng c e).pc, opc := 6, sig0 := w.sig0, sig1 := w.sig1, ready := (s.core c).cycles })).tryHalt c e)) ∧
    (s.mayIssue c e 6 w = true → w.opnd = 0 → (s.eng c e).out = [] → w.sig0 = 0 → w.sig1 = 0 →
      ∃ t, exec (.halt c e w) s = .next t ∧ (t.core c).halts = (s.core c).halts ++ [e.val] ∧ (t.eng c e).out = [] ∧ t.mem = s.mem ∧ OtherCores s t c ∧
        ∀ f, f ≠ e.val → t.eng c f = s.eng c f)

/-- R60, R63: what an issue of an engine instruction without signals or waits does beside its own part: the program goes on in sequence
or to the target, and nothing but the engine, the counters of its core and the trace changes.
R52, R66, R71 to R73, R75: what a core cycle's end does: the operations on tallies posted in it are applied, a signal that leaves 0 to 65535
changes nothing and stops its engine with TALLY_UNDERFLOW (0x110) or TALLY_OVERFLOW (0x111); an engine whose HALT has completed halts; one
that began a refetch issues again six cycles on, and one more for each engine of a lower number that did; pushed entries join their queues. -/
def Obligations.IssueAndSignals : Prop :=
  (∀ (s : State) (c e : Nat) (w : EngW) (target : Option Nat), w.sig0 = 0 → w.sig1 = 0 → w.wait0 = 0 → w.wait1 = 0 →
      let t := s.issued s c e w target none
      (target = none → InSequence s t c e) ∧ (∀ a, target = some a → WentTo s t c e a) ∧ t.mem = s.mem ∧ RegsOnly s t (PmuOf c) ∧
      OtherCores s t c ∧ GKept s t c ∧ (t.core c).tally = (s.core c).tally ∧ (t.core c).tops = (s.core c).tops ∧ t.pegs.word = s.pegs.word ∧
      (t.eng c e).aq = (s.eng c e).aq ∧ (t.eng c e).pq = (s.eng c e).pq ∧ (t.eng c e).out = (s.eng c e).out ∧
      (t.eng c e).next = (s.core c).cycles + 1 ∧ ∀ f, f ≠ e → t.eng c f = s.eng c f) ∧
  (∀ (s : State) (c e pc : Nat) (f : BitVec 16), f.getLsbD 15 = true →
      s.signal c e pc (!f.getLsbD 14) f = s ∧
      s.signal c e pc (f.getLsbD 14) f = s.postOp c ⟨1 + boolNat (f.getLsbD 14), e, pc, bitsOf f.toNat 8 6, signedOf f.toNat 8⟩) ∧
  (∀ (s : State) (c : Nat) (o : TallyOp), o.group = 1 ∨ o.group = 2 →
      let t := s.applyOp c o
      let v : Int := s.tally c o.tally + o.amt
      (0 ≤ v → v ≤ 65535 → ∀ j, (t.tally c j : Int) = if j = o.tally then v else s.tally c j) ∧
      (v < 0 → (∀ j, t.tally c j = s.tally c j) ∧ (t.eng c o.eng).st = .faulted ∧ (t.eng c o.eng).fault = 0x110) ∧
      (65535 < v → (∀ j, t.tally c j = s.tally c j) ∧ (t.eng c o.eng).st = .faulted ∧ (t.eng c o.eng).fault = 0x111)) ∧
  (∀ (s : State) (c : Nat), (∀ o ∈ (s.core c).tops, o.group = 0 ∧ o.eng < 6) →
      ∀ j, (s.applyOps c).tally c j = s.tally c j - (s.core c).takesOf j) ∧
  (∀ (s : State) (c e : Nat), e < 6 →
      let k := s.eng c e
      let n := (s.core c).cycles
      let t := s.endCycle c
      (t.core c).cycles = n + 1 ∧ (t.core c).fetched = false ∧ (t.core c).tops = [] ∧ (t.core c).halts = [] ∧ (t.core c).jumps = [] ∧
      OtherCores s t c ∧ t.mem = s.mem ∧
      (t.eng c e).next = (if e ∈ (s.core c).jumps then n + 6 + ((s.core c).jumps.filter (fun x => decide (x < e))).length else k.next) ∧
      ((∀ x ∈ k.aqNew, x.1 ≤ n + 1) → (t.eng c e).aq = k.aq ++ k.aqNew.map (·.2) ∧ (t.eng c e).aqNew = []) ∧
      ((∀ x ∈ k.pqNew, x.1 ≤ n + 1) → (t.eng c e).pq = k.pq ++ k.pqNew.map (·.2) ∧ (t.eng c e).pqNew = []) ∧
      ((s.core c).tops = [] → (∀ f, f < 6 → (s.eng c f).repNew = []) →
        (e ∈ (s.core c).halts → k.st ≠ .faulted → (t.eng c e).st = .halted) ∧ (e ∉ (s.core c).halts → (t.eng c e).st = k.st)))

/-- R51, R57, R60, R67, R69, R90: where an engine instruction does not issue: it stalls while a wait is not met, and faults, without any
effect of its own, on a program counter outside the code region, on a reserved field, on a fifth loop and on a jump out of a loop.
R90, R529: a precise fault stops the engine at the instruction, whose program counter stays, and records the code with the engine's
unit identifier word; no memory, tally or control-core register changes. -/
def Obligations.EngineStops : Prop :=
  (∀ (c : Fin 64) (e : Fin 5) (w : EngW) (s : State),
      (s.able c e = true → (s.eng c e).next ≤ (s.core c).cycles → (s.eng c e).out = [] → s.inCode c (s.eng c e).pc = false →
        exec (.nop c e w) s = .next (s.precise c e 0x102 0 0 0)) ∧
      (s.atWord c e (engEnc w 1) = true → w.opnd ≠ 0 ∨ engFieldsOk w = false → exec (.nop c e w) s = .next (s.precise c e 0x101 0 0 0)) ∧
      (s.atWord c e (engEnc w 1) = true → w.opnd = 0 → engFieldsOk w = true → s.waitsOk c e w = false →
        exec (.nop c e w) s = .next (s.stalled c e .stallWait)) ∧
      (s.mayIssue c e 2 w = true → 1 ≤ w.opnd.toNat → w.opnd.toNat < 4096 → (s.eng c e).pq = [] →
        exec (.loop c e w) s = .next (s.stalled c e .stallQueue)) ∧
      (s.mayIssue c e 2 w = true → 1 ≤ w.opnd.toNat → w.opnd.toNat < 4096 → (s.eng c e).pq ≠ [] → 4 ≤ (s.eng c e).loops.length →
        exec (.loop c e w) s = .next (s.precise c e 0x103 0 0 0)) ∧
      (∀ l rest, s.mayIssue c e 3 w = true → w.opnd.toNat < 2 ^ 16 → s.inCode c (16 * w.opnd.toNat) = true →
        (s.eng c e).loops = l :: rest → (16 * w.opnd.toNat < l.first ∨ l.last < 16 * w.opnd.toNat) →
        exec (.jump c e w) s = .next (s.precise c e 0x104 0 0 0))) ∧
  (∀ (s : State) (c e code x d2 d3 : Nat),
      let t := s.precise c e code x d2 d3
      (t.eng c e).st = .faulted ∧ (t.eng c e).fault = code ∧ (t.eng c e).pc = (s.eng c e).pc ∧ t.mem = s.mem ∧ GKept s t c ∧
      (∀ k, t.tally c k = s.tally c k) ∧ OtherCores s t c ∧
      (s.bu.ready = true → (s.fbuf 0).recs.length < 1024 →
        ∃ r, (t.fbuf 0).recs = (s.fbuf 0).recs ++ [r] ∧ r.code = code ∧ r.kind = 0 ∧ r.unit = s.unitEng c e ∧ r.seq = (s.fbuf 0).next ∧
          r.time = s.time ∧ r.d0.toNat = ((s.eng c e).pc + (x % 4096) * 2 ^ 20) % 2 ^ 32))

/-- R49, R64: once in a core cycle the engine with the most free queue bytes takes the instructions of one 128-byte piece of its code; an outstanding
instruction whose time has come completes, its completion signals apply and it leaves the list. -/
def Obligations.FetchAndComplete : Prop :=
  (∀ (c : Fin 64) (s : State) (e : Nat), s.still c = false → (s.core c).fetched = false → s.fetchPick c = some e →
    let k := s.eng c e
    let t := s.setEng c e { k with iq := k.iq ++ s.fetchList c (insnSize e) (s.fetchCount c e) (k.fetchAt e) }
    exec (.instructionFetch c) s = .next (t.setCore c { t.core c with fetched := true })) ∧
  (∀ (c : Fin 64) (s : State), (s.core c).fetched = true → exec (.instructionFetch c) s = .next s) ∧
  (∀ (c : Fin 64) (s : State) (e : Nat), s.fetchPick c = some e → e < 6 ∧ s.wantsFetch c e = true ∧
    ∀ f, f < 6 → s.wantsFetch c f = true → (s.eng c f).freeBytes f ≤ (s.eng c e).freeBytes e) ∧
  (∀ (c : Fin 64) (e : Fin 6) (n : Nat) (i : Issued) (s : State), (s.eng c e).out[n]? = some i → i.opc ≠ haltOpc e →
    s.still c = false → s.canComplete c e n i = true →
    let u := s.setEng c e { s.eng c e with out := (s.eng c e).out.eraseIdx n }
    exec (.instructionComplete c e n) s = .next (((u.freeUnit c e i).signals c e i.pc true i.sig0 i.sig1).tryHalt c e) ∧
    (i.sig0 = 0 → i.sig1 = 0 → (∀ j ∈ (s.eng c e).out, j.opc ≠ haltOpc e) → ∃ t, exec (.instructionComplete c e n) s = .next t ∧
      t.eng c e = { s.eng c e with out := (s.eng c e).out.eraseIdx n } ∧ CoreOnly s t ∧ OtherCores s t c ∧ t.regs = s.regs ∧
      ∀ f, f ≠ e.val → t.eng c f = s.eng c f))

/-- R51, R78, R92, R94: RUN starts a halted engine at its start address and lets a stopped one go on; STOP stops a running engine;
TALLY_CLEAR and QUEUE_CLEAR clear a core whose engines are all at rest. A write by a path consumes the path's latch (R36).
R41, R42, R94: a write of ISL_CORE_FREQ to an unlocked island changes its step; a running core's clock is held until the PLL relocks, and then
CUR shows the step; a reserved step is refused. -/
def Obligations.CoreControlAndFrequency : Prop :=
  (∀ (c : Fin 64) (path : Path) (s : State), s.mayWrite path (Reg.coreBase c) = true →
      (∀ (e : Fin 6), let start := s.fld (Reg.engStart c e) 0 20
        (s.eng c e).st = .halted → (s.eng c e).dhold = false → s.coreInReset c = false → s.inCode c start = true → start % insnSize e = 0 →
        exec (.run c path (BitVec.ofNat 6 (2 ^ e.val))) s =
          .next ((s.accessed path).setEng c e { s.eng c e with st := .issuing, pc := start, iq := [], loops := [] })) ∧
      (∀ (e : Fin 6), (s.eng c e).st = .stopped → (s.eng c e).dhold = false → s.coreInReset c = false →
        exec (.run c path (BitVec.ofNat 6 (2 ^ e.val))) s = .next ((s.accessed path).setEng c e { s.eng c e with st := .issuing })) ∧
      (∀ (e : Fin 6), (s.eng c e).st.runs = true → ∃ t, exec (.stop c path (BitVec.ofNat 6 (2 ^ e.val))) s = .next t ∧
        (t.eng c e).st = .stopped ∧ (t.eng c e).pc = (s.eng c e).pc ∧ (t.eng c e).loops = (s.eng c e).loops ∧ OtherCores s t c ∧
        t.mem = s.mem ∧ t.regs = s.regs ∧ (∀ f, f ≠ e.val → t.eng c f = s.eng c f) ∧ (e.val = 4 → (t.core c).str.window = none)) ∧
      (s.coreRuns c = false → ∃ t, exec (.tallyClear c path) s = .next t ∧ (∀ k, t.tally c k = 0) ∧ CoreOnly (s.accessed path) t ∧ OtherCores s t c ∧
        GKept s t c ∧ ∀ e, t.eng c e = s.eng c e) ∧
      (s.coreRuns c = false → ∃ t, exec (.queueClear c path) s = .next t ∧ CoreOnly (s.accessed path) t ∧ OtherCores s t c ∧ GKept s t c ∧
        t.eng c 5 = s.eng c 5 ∧ ∀ e, e < 5 → t.eng c e = { s.eng c e with aq := [], pq := [], aqNew := [], pqNew := [] })) ∧
  (∀ (c : Fin 64) (path : Path) (v : BitVec 32) (s : State),
      let r := Reg.coreFreq c
      let step := bitsOf v.toNat 0 4
      (s.mayWrite path r = true → step < 13 → s.locked path r = false → s.measuresWrites = false → s.fld r 31 1 = 0 →
        (s.core c).clkOn = true → step ≠ s.fld r 16 4 →
        ∃ t, exec (.coreFreqChange c path v) s = .next t ∧ t.fld r 0 4 = step ∧ t.fld r 31 1 = 1 ∧ t.fld r 16 4 = s.fld r 16 4 ∧
          (t.core c).clkHeld = true ∧ CoreOnly (s.accessed path) t ∧ OtherCores s t c ∧ (∀ e, t.eng c e = s.eng c e) ∧ RegsOnly s t (fun off => off = r)) ∧
      (s.mayWrite path r = true → 13 ≤ step → exec (.coreFreqChange c path v) s = .next ((s.accessed path).unmapped r)) ∧
      (s.fld r 31 1 = 1 → (s.core c).kept = none →
        ∃ t, exec (.coreFreqRelockDone c) s = .next t ∧ t.fld r 16 4 = s.fld r 0 4 ∧ t.fld r 31 1 = 0 ∧ (t.core c).clkHeld = false ∧
          CoreOnly s t ∧ OtherCores s t c ∧ (∀ e, t.eng c e = s.eng c e) ∧ RegsOnly s t (fun off => off = r)))

/-! ### The outer-product engines and the thin-path engine -/

/-- R106, R110, R113, R115, R125, R133: MMA takes its pair count, activates the bank it names, gives an empty bank its type and occupies the feed
unit; SWAP changes the active bank. A swap first lets the device fix what bank phases are due (r), and is refused where one is not. The parts
below are what the instruction does beside the issue itself. -/
def Obligations.OuterFeedIssue : Prop :=
  ∀ (c : Fin 64) (e : Fin 2) (w : EngW) (s : State),
    let m := mmaOp w.opnd
    let r := if m.swb then s.fixPhases c e 3 else s
    let k := r.eng c e
    let o := r.ope c e
    let b := if m.swb then 1 - o.active else o.active
    let now := (r.core c).cycles
    (∀ (n : W32) (rest : List W32), s.mayIssue c e 0x10 w = true → w.opnd.toNat < 2 ^ 13 → m.fa ≤ 10 → m.fb ≤ 10 → o.feed = none →
      k.pq = n :: rest → n ≠ 0 → m.refused = false → (o.ty b = 0 ∨ o.ty b = classType (opClass m.fa)) →
      (m.swb = true → o.swapEarly now = none) →
      ∃ u i, exec (.mma c e w) s = .next (s.issued u c e w none (some i)) ∧ CoreOnly r u ∧ OtherCores r u c ∧ u.regs = r.regs ∧
        i.pc = k.pc ∧ i.opc = 0x10 ∧ i.sig0 = w.sig0 ∧ i.sig1 = w.sig1 ∧ u.eng c e = { k with pq := rest } ∧
        (u.ope c e).active = b ∧ (u.ope c e).ty b = classType (opClass m.fa) ∧ (u.ope c e).bank0 = o.bank0 ∧ (u.ope c e).bank1 = o.bank1 ∧
        ∃ f, (u.ope c e).feed = some f ∧ f.left = n.toNat ∧ f.fed = 0 ∧ f.opnd = w.opnd ∧ f.issued = now ∧ f.next = now + 1) ∧
    (∀ (rest : List W32), s.mayIssue c e 0x10 w = true → w.opnd.toNat < 2 ^ 13 → m.fa ≤ 10 → m.fb ≤ 10 → o.feed = none →
      k.pq = 0 :: rest → m.refused = false → (m.swb = true → o.swapEarly now = none) →
      ∃ u, exec (.mma c e w) s = .next (s.issued u c e w none none) ∧ CoreOnly r u ∧ OtherCores r u c ∧
        u.eng c e = { k with pq := rest } ∧ u.ope c e = { o with active := b }) ∧
    (let r := s.fixPhases c e 3
     let o := r.ope c e
     (s.mayIssue c e 0x11 w = true → w.opnd = 0 → o.feed = none → o.swapEarly (r.core c).cycles = none →
       exec (.swap c e w) s = .next (s.issued (r.setOpe c e { o with active := 1 - o.active }) c e w none none)) ∧
     (∀ x d2 d3, s.mayIssue c e 0x11 w = true → w.opnd = 0 → o.feed = none → o.swapEarly (r.core c).cycles = some (x, d2, d3) →
       exec (.swap c e w) s = .next (s.precise c e 0x131 x d2 d3)))

/-- R96, R103, R109: a pair of the running MMA is popped and its steps accumulate into every cell of the active bank, and the next pair follows
no earlier than those steps allow; the other bank, memory and the registers but for the pair counter and the flags stay; the last read frees
the feed unit and completes the MMA. -/
def Obligations.PairsAccumulate : Prop :=
  ∀ (c : Fin 64) (e : Fin 2) (s : State) (f : Feed),
    let o := s.ope c e
    let m := mmaOp f.opnd
    let steps := classSteps (opClass m.fa)
    let now := (s.core c).cycles
    o.feed = some f → s.still c = false →
    (∀ (x : W64) (rest : List W64), (s.eng c e).aq = x :: rest → f.left ≠ 0 → f.next ≤ now →
      pairOk m x = true → ∃ t, exec (.mmaPairBegin c e) s = .next t ∧
        (∀ i j, i < 32 → j < 32 → cellAt ((t.ope c e).bank o.active) i j =
          (s.cellPair c (bitsOf x.toNat 0 20) (bitsOf x.toNat 32 20) m i j (cellAt (o.bank o.active) i j)).1) ∧
        (o.active = 0 → (t.ope c e).bank1 = o.bank1) ∧ (o.active = 1 → (t.ope c e).bank0 = o.bank0) ∧
        (t.ope c e).feed = some { f with left := f.left - 1, fed := f.fed + 1, next := now + steps } ∧ t.eng c e = { s.eng c e with aq := rest } ∧
        CoreOnly s t ∧ OtherCores s t c ∧ (t.reg (Reg.opeFed c e)) = s.reg (Reg.opeFed c e) + 1 ∧
        RegsOnly s t (fun off => PmuOf c off ∨ off = Reg.opeFed c e ∨ off = Reg.opeFlags c e)) ∧
    (∀ (x : W64) (rest : List W64), (s.eng c e).aq = x :: rest → f.left ≠ 0 → f.next ≤ now →
      pairOk m x = false → ∃ t, exec (.mmaPairBegin c e) s = .next t ∧ (t.eng c e).st = .faulted ∧ (t.eng c e).fault = 0x133 ∧
        (t.ope c e).feed = none ∧ (t.ope c e).bank0 = o.bank0 ∧ (t.ope c e).bank1 = o.bank1 ∧ t.mem = s.mem) ∧
    (f.left = 0 → f.next + (if m.ta ∨ m.tb then steps else 0) ≤ now + 1 →
      exec (.mmaLastRead c e) s = .next ((s.setOpe c e ({ o with feed := none }.setLast o.active now)).retire c e f.pc 0x10))

/-- R114, R116, R121: DRP issues with its mask and entry popped, joins the bank unit's queue with the shadow bank and its type, and gives the
bank the type its preload leaves. R123: STG takes an entry into a staging buffer. R124: SRS saves or loads the seed. -/
def Obligations.OuterDrainIssue : Prop :=
  ∀ (c : Fin 64) (e : Fin 2) (w : EngW) (s : State),
    let o := s.ope c e
    let k := s.eng c e
    let sh := 1 - o.active
    (s.mayIssue c e 0x12 w = true → drpOwn w.opnd = true → (o.bankQueue (s.core c).cycles).length < 2 → (∀ i ∈ k.out, i.opc ≠ 0x14) →
      (drpMasked w.opnd = true → k.pq ≠ []) → (drpEntry w.opnd = true → k.aq ≠ [] ∧ drpEntryOk w.opnd (k.aq.headD 0) = true) →
      drpRefused w.opnd (o.ty sh) (if drpMasked w.opnd then k.pq.headD 0 else 0)
        (decide (1 ≤ (o.stages.filter (·.freeAt.isNone)).length - (o.drps.filter (fun d => d.d0.isNone && drpPre d.opnd == 4)).length)) = false →
      ∃ u i d, exec (.drp c e w) s = .next (s.issued u c e w none (some i)) ∧ CoreOnly s u ∧ OtherCores s u c ∧ u.regs = s.regs ∧
        i.pc = k.pc ∧ i.opc = 0x12 ∧ (u.ope c e).drps = o.drps ++ [d] ∧ d.pc = k.pc ∧ d.opnd = w.opnd ∧ d.bank = sh ∧ d.ty = o.ty sh ∧
        d.d0 = none ∧ d.issued = (s.core c).cycles ∧ (u.ope c e).bank0 = o.bank0 ∧ (u.ope c e).bank1 = o.bank1 ∧
        (u.ope c e).ty sh = (if drpPre w.opnd = 0 then o.ty sh else if drpPre w.opnd = 1 then 0 else 1) ∧
        (u.eng c e).pq = (if drpMasked w.opnd then k.pq.drop 1 else k.pq) ∧ (u.eng c e).aq = (if drpEntry w.opnd then k.aq.drop 1 else k.aq)) ∧
    (∀ (x : W64) (rest : List W64), s.mayIssue c e 0x13 w = true → w.opnd.toNat < 64 → stgFmt w.opnd ≤ 10 → stgFmt w.opnd ≠ 9 →
      (o.stagesInUse (s.core c).cycles).length < 2 → k.aq = x :: rest → (w.opnd.getLsbD 4 = true → stgFmt w.opnd < 4) →
      bitsOf x.toNat 20 44 = 0 → fits (bitsOf x.toNat 0 20) (tileBytes (stgFmt w.opnd)) (if w.opnd.getLsbD 4 then 4 else 0) 4 = true →
      ∃ u i g, exec (.stg c e w) s = .next (s.issued u c e w none (some i)) ∧ CoreOnly s u ∧ OtherCores s u c ∧ i.pc = k.pc ∧ i.opc = 0x13 ∧
        u.eng c e = { k with aq := rest } ∧ (u.ope c e).stages = o.stagesInUse (s.core c).cycles ++ [g] ∧ g.pc = k.pc ∧ g.opnd = w.opnd ∧
        g.entry = x ∧ g.done = none ∧ g.freeAt = none ∧ g.from_ = (s.core c).cycles) ∧
    (∀ (x : W64) (rest : List W64), let a := bitsOf x.toNat 0 20
      s.mayIssue c e 0x14 w = true → o.drps = [] → (∀ i ∈ k.out, i.opc ≠ 0x14) → k.aq = x :: rest → bitsOf x.toNat 20 44 = 0 →
      a % 8 = 0 → a + 8 ≤ 0xC0000 →
      (w.opnd = 0 → ∃ u i, exec (.srs c e w) s = .next (s.issued u c e w none (some i)) ∧ u.eng c e = { k with aq := rest } ∧
        u.rdLE (storeKey c a) 8 = (s.reg (Reg.opeSeed c e)).toNat ∧ MemOnly s u (Within (storeKey c a) 8) ∧ u.regs = s.regs ∧ CoreMem s u) ∧
      (w.opnd = 1 → ∃ u i, exec (.srs c e w) s = .next (s.issued u c e w none (some i)) ∧ u.eng c e = { k with aq := rest } ∧
        (u.reg (Reg.opeSeed c e)).toNat = s.rdLE (storeKey c a) 8 ∧ RegsOnly s u (fun off => off = Reg.opeSeed c e) ∧ CoreOnly s u))

/-- R114, R115, R118, R119, R123: once its conditions have come about, the oldest waiting DRP's bank phase begins: the bank takes its preload,
computed from what stood before, and an overwrite stores, or an add-into adds, every live row in accumulator memory; a DRP completes after its
last write; a staged tile is read in its order, 64 bytes in a cycle. -/
def Obligations.OuterDrainEffects : Prop :=
  ∀ (c : Fin 64) (e : Fin 2) (s : State),
    let o := s.ope c e
    let now := (s.core c).cycles
    (∀ (d : Drp) (d0 : Nat), o.drps.find? (·.d0.isNone) = some d → o.earliest d = some d0 → d0 ≤ now + 2 → d.bank ≤ 1 → s.still c = false →
      ∃ t, exec (.bankPhaseStart c e) s = .next t ∧ (t.ope c e).lastD0 = some d0 ∧ OtherCores s t c ∧ CoreMem s t ∧
        (∀ f, t.eng c f = s.eng c f) ∧ (t.ope c e).bank (1 - d.bank) = o.bank (1 - d.bank) ∧
        (drpPre d.opnd = 0 → (t.ope c e).bank d.bank = o.bank d.bank) ∧
        (drpPre d.opnd = 1 → ∀ i j, cellAt ((t.ope c e).bank d.bank) i j = 0) ∧
        (drpPre d.opnd = 3 → ∀ i j, i < 32 → j < 32 → cellAt ((t.ope c e).bank d.bank) i j = s.accWord c e (drpProw d.opnd + i) j) ∧
        (drpMode d.opnd = 0 → t.mem = s.mem) ∧
        (drpMode d.opnd = 1 → drpRow d.opnd ≤ 992 → ∀ i j, i < 32 → j < 32 → t.accWord c e (drpRow d.opnd + i) j =
          if d.mask.getLsbD i then s.accWord c e (drpRow d.opnd + i) j else cellAt (o.bank d.bank) i j) ∧
        (drpMode d.opnd = 2 → drpRow d.opnd ≤ 992 → ∀ i j, i < 32 → j < 32 →
          let old := s.accWord c e (drpRow d.opnd + i) j
          t.accWord c e (drpRow d.opnd + i) j =
            if d.mask.getLsbD i then old else if d.ty = 2 then old + cellAt (o.bank d.bank) i j else add32 old (cellAt (o.bank d.bank) i j))) ∧
    (∀ (d : Drp), o.drps.find? (fun d => match d.d0 with | some n => decide (n + drpCycles d.opnd ≤ now) | none => false) = some d →
      s.still c = false →
      ∃ u, exec (.drpComplete c e) s = .next (u.retire c e d.pc 0x12) ∧ CoreOnly s u ∧ OtherCores s u c ∧ (u.ope c e).drps = o.drps.erase d ∧
        (u.ope c e).bank0 = o.bank0 ∧ (u.ope c e).bank1 = o.bank1 ∧ u.regs = s.regs) ∧
    (∀ (g : Stage), o.stages.find? (·.done.isNone) = some g → s.still c = false →
      max g.from_ (o.stages.foldl (fun n g => max n (g.done.getD 0)) 0) + stgCycles g.opnd ≤ now →
      ∃ u g', exec (.stgComplete c e) s = .next (u.retire c e g.pc 0x13) ∧ CoreOnly s u ∧ OtherCores s u c ∧ u.regs = s.regs ∧
        g' ∈ (u.ope c e).stages ∧ g'.entry = g.entry ∧ g'.done = some now ∧
        ∀ i j, i < 32 → j < 32 → cellAt g'.tile i j =
          (let a := bitsOf g.entry.toNat 0 20
           if g.opnd.getLsbD 5 then s.tileWord c a (stgFmt g.opnd) (g.opnd.getLsbD 4) j i
           else s.tileWord c a (stgFmt g.opnd) (g.opnd.getLsbD 4) i j))

/-- R165 to R173: TMV takes its tile count; TLDX widens its vectors into the x buffer; TSTY stores its y vectors, narrowed, and with ZY clears
them; TZY clears its tiles of y; a tile of TMV accumulates into its n-tile of y and into nothing else. -/
def Obligations.ThinPath : Prop :=
  ∀ (c : Fin 64) (w : EngW) (s : State),
    let k := s.eng c 2
    let free := s.tpeFree c = true
    (∀ (n : W32) (rest : List W32), let m := tmvOp w.opnd
      s.mayIssue c 2 0x10 w = true → w.opnd.toNat < 512 → free → k.pq = n :: rest → n ≠ 0 → m.fmt ≤ 8 → (m.ts = true → m.fmt < 4) →
      ∃ u i, exec (.tmv c w) s = .next (s.issued u c 2 w none (some i)) ∧ CoreOnly s u ∧ OtherCores s u c ∧ u.eng c 2 = { k with pq := rest } ∧
        i.pc = k.pc ∧ i.opc = 0x10 ∧ (u.tpe c).x = (s.tpe c).x ∧ (u.tpe c).y = (s.tpe c).y ∧
        ∃ f, (u.tpe c).feed = some f ∧ f.left = n.toNat ∧ f.fed = 0 ∧ f.opnd = w.opnd) ∧
    (∀ (f : Feed) (x : W64) (rest : List W64), let m := tmvOp f.opnd
      (s.tpe c).feed = some f → k.aq = x :: rest → f.left ≠ 0 → (s.tpe c).busyUntil + 1 ≤ (s.core c).cycles →
      s.still c = false → wEntryOk m x = true →
      ∃ t, exec (.tmvTileBegin c) s = .next t ∧ CoreOnly s t ∧ OtherCores s t c ∧ t.eng c 2 = { k with aq := rest } ∧
        (t.tpe c).x = (s.tpe c).x ∧ (t.tpe c).feed = some { f with left := f.left - 1, fed := f.fed + 1 } ∧
        (t.reg (Reg.tpeFed c)) = s.reg (Reg.tpeFed c) + 1 ∧
        RegsOnly s t (fun off => PmuOf c off ∨ off = Reg.tpeFed c) ∧
        (∀ v j, v < 8 → j < 1024 → (m.mm ≤ v ∨ j / 32 ≠ bitsOf x.toNat 40 5) →
          Tab.get (fun _ => 0) (t.tpe c).y (1024 * v + j) = Tab.get (fun _ => 0) (s.tpe c).y (1024 * v + j)) ∧
        ∀ v j, v < m.mm → j < 32 → let q := 1024 * v + 32 * bitsOf x.toNat 40 5 + j
          Tab.get (fun _ => 0) (t.tpe c).y q =
            s.thinCell c (bitsOf x.toNat 0 20) m (bitsOf x.toNat 32 5) v j (Tab.get (fun _ => 0) (s.tpe c).y q)) ∧
    (∀ (x : W64) (rest : List W64), let o := w.opnd.toNat
      let f := bitsOf o 3 4
      let n := bitsOf o 12 5 + 1
      let a := bitsOf x.toNat 0 20
      s.mayIssue c 2 0x11 w = true → o < 2 ^ 17 → free → k.aq = x :: rest → vecFmt f = true → bitsOf o 7 5 + n ≤ 32 →
      bitsOf x.toNat 20 44 = 0 → fits a (32 * n * vecBytes f) 0 (vecBytes f) = true →
      ∃ u i, exec (.tldx c w) s = .next (s.issued u c 2 w none (some i)) ∧ CoreOnly s u ∧ OtherCores s u c ∧ u.eng c 2 = { k with aq := rest } ∧
        (u.tpe c).y = (s.tpe c).y ∧
        ∀ q, Tab.get (fun _ => 0) (u.tpe c).x q =
          (let q0 := 1024 * bitsOf o 0 3 + 32 * bitsOf o 7 5
           if q0 ≤ q ∧ q < q0 + 32 * n then widen f (s.rdLE (storeKey c (a + vecBytes f * (q - q0))) (vecBytes f)) none
           else Tab.get (fun _ => 0) (s.tpe c).x q)) ∧
    (∀ (x : W64) (rest : List W64), let o := w.opnd.toNat
      let mm := bitsOf o 0 3 + 1
      let n := bitsOf o 8 5 + 1
      let f := bitsOf o 13 4
      let at_ := fun v => bitsOf x.toNat 0 20 + v * bitsOf x.toNat 32 20
      s.mayIssue c 2 0x12 w = true → o < 2 ^ 18 → free → k.aq = x :: rest → vecFmt f = true → bitsOf o 3 5 + n ≤ 32 →
      bitsOf x.toNat 20 12 = 0 → bitsOf x.toNat 52 12 = 0 → (∀ v, v < mm → fits (at_ v) (32 * n * vecBytes f) 0 (vecBytes f) = true) →
      ∃ u i, exec (.tsty c w) s = .next (s.issued u c 2 w none (some i)) ∧ CoreMem s u ∧ OtherCores s u c ∧ u.eng c 2 = { k with aq := rest } ∧
        (u.tpe c).x = (s.tpe c).x ∧ (w.opnd.getLsbD 17 = false → (u.tpe c).y = (s.tpe c).y) ∧
        (w.opnd.getLsbD 17 = true → ∀ q, Tab.get (fun _ => 0) (u.tpe c).y q =
          if q / 1024 < mm ∧ 32 * bitsOf o 3 5 ≤ q % 1024 ∧ q % 1024 < 32 * (bitsOf o 3 5 + n) then 0 else Tab.get (fun _ => 0) (s.tpe c).y q) ∧
        (∀ v i, v < mm → i < 32 * n →
          (∀ v', v < v' → v' < mm → at_ v + 32 * n * vecBytes f ≤ at_ v' ∨ at_ v' + 32 * n * vecBytes f ≤ at_ v) →
          u.rdLE (storeKey c (at_ v + vecBytes f * i)) (vecBytes f) =
            (narrowTo f .rne (Tab.get (fun _ => 0) (s.tpe c).y (1024 * v + 32 * bitsOf o 3 5 + i))).1 % 2 ^ (8 * vecBytes f)) ∧
        RegsOnly s u (fun off => off = Reg.tpeFlags c) ∧
        MemOnly s u (fun b => ∃ v, v < mm ∧ Within (storeKey c (at_ v)) (32 * n * vecBytes f) b)) ∧
    (let k0 := bitsOf w.opnd.toNat 0 5
     let n := bitsOf w.opnd.toNat 5 5 + 1
     s.mayIssue c 2 0x13 w = true → w.opnd.toNat < 1024 → free → k0 + n ≤ 32 →
      ∃ u i, exec (.tzy c w) s = .next (s.issued u c 2 w none (some i)) ∧ CoreOnly s u ∧ OtherCores s u c ∧ (u.tpe c).x = (s.tpe c).x ∧
        ∀ q, Tab.get (fun _ => 0) (u.tpe c).y q =
          if 32 * k0 ≤ q % 1024 ∧ q % 1024 < 32 * (k0 + n) then 0 else Tab.get (fun _ => 0) (s.tpe c).y q)

/-! ### The vector engine -/

/-- R178, R185 to R189, R192: the lane functions, each lane of VD from the same lane of its operands, and the cycles after which VD is
readable; a reserved FUNC of VPERM or VCMP is refused (INSN_RSVD). -/
def Obligations.VectorLaneFunctions : Prop :=
  ∀ (c : Fin 64) (w : EngW) (s : State),
    let vd := bitsOf w.opnd.toNat 0 6
    let a := s.lane c (fVA w)
    let b := s.lane c (fVB w)
    let x := s.lane c (fVC w)
    let idle := fun (l : List Nat) => ∀ n ∈ l ++ [vd], s.vLeft c n = 0
    let writes := fun (k : Instr) (lat : Nat) (val : Nat → W32) =>
      ∃ u i, exec k s = .next (s.issued u c 3 w none (some i)) ∧ i.pc = (s.eng c 3).pc ∧ VecWrites s u c vd lat val ∧
        ∀ e, u.eng c e = s.eng c e
    (∀ (f lat : Nat) (val : Nat → W32),
      (f, lat, val) ∈ [(0, 4, fun i => add32 (a i) (b i)), (1, 4, fun i => add32 (a i) (b i ^^^ 0x80000000)), (2, 4, fun i => mul32 (a i) (b i)),
        (5, 4, fun i => minMax32 false (a i) (b i)), (6, 4, fun i => minMax32 true (a i) (b i)), (9, 2, fun i => a i + b i),
        (10, 2, fun i => a i &&& b i), (11, 2, fun i => a i ||| b i), (12, 2, fun i => a i ^^^ b i),
        (13, 2, fun i => a i <<< ((b i).toNat % 32)), (14, 2, fun i => a i >>> ((b i).toNat % 32))] →
      fFunc w = f → s.mayIssue c 3 0x12 w = true → fVC w = 0 → w.opnd.toNat < 2 ^ 28 → idle [fVA w, fVB w] →
      writes (.varith c w) lat val) ∧
    (fFunc w = 3 → s.mayIssue c 3 0x12 w = true → w.opnd.toNat < 2 ^ 28 → idle [fVA w, fVB w, fVC w] →
      writes (.varith c w) 4 (fun i => fma32 (a i) (b i) (x i))) ∧
    (fFunc w = 4 → s.mayIssue c 3 0x12 w = true → w.opnd.toNat < 2 ^ 28 → idle [fVA w, fVB w, fVC w] →
      writes (.varith c w) 4 (fun i => fma32 (a i ^^^ 0x80000000) (b i) (x i))) ∧
    (fFunc w = 7 → s.mayIssue c 3 0x12 w = true → w.opnd.toNat < 2 ^ 28 → fVB w = 0 → fVC w = 0 → idle [fVA w] →
      writes (.varith c w) 2 (fun i => a i &&& 0x7FFFFFFF)) ∧
    (fFunc w = 8 → s.mayIssue c 3 0x12 w = true → w.opnd.toNat < 2 ^ 28 → fVB w = 0 → fVC w = 0 → idle [fVA w] →
      writes (.varith c w) 2 (fun i => a i ^^^ 0x80000000)) ∧
    (fFunc w ≤ 6 → s.mayIssue c 3 0x13 w = true → w.opnd.toNat < 2 ^ 28 → fVC w = 0 → idle [fVA w, fVB w] →
      writes (.vcmp c w) 2 (fun i => vcmp (fFunc w) (a i) (b i))) ∧
    (fFunc w = 0 → s.mayIssue c 3 0x14 w = true → w.opnd.toNat < 2 ^ 28 → idle [fVA w, fVB w, fVC w] →
      writes (.vsel c w) 2 (fun i => if x i = 0 then b i else a i)) ∧
    (fFunc w = 0 → s.mayIssue c 3 0x16 w = true → w.opnd.toNat < 2 ^ 28 → fVC w = 0 → idle [fVA w, fVB w] →
      writes (.vperm c w) 3 (fun i => a ((b i).toNat % 64))) ∧
    (1 ≤ fFunc w → fFunc w ≤ 3 → s.mayIssue c 3 0x16 w = true → w.opnd.toNat < 2 ^ 28 → fVC w = 0 → idle [fVA w] →
      writes (.vperm c w) 3 (fun i => if fFunc w = 1 then a (fVB w) else if fFunc w = 2 then a ((i + fVB w) % 64) else a (i ^^^ fVB w))) ∧
    (4 ≤ fFunc w → s.atWord c 3 (engEnc w 0x16) = true → exec (.vperm c w) s = .next (s.precise c 3 0x101 0 0 0)) ∧
    (7 ≤ fFunc w → s.atWord c 3 (engEnc w 0x13) = true → exec (.vcmp c w) s = .next (s.precise c 3 0x101 0 0 0)) ∧
    (fFunc w ≤ 5 → s.mayIssue c 3 0x18 w = true → w.opnd.toNat < 2 ^ 28 → fVB w = 0 → fVC w = 0 → idle [fVA w] →
      (∀ n, (s.vec c).sfuAt = some n → n + 2 ≤ (s.core c).cycles) → writes (.vsfu c w) 12 (fun i => (vsfu (fFunc w) (a i)).1)) ∧
    (s.mayIssue c 3 0x19 w = true → w.opnd.toNat < 2 ^ 39 → idle [] →
      writes (.vmovi c w) 1 (fun i => BitVec.ofNat 32 (bitsOf w.opnd.toNat 6 32) + (if w.opnd.getLsbD 38 then BitVec.ofNat 32 i else 0))) ∧
    (∀ (n : W32) (rest : List W32), s.mayIssue c 3 0x1A w = true → w.opnd.toNat < 64 → (s.eng c 3).pq = n :: rest → idle [] →
      ∃ u i, exec (.vbcq c w) s = .next (s.issued u c 3 w none (some i)) ∧ VecWrites s u c vd 1 (fun _ => n) ∧
        u.eng c 3 = { s.eng c 3 with pq := rest })

/-- R187, R189, R190: VRED gives every lane of a group of 2^g lanes the group's sum, minimum or maximum by a tree of adjacent pairs; VCVT
converts, and with SR draws one value for each lane and advances the generator.
R179, R195: a VARITH of two registers that reads a pending VA, and a VMOVI into a pending VD, is VEC_HAZARD, and a VLD or VST whose offset runs past
the store room VEC_RANGE, each without effect; VLD and VBCQ on an empty queue stall. -/
def Obligations.VectorReduceConvertAndStops : Prop :=
  (∀ (c : Fin 64) (w : EngW) (s : State),
      let vd := bitsOf w.opnd.toNat 0 6
      let a := s.lane c (fVA w)
      let idle := s.vLeft c (fVA w) = 0 ∧ s.vLeft c vd = 0
      (fFunc w = 0 ∨ fFunc w = 5 ∨ fFunc w = 6 → 1 ≤ fSub w → fSub w ≤ 6 → s.mayIssue c 3 0x15 w = true → w.opnd.toNat < 2 ^ 32 →
        fVB w = 0 → fVC w = 0 → idle →
        ∃ u i, exec (.vred c w) s = .next (s.issued u c 3 w none (some i)) ∧
          VecWrites s u c vd (2 + 2 * fSub w) (fun i => ((redTree (fFunc w) (fSub w) (s.lanes c (fVA w))).1[i / 2 ^ fSub w]?).getD 0)) ∧
      (s.mayIssue c 3 0x17 w = true → w.opnd.toNat < 2 ^ 32 → fVB w = 0 → fVC w = 0 → idle →
        ((fFunc w = 0 ∧ (fSub w ≤ 3 ∨ fSub w = 11)) ∨ ((fFunc w = 1 ∨ fFunc w = 2) ∧ fSub w = 0)) →
        ∃ u i, exec (.vcvt c w) s = .next (s.issued u c 3 w none (some i)) ∧
          VecWrites s u c vd 4 (fun i => (vcvt (fFunc w) (fSub w) .rne (a i)).1)) ∧
      (s.mayIssue c 3 0x17 w = true → 2 ^ 32 ≤ w.opnd.toNat → w.opnd.toNat < 2 ^ 33 → fVB w = 0 → fVC w = 0 → idle →
        fFunc w = 0 → (fSub w ≤ 3 ∨ fSub w = 11) → (s.vec c).seedLoad = false →
        ∃ u i, exec (.vcvt c w) s = .next (s.issued u c 3 w none (some i)) ∧
          (∀ i, i < 64 → u.lane c vd i = (vcvt 0 (fSub w) (.sr (((drawList (s.reg (Reg.vecSeed c)) 64).2[i]?).getD 0)) (a i)).1) ∧
          u.reg (Reg.vecSeed c) = (drawList (s.reg (Reg.vecSeed c)) 64).1 ∧ u.vLeft c vd = 4 ∧
          (∀ n i, n ≠ vd → i < 64 → u.lane c n i = s.lane c n i) ∧ CoreOnly s u ∧ OtherCores s u c ∧
          RegsOnly s u (fun off => off = Reg.vecFlags c ∨ off = Reg.vecSeed c))) ∧
  (∀ (c : Fin 64) (w : EngW) (s : State),
      (∀ f, f = fFunc w → 9 ≤ f → f ≤ 14 → s.mayIssue c 3 0x12 w = true → fVC w = 0 → w.opnd.toNat < 2 ^ 28 → 0 < s.vLeft c (fVA w) →
        exec (.varith c w) s = .next (s.precise c 3 0x151 (fVA w) (s.vLeft c (fVA w)) 0)) ∧
      (let vd := bitsOf w.opnd.toNat 0 6
       s.mayIssue c 3 0x19 w = true → w.opnd.toNat < 2 ^ 39 → 0 < s.vLeft c vd →
        exec (.vmovi c w) s = .next (s.precise c 3 0x151 vd (s.vLeft c vd) 0)) ∧
      (s.mayIssue c 3 0x11 w = true → memOwn w true = true → memAq w = false → s.vecOverlap c (memRuns w (memOff w)) = false →
        (memSr w = true → (s.vec c).seedLoad = false) → s.vLeft c (bitsOf w.opnd.toNat 0 6) = 0 → 0xC0000 < memEnd w (memOff w) →
        exec (.vst c w) s = .next (s.precise c 3 0x152 0 (memOff w) 0)) ∧
      (s.mayIssue c 3 0x10 w = true → memOwn w false = true → memAq w = true → (s.eng c 3).aq = [] →
        exec (.vld c w) s = .next (s.stalled c 3 .stallQueue)) ∧
      (s.mayIssue c 3 0x10 w = true → memOwn w false = true → memAq w = false → storesMeet (s.eng c 3).out false (memRuns w (memOff w)) = false →
        s.vLeft c (bitsOf w.opnd.toNat 0 6) = 0 → 0xC0000 < memEnd w (memOff w) →
        exec (.vld c w) s = .next (s.precise c 3 0x152 0 (memOff w) 0)) ∧
      (s.mayIssue c 3 0x1A w = true → w.opnd.toNat < 64 → (s.eng c 3).pq = [] →
        exec (.vbcq c w) s = .next (s.stalled c 3 .stallQueue)))

/-- R180 to R184, R190: VLD reads lanes from the store room, VST writes them, VSEED loads or saves the generator's state; a result becomes
readable once its latency has passed. -/
def Obligations.VectorMemory : Prop :=
  ∀ (c : Fin 64) (w : EngW) (s : State),
    let k := s.eng c 3
    let x := k.aq.headD 0
    let a := if memAq w then bitsOf x.toNat 0 20 + memOff w else memOff w
    let vd := bitsOf w.opnd.toNat 0 6
    let popped := if memAq w then k.aq.drop 1 else k.aq
    let inRange := fun (hi align : Nat) => (memAq w = true → k.aq ≠ [] ∧ x.toNat < 2 ^ 20) ∧ a % align = 0 ∧ hi ≤ 0xC0000
    (s.mayIssue c 3 0x10 w = true → memOwn w false = true → storesMeet (s.eng c 3).out false (memRuns w a) = false → s.vLeft c vd = 0 →
      inRange (memEnd w a) (memAlign w) →
      ∃ u i, exec (.vld c w) s = .next (s.issued u c 3 w none (some i)) ∧ (∀ i, i < 64 → u.lane c vd i = s.loadLane c w a i) ∧
        (∀ n i, n ≠ vd → i < 64 → u.lane c n i = s.lane c n i) ∧ u.vLeft c vd = 6 ∧ u.eng c 3 = { k with aq := popped } ∧
        CoreOnly s u ∧ OtherCores s u c ∧ u.regs = s.regs) ∧
    (s.mayIssue c 3 0x11 w = true → memOwn w true = true → s.vecOverlap c (memRuns w a) = false → s.vLeft c vd = 0 →
      (memSr w = true → (s.vec c).seedLoad = false) → inRange (memEnd w a) (memAlign w) →
      ∃ u i, exec (.vst c w) s = .next (s.issued u c 3 w none (some i)) ∧ CoreMem s u ∧ OtherCores s u c ∧ u.eng c 3 = { k with aq := popped } ∧
        (u.core c).vec = (s.core c).vec ∧
        MemOnly s u (fun b => Within (storeKey c (memRuns w a).1.1) (memRuns w a).1.2 b ∨
          Within (storeKey c (memRuns w a).2.1) (memRuns w a).2.2 b) ∧
        RegsOnly s u (fun off => off = Reg.vecFlags c ∨ off = Reg.vecSeed c) ∧ (memSr w = false → u.reg (Reg.vecSeed c) = s.reg (Reg.vecSeed c)) ∧
        (memFmt w = 10 → ∀ i, i < memCnt w → u.rdLE (storeKey c (a + 4 * i)) 4 = (s.lane c vd i).toNat)) ∧
    (s.mayIssue c 3 0x1B w = true → bitsOf w.opnd.toNat 1 9 = 0 → bitsOf w.opnd.toNat 11 9 = 0 →
      s.vecOverlap c ((a, 8), (0, 0)) = false → inRange (a + 8) 8 →
      (w.opnd.getLsbD 0 = true → ∃ u i, exec (.vseed c w) s = .next (s.issued u c 3 w none (some i)) ∧ CoreOnly s u ∧
        u.eng c 3 = { k with aq := popped } ∧ (u.reg (Reg.vecSeed c)).toNat = s.rdLE (storeKey c a) 8 ∧
        RegsOnly s u (fun off => off = Reg.vecSeed c) ∧ (u.core c).vec.v = (s.core c).vec.v) ∧
      (w.opnd.getLsbD 0 = false → ∃ u i, exec (.vseed c w) s = .next (s.issued u c 3 w none (some i)) ∧ CoreMem s u ∧ u.regs = s.regs ∧
        u.eng c 3 = { k with aq := popped } ∧ u.rdLE (storeKey c a) 8 = (s.reg (Reg.vecSeed c)).toNat ∧
        MemOnly s u (Within (storeKey c a) 8))) ∧
    (∀ v : BitVec 6, s.vLeft c v.toNat = 0 → ∃ t, exec (.vecResultReady c v) s = .next t ∧
      Tab.get (fun _ => Pend.no) (t.vec c).pend v.toNat = .no ∧ (t.vec c).v = (s.vec c).v ∧ CoreOnly s t ∧ OtherCores s t c ∧ t.regs = s.regs)

/-! ### The stream engine -/

/-- R226 to R231: the acceptance window opens on the STRM whose conditions hold and keeps what its checks found; four cycles later STRM
issues, takes its entries and starts a slot, or raises the first failed check; a stream with every tile committed and nothing in flight
completes and frees its slot. -/
def Obligations.StreamAcceptance : Prop :=
  ∀ (c : Fin 64) (w : EngW) (s : State),
    let k := s.eng c 4
    (s.mayIssue c 4 0x10 w = true → strmOwn w = true → strmEntries w ≤ k.aq.length → (s.str c).free ≠ none → (s.str c).window = none →
      ∃ t v, exec (.strmWindowOpen c w) s = .next t ∧ (t.str c).window = some v ∧ v.pc = k.pc ∧ v.opened = (s.core c).cycles ∧
        v.d = (s.accept c w).1 ∧ v.bad = (s.accept c w).2 ∧ v.w = w ∧ (t.str c).slots = (s.str c).slots ∧ CoreOnly s t ∧ OtherCores s t c ∧
        (∀ e, t.eng c e = s.eng c e) ∧ t.regs = s.regs) ∧
    (∀ (v : Window) (slot : Nat), s.mayIssue c 4 0x10 w = true → strmOwn w = true → strmEntries w ≤ k.aq.length → (s.str c).window = some v →
      v.pc = k.pc → v.opened + 4 ≤ (s.core c).cycles → v.bad = none → (s.str c).startSlot (s.classOf v.d == 2) = some slot →
      ∃ u i, exec (.strm c w) s = .next ((s.issued u c 4 w none (some i)).setStr c { (s.issued u c 4 w none (some i)).str c with window := none }) ∧
        CoreOnly s u ∧ OtherCores s u c ∧ u.regs = s.regs ∧ u.eng c 4 = { k with aq := k.aq.drop (strmEntries w) } ∧ i.pc = k.pc ∧ i.opc = 0x10 ∧
        (u.strm c slot).state = 1 ∧ (u.strm c slot).d = v.d ∧ (u.strm c slot).total = v.d.total ∧ (u.strm c slot).done = 0 ∧
        (u.strm c slot).cls = s.classOf v.d ∧ (u.strm c slot).epoch = ((s.strm c slot).epoch + 1) % 63 ∧
        ∀ j, j ≠ slot → u.strm c j = s.strm c j) ∧
    (∀ (v : Window) (code n off : Nat), s.mayIssue c 4 0x10 w = true → strmOwn w = true → strmEntries w ≤ k.aq.length →
      (s.str c).window = some v → v.pc = k.pc → v.opened + 4 ≤ (s.core c).cycles → v.bad = some (code, n, off) →
      ∃ t, exec (.strm c w) s = .next t ∧ (t.eng c 4).st = .faulted ∧ (t.eng c 4).fault = code ∧ (t.str c).window = none ∧
        (t.str c).slots = (s.str c).slots ∧ t.mem = s.mem) ∧
    (∀ (slot : Fin 16) (i : Issued), let m := s.strm c slot
      s.still c = false → m.state = 1 → m.stop = none → m.done = m.total → m.filled = m.fills → (∀ f ∈ (s.str c).xfers, f.slot ≠ slot.val) →
      (s.eng c 4).out.find? (fun i => i.pc == m.pc && i.opc == 0x10 && i.sig0 == m.sig0 && i.sig1 == m.sig1) = some i →
      ∃ u, exec (.streamComplete c slot) s = .next ((u.signals c 4 i.pc true i.sig0 i.sig1).tryHalt c 4) ∧ CoreOnly s u ∧ OtherCores s u c ∧
        u.regs = s.regs ∧ (u.strm c slot).state = 0 ∧ (u.eng c 4).out = (s.eng c 4).out.erase i ∧
        ∀ j, j ≠ slot.val → u.strm c j = s.strm c j)

/-- R253 to R258: a local stream's next request starts in its class's turn, the only one of the class in the network cycle, while credit stands,
and charges its cost; list pieces are read at
64 bytes' cost; a transfer arrives once and then retires. -/
def Obligations.StreamTransfers : Prop :=
  ∀ (c : Fin 64) (s : State),
    (∀ (slot : Fin 16) (t part : Nat) (a : W64) (n cost : Nat), let m := s.strm c slot
      s.nextReq c slot = .req t part a n cost → m.cls ≠ 2 → s.turnOf c m.cls = some slot.val → 0 < s.credit c m.cls → (s.str c).inFlight < 768 →
      s.still c = false → s.classBusy c m.cls = false →
      ∃ t' f, exec (.streamRequestStart c slot) s = .next t' ∧ (t'.str c).xfers = (s.str c).xfers ++ [f] ∧ f.slot = slot.val ∧ f.tile = t ∧
        f.off = part ∧ f.len = n ∧ f.arrived = false ∧ f.retired = false ∧ t'.credit c m.cls = s.credit c m.cls - cost ∧
        (m.d.kind = 0 → f.bytes = []) ∧
        (t'.strm c slot).tile = (if part + n = m.d.bytes then t + 1 else t) ∧ (t'.strm c slot).part = (if part + n = m.d.bytes then 0 else part + n) ∧
        (t'.strm c slot).done = m.done ∧ CoreOnly s t' ∧ OtherCores s t' c ∧ (∀ e, t'.eng c e = s.eng c e) ∧
        ∀ j, j ≠ slot.val → t'.strm c j = s.strm c j) ∧
    (∀ (slot : Fin 16) (p : Nat), let m := s.strm c slot
      m.state = 1 → m.stop = none → m.d.list = true → m.nextPiece = some p → (∀ va, britumWindow (p * 64) ≠ .tier va) → 0 < s.credit c 0 →
      (s.str c).inFlight < 768 → s.still c = false → s.classBusy c 0 = false →
      ∃ t, exec (.listPieceRead c slot) s = .next t ∧ (p, s.rdBytes (p * 64) 64) ∈ (t.strm c slot).pieces ∧ t.credit c 0 = s.credit c 0 - 64 ∧
        (t.strm c slot).done = m.done ∧ CoreOnly s t ∧ OtherCores s t c ∧ t.regs = s.regs ∧ ∀ e, t.eng c e = s.eng c e) ∧
    (∀ (n : Nat) (f : Xfer), let m := s.strm c f.slot
      (s.str c).xfers[n]? = some f → f.arrived = false → m.stop = none → m.cls ≠ 2 → s.windowInReset (s.window (m.xferAddr f)) = false →
      (m.d.kind = 0 → (s.window (m.xferAddr f)).onDie = true) →
      ∃ t, exec (.transferArrive c n) s = .next t ∧ CoreOnly s t ∧ OtherCores s t c ∧ t.regs = s.regs ∧ (t.str c).slots = (s.str c).slots ∧
        (t.str c).xfers[n]? = some { f with arrived := true, bytes := if m.d.kind = 0 then s.rdBytes (addrOff (m.xferAddr f)) f.len else f.bytes } ∧
        (∀ j, j ≠ n → (t.str c).xfers[j]? = (s.str c).xfers[j]?) ∧ ∀ e, t.eng c e = s.eng c e) ∧
    (∀ (n : Nat) (f : Xfer), let m := s.strm c f.slot
      (s.str c).xfers[n]? = some f → f.retired = false → f.arrived = true → s.awaitsWrite m f = false → m.stop = none → m.done ≤ f.tile →
      ∃ t, exec (.transferRetire c n) s = .next t ∧ { f with retired := true } ∈ (t.str c).xfers ∧ CoreOnly s t ∧ OtherCores s t c ∧
        t.regs = s.regs ∧ (t.str c).slots = (s.str c).slots ∧ ∀ e, t.eng c e = s.eng c e)

/-- R216, R253, R254, R259: the next tile of a stream into the near side is committed whole: its bytes, transformed, stand at the tile's slot in
the store room and no other byte of memory changes; the tile counts as done, and the group's fill is sent after its last tile. -/
def Obligations.TilesCommitInOrder : Prop :=
  ∀ (c : Fin 64) (slot : Fin 16) (s : State),
    let m := s.strm c slot
    let xs := s.tileXfers c slot m.done
    let commits := fun (bytes : List Byte) =>
      ∃ t, exec (.tileCommit c slot) s = .next t ∧ t.rdBytes (m.nearKey c m.done) bytes.length = bytes ∧
        MemOnly s t (Within (m.nearKey c m.done) bytes.length) ∧ (t.strm c slot).done = m.done + 1 ∧ OtherCores s t c ∧
        (∀ e, t.eng c e = s.eng c e) ∧ t.regN (Reg.strMoved c) = (s.regN (Reg.strMoved c) + m.d.bytes) % 2 ^ 64 ∧
        (∀ j, j ≠ slot.val → t.strm c j = s.strm c j) ∧ t.pegs.word = s.pegs.word ∧
        (m.fillAfter m.done = false → t.pegs = s.pegs ∧ (t.strm c slot).fills = m.fills) ∧
        (m.fillAfter m.done = true → (t.strm c slot).fills = m.fills + 1 ∧ ∃ f, t.pegs.fills = s.pegs.fills ++ [f] ∧ f.peg = m.d.peg)
    m.state = 1 → m.stop = none → m.done < m.total → m.d.kind = 0 → m.nulls = [] → s.still c = false →
    (m.fillAfter m.done = true → (s.str c).inFlight < 768) →
    (∀ off, m.tileAt m.done = .far off → (xs.map (·.len)).foldl (· + ·) 0 = m.d.bytes → (∀ f ∈ xs, f.arrived = true) →
      commits (m.d.apply (xs.flatMap (·.bytes))).1) ∧
    (m.tileAt m.done = .null → commits m.d.zeroTile)

/-- R255, R262, R263, R315: a suspended stream resumes at its first undelivered tile or ends with STR_ABORT and its slot free; an instruction that
names the register of an aborted load takes that load's STR_ABORT, once; STR_SPLIT takes shares that sum to 16 and zeroes the credit of every
class, and refuses others. -/
def Obligations.SuspensionsAndSplit : Prop :=
  (∀ (c : Fin 64) (slot : Fin 16) (s : State), (s.strm c slot).state = 2 →
    (∃ t, exec (.suspensionResume (.stream c slot)) s = .next t ∧ (t.strm c slot).state = 1 ∧ (t.strm c slot).stop = none ∧
      (t.strm c slot).tile = (s.strm c slot).done ∧ (t.strm c slot).part = 0 ∧ (t.strm c slot).done = (s.strm c slot).done ∧
      CoreOnly s t ∧ OtherCores s t c ∧ t.regs = s.regs) ∧
    (∀ (cause : Fin 5) (pkg : BitVec 13), ∃ t, exec (.suspensionAbort (.stream c slot) cause pkg) s = .next t ∧ (t.strm c slot).state = 0 ∧
      (t.eng c 4).st = .faulted ∧ (t.eng c 4).fault = 0x183 ∧ t.mem = s.mem ∧ OtherCores s t c)) ∧
  (∀ (c : Fin 64) (s : State), ∃ t, exec (.suspensionResume (.ctl c)) s = .next t ∧ OtherCores s t c ∧
    (∀ l ∈ (t.core c).loads, l.held = false) ∧ ∀ x ∈ (t.core c).stores, x.held = false) ∧
  (∀ (ch : Fin 64) (x : Send) (s : State), (s.chan ch).send = some x →
    (exec (.suspensionResume (.sender ch)) s = .next (s.setChan ch { s.chan ch with send := some { x with suspended := false } })) ∧
    (∀ cause pkg, x.suspended = true → ∃ t, exec (.suspensionAbort (.sender ch) cause pkg) s = .next t ∧ (t.chan ch).send = none ∧
      (t.chan ch).inst = x.inst + 1 ∧ t.mem = s.mem ∧ t.cores = s.cores)) ∧
  (∀ (c : Fin 64) (cause : Fin 5) (pkg : BitVec 13) (s : State), ∃ t, exec (.suspensionAbort (.ctl c) cause pkg) s = .next t ∧ CoreOnly s t ∧
    OtherCores s t c ∧ t.regs = s.regs ∧ (∀ e, t.eng c e = s.eng c e) ∧ (t.core c).stores = (s.core c).stores.filter (fun x => !x.held) ∧
    (t.core c).aborted = (s.core c).aborted ++ ((s.core c).stores.filter (fun x => x.held)).map (fun x => (cause.val, x.addr)) ∧
    ∀ l ∈ (t.core c).loads, l.held = false) ∧
  (∀ (c : Fin 64) (i : FmtI) (l : CtlLoad) (cause : Nat) (s : State), s.atWord c 5 (encI 0x02 i) = true → i.ga ≠ 0 →
    s.loadInto c i.ga.toNat = some l → l.aborted = some cause → s.gBusy c i.ga.toNat = true →
    ∃ t, exec (.addi c i) s = .next t ∧ (t.eng c 5).st = .faulted ∧ (t.eng c 5).fault = 0x183 ∧
      (t.core c).loads = (s.core c).loads.erase l ∧ (∀ n, t.g c n = s.g c n) ∧ t.mem = s.mem) ∧
  (∀ (c : Fin 64) (path : Path) (v : BitVec 32) (s : State), s.mayWrite path (Reg.strSplit c) = true →
    let sum := bitsOf v.toNat 0 4 + bitsOf v.toNat 4 4 + bitsOf v.toNat 8 4
    (sum = 16 → ∃ t, exec (.strSplitWrite c path v) s = .next t ∧ t.regN (Reg.strSplit c) = v.toNat % 4096 ∧
      (∀ k, k < 3 → t.credit c k = 0) ∧ CoreOnly (s.accessed path) t ∧ OtherCores s t c ∧ RegsOnly s t (fun off => off = Reg.strSplit c)) ∧
    (sum ≠ 16 → exec (.strSplitWrite c path v) s = .next ((s.accessed path).unmapped (Reg.strSplit c))))

/-! ### Peg units and the lantern -/

/-- R270, R272 to R274: a fill of a live peg that has had no operation in this network cycle counts an arrival; a binary peg becomes full, and one
already full keeps an overfill mark; a counting peg's FULL is the serial test of its arrivals against its target. Other pegs and memory stay.
R272: a fill of an abandoned or corrupt peg changes no peg word, and the fill of a job that does not run in the peg's partition is a refused
access (SEC_REMOTE is counted). -/
def Obligations.PegFillsAndRefusals : Prop :=
  ∀ (peg : BitVec 16) (f : Fill) (s : State),
    let p := peg.toNat
    let w := s.pegWord p
    let a := (pegArrivals w + 1) % 2 ^ 32
    s.pegs.fills.find? (fun f => f.peg == p) = some f → s.pegFree p = true →
    (s.fillAllowed f = true → s.pegGood p = true → pegState w = 0 →
      ∃ t, exec (.pegFill peg) s = .next t ∧ pegArrivals (t.pegWord p) = a ∧ pegMode (t.pegWord p) = pegMode w ∧
        (pegMode w = 0 → pegFull (t.pegWord p) = true ∧ ((t.pegWord p).getLsbD 48 = true ↔ pegFull w = true ∨ w.getLsbD 48 = true)) ∧
        (pegMode w ≠ 0 → pegFull (t.pegWord p) = decide ((a + 2 ^ 32 - pegTarget w) % 2 ^ 32 < 2 ^ 31)) ∧
        t.pegGood p = true ∧ t.pegFree p = false ∧ (∀ q, q ≠ p → t.pegWord q = s.pegWord q) ∧ t.mem = s.mem) ∧
    (s.fillAllowed f = true → s.pegGood p = true → pegState w = 1 ∨ pegState w = 2 → ∃ t, exec (.pegFill peg) s = .next t ∧
      (∀ q, t.pegWord q = s.pegWord q) ∧ t.mem = s.mem) ∧
    (s.fillAllowed f = false → ∃ t, exec (.pegFill peg) s = .next t ∧ (∀ q, t.pegWord q = s.pegWord q) ∧ t.mem = s.mem ∧
      (s.fld Reg.secCounts 32 16 < 65535 → t.fld Reg.secCounts 32 16 = s.fld Reg.secCounts 32 16 + 1))

/-- R270, R275 to R279: a watch of a live peg is kept and answered with the peg's FULL; a report reaches the waiting engine and counts once the core
cycle it arrives in has ended; a take request of an instruction that meets every other condition is queued and the oldest one on a full peg is
granted, which takes the peg; a grant that reaches the waiting engine lets it issue, and one that it no longer waits for goes back; a return
makes the peg full again. -/
def Obligations.PegWaitsAndTakes : Prop :=
  (∀ (c : Fin 64) (e : Fin 6) (second : Bool) (p : Nat) (s : State), (s.pegWaits c e)[boolNat second]? = some (p, false) →
    s.reached c e = true → (⟨p, c, e⟩ : Watch) ∉ s.pegs.watches → s.pegGood p = true → pegState (s.pegWord p) = 0 →
    ∃ t, exec (.pegWatch c e second) s = .next t ∧ t.pegs.watches = s.pegs.watches ++ [⟨p, c, e⟩] ∧
      t.pegs.reports = s.pegs.reports ++ [(⟨p, c, e⟩, ⟨p, pegFull (s.pegWord p), 0⟩)] ∧ t.pegs.word = s.pegs.word ∧ t.mem = s.mem ∧
      t.regs = s.regs ∧ ∀ d f, t.eng d f = s.eng d f) ∧
  (∀ (c : Fin 64) (e : Fin 6) (w : Watch) (r : Report) (s : State),
    s.pegs.reports.find? (fun x => x.1.core == c.val && x.1.eng == e.val) = some (w, r) →
    ∃ t, exec (.pegReport c e) s = .next t ∧ t.eng c e = { s.eng c e with repNew := (s.eng c e).repNew ++ [r] } ∧
      t.pegs.reports = s.pegs.reports.erase (w, r) ∧ t.pegs.word = s.pegs.word ∧ t.mem = s.mem ∧ t.regs = s.regs ∧ OtherCores s t c) ∧
  (∀ (c e : Nat) (r : Report) (s : State), (s.eng c e).waits = true → (∃ b, (r.peg, b) ∈ s.pegWaits c e) →
    (r.st = 0 → r ∈ ((s.takeReport c e r).eng c e).reports) ∧
    (r.st ≠ 0 → ((s.takeReport c e r).eng c e).st = .faulted)) ∧
  (∀ (c : Fin 64) (e : Fin 6) (p : Nat) (s : State) (rest : List (Nat × Bool)), s.pegWaits c e = (p, true) :: rest →
    s.reached c e = true → (s.eng c e).grant = none → (⟨p, c, e⟩ : Watch) ∉ s.pegs.takes → (⟨p, c, e⟩ : Watch) ∉ s.pegs.grants →
    s.pegFree p = true → s.takeReady c e p = true → s.pegGood p = true → pegState (s.pegWord p) = 0 → (∀ x ∈ s.pegs.takes, x.peg ≠ p) →
    ∃ t, exec (.pegTakeRequest c e) s = .next t ∧ t.mem = s.mem ∧ (∀ q, q ≠ p → t.pegWord q = s.pegWord q) ∧
      (pegFull (s.pegWord p) = true → (⟨p, c, e⟩ : Watch) ∈ t.pegs.grants ∧ t.pegs.takes = s.pegs.takes ∧ t.pegWord p = pegTaken (s.pegWord p)) ∧
      (pegFull (s.pegWord p) = false → t.pegs.grants = s.pegs.grants ∧ t.pegs.takes = s.pegs.takes ++ [⟨p, c, e⟩] ∧
        t.pegWord p = s.pegWord p)) ∧
  (∀ (c : Fin 64) (e : Fin 6) (w : Watch) (s : State), s.pegs.grants.find? (fun x => x.core == c.val && x.eng == e.val) = some w →
    (s.eng c e).waits = false ∨ (s.eng c e).grant ≠ none ∨ (s.pegWaits c e).head? ≠ some (w.peg, true) →
    ∃ t, exec (.pegGrant c e) s = .next t ∧ t.pegs.grants = s.pegs.grants.erase w ∧ t.pegs.word = s.pegs.word ∧ OtherCores s t c ∧
      t.pegs.returns = s.pegs.returns ++ [w.peg] ∧ t.mem = s.mem ∧ t.regs = s.regs ∧ ∀ f, t.eng c f = s.eng c f) ∧
  (∀ (c : Fin 64) (e : Fin 5) (w : EngW) (x : Watch) (s : State),
    let u := (({ s with pegs := { s.pegs with grants := s.pegs.grants.erase x } } : State).stirNext c).withGrant c e x.peg
    s.pegs.grants.find? (fun x => x.core == c.val && x.eng == e.val) = some x → (s.eng c e).waits = true → (s.eng c e).grant = none →
    (s.pegWaits c e).head? = some (x.peg, true) → u.mayIssue c e 1 w = true → w.opnd = 0 →
    exec (.pegGrant c e.castSucc) s = .next (u.issued u c e w none none)) ∧
  (∀ (peg : BitVec 16) (s : State), let p := peg.toNat
    let w := s.pegWord p
    p ∈ s.pegs.returns → s.pegFree p = true → s.pegGood p = true → pegState w = 0 →
    ∃ t, exec (.pegReturn peg) s = .next t ∧ t.pegs.returns = s.pegs.returns.erase p ∧ (∀ q, q ≠ p → t.pegWord q = s.pegWord q) ∧
      (pegMode w = 0 → pegFull (t.pegWord p) = true ∧ pegArrivals (t.pegWord p) = pegArrivals w) ∧
      (pegMode w ≠ 0 → pegArrivals (t.pegWord p) = (pegArrivals w + pegTarget w) % 2 ^ 32) ∧ t.mem = s.mem)

/-- R270, R271, R283, R284: the control core's oldest arm replaces the peg's mode, target and arrivals and keeps its owner and state, once no earlier
read of the peg is on its way; on a peg that is not owned or not live it is PEG_ARM (0x217); a load of a peg reads its word once no earlier arm
of the peg waits. A peg has one operation in a network cycle. -/
def Obligations.PegArmsAndReads : Prop :=
  ∀ (c : Fin 64) (s : State),
    (∀ (a : Arm) (rest : List Arm), let w := s.pegWord a.peg
      (s.core c).arms = a :: rest → s.pegFree a.peg = true → s.pegGood a.peg = true →
      (∀ l ∈ (s.core c).loads, l.data = none → a.seq ≤ l.seq ∨ s.window l.addr ≠ .peg a.peg 0 ∨ addrPkg l.addr ≠ s.pkg) →
      (pegOwned w = true → pegState w = 0 → ∃ t, exec (.pegArmApply c) s = .next t ∧ (t.core c).arms = rest ∧ t.pegWord a.peg = pegArmed w a.v ∧
        pegOwner (t.pegWord a.peg) = pegOwner w ∧ pegOwned (t.pegWord a.peg) = true ∧ pegState (t.pegWord a.peg) = 0 ∧
        pegMode (t.pegWord a.peg) = bitsOf a.v.toNat 60 3 ∧ pegTarget (t.pegWord a.peg) = pegTarget a.v ∧
        pegArrivals (t.pegWord a.peg) = pegArrivals a.v ∧ (∀ q, q ≠ a.peg → t.pegWord q = s.pegWord q) ∧ t.mem = s.mem) ∧
      (pegOwned w = false ∨ pegState w ≠ 0 → ∃ t, exec (.pegArmApply c) s = .next t ∧ (t.core c).arms = rest ∧
        (∀ q, t.pegWord q = s.pegWord q) ∧ (t.eng c 5).fault = 0x217 ∧ (t.eng c 5).st = .faulted ∧ t.mem = s.mem)) ∧
    (∀ (l : CtlLoad) (p : Nat), (s.core c).loads.find? (fun l => (s.pegLoad l).isSome) = some l → s.pegLoad l = some p →
      s.pegFree p = true → (∀ a ∈ (s.core c).arms, a.peg = p → l.seq ≤ a.seq) → s.pegGood p = true →
      ∃ t, exec (.pegRead c) s = .next t ∧ t.pegs.word = s.pegs.word ∧ t.mem = s.mem ∧
        (t.core c).loads = (s.core c).loads.map (fun x => if x.seq = l.seq then { x with data := some (s.pegWord p) } else x))

/-- R287 to R289, R294: a write of PEG_INIT_CTRL with GO begins a run over COUNT pegs from FIRST, which puts PEG_INIT_WORD into each and into no
other, and GO stays set until it is done; PEG_ABANDON begins a sweep of the cluster, which abandons the pegs whose owner's bit is set and that
are not corrupt, and those only. -/
def Obligations.PegSweeps : Prop :=
  ∀ (k : Fin 16) (path : Path) (v : BitVec 32) (s : State),
    let first := bitsOf v.toNat 0 12
    let count := bitsOf v.toNat 12 13
    let w := s.reg (Reg.pegInitWord k)
    (s.mayWrite path (Reg.pegInitCtrl k) = true → s.fld (Reg.pegInitCtrl k) 31 1 = 0 → v.getLsbD 31 = true → 1 ≤ count → first + count ≤ 4096 →
      pegWordOk w = true →
      ∃ t, exec (.pegInit k path v) s = .next t ∧ t.fld (Reg.pegInitCtrl k) 31 1 = 1 ∧ t.mem = s.mem ∧ t.pegs.word = s.pegs.word ∧
        t.pegs.runs = s.pegs.runs ++ [⟨k, some w, 0, 4096 * k + first, count⟩]) ∧
    (s.mayWrite path (Reg.pegInitCtrl k) = true → s.fld (Reg.pegInitCtrl k) 31 1 = 0 → v.getLsbD 31 = true →
      (count = 0 ∨ 4096 < first + count ∨ pegWordOk w = false) →
      exec (.pegInit k path v) s = .next ((s.accessed path).unmapped (Reg.pegInitCtrl k))) ∧
    (s.mayWrite path (Reg.pegAbandon k) = true → (∀ r ∈ s.pegs.runs, r.cl = k.val → r.word.isSome = true) →
      ∃ t, exec (.pegAbandon k path v) s = .next t ∧ t.fld (Reg.pegAbandon k) 31 1 = 1 ∧ t.mem = s.mem ∧ t.pegs.word = s.pegs.word ∧
        t.pegs.runs = s.pegs.runs ++ [⟨k, none, v.toNat % 16, 4096 * k, 4096⟩]) ∧
    (∀ (r : PegRun) (x : W64), s.pegs.runs.filter (fun r => r.cl == k.val && r.word.isSome) = [r] → r.word = some x →
      ∃ t, exec (.pegInitDone k) s = .next t ∧ t.fld (Reg.pegInitCtrl k) 31 1 = 0 ∧ t.mem = s.mem ∧ t.pegs.runs = s.pegs.runs.erase r ∧
        ∀ p, t.pegWord p = if r.next ≤ p ∧ p < r.next + r.left then x else s.pegWord p) ∧
    (∀ (r : PegRun), s.pegs.runs.filter (fun r => r.cl == k.val && r.word.isNone) = [r] →
      (∀ p, r.next ≤ p → p < r.next + r.left → s.pegGood p = true) →
      ∃ t, exec (.pegSweepDone k) s = .next t ∧ t.fld (Reg.pegAbandon k) 31 1 = 0 ∧ t.mem = s.mem ∧ t.pegs.runs = s.pegs.runs.erase r ∧
        ∀ p, t.pegWord p =
          if r.next ≤ p ∧ p < r.next + r.left ∧ pegOwned (s.pegWord p) = true ∧ r.mask.testBit (pegOwner (s.pegWord p)) = true ∧
            pegState (s.pegWord p) ≠ 2
          then pegSetState (s.pegWord p) 1 else s.pegWord p)

/-- R290 to R292: when a core's quiet count reaches its span the lantern latches each engine's place and cause, sets FIRED, counts, and records HANG
with the core's unit identifier; fired or disabled it does nothing. -/
def Obligations.LanternFires : Prop :=
  ∀ (c : Fin 64) (s : State),
    let r := Reg.lantern c
    (2 ^ s.fld r 0 5 ≤ s.fld (Reg.lanternCount c) 0 32 → s.fld r 5 1 = 0 → s.fld r 31 1 = 0 →
      ∃ t, exec (.lanternFire c) s = .next t ∧ t.fld r 31 1 = 1 ∧
        t.fld (Reg.lanternCount c) 32 32 = (s.fld (Reg.lanternCount c) 32 32 + 1) % 2 ^ 32 ∧ t.mem = s.mem ∧ OtherCores s t c ∧ t.pegs = s.pegs ∧
        (∀ e, e < 6 → t.fld (Reg.hang c e) 0 20 = (s.eng c e).pc % 2 ^ 20) ∧
        (s.bu.ready = true → (s.fbuf 0).recs.length < 1024 →
          ∃ x, (t.fbuf 0).recs = (s.fbuf 0).recs ++ [x] ∧ x.code = 0x218 ∧ x.kind = 2 ∧ x.unit = s.unitCore c)) ∧
    (s.fld r 5 1 = 1 ∨ s.fld r 31 1 = 1 → exec (.lanternFire c) s = .next s)

/-! ### Memory tiers -/

/-- R262, R313 to R316: the walk of an access whose translation no cache in its order holds, and whose tables no retrain holds, enters its mapping
into those caches, is counted, and changes nothing else; one that ends in a cause records MEM_XLATE (0x301) and holds the access, or suspends its
stream. A fault of another package's translation suspends the stream here at the tile it names. -/
def Obligations.TranslationWalks : Prop :=
  ∀ (s : State) (va : Nat),
    let misses := fun (us : List Nat) (space : Nat) => s.cached us space va = none ∧ s.walkHeld space va = false
    (∀ (c : Fin 64) (n : Nat) (l : CtlLoad), let space := s.coreSpace c
      (s.core c).loads[n]? = some l → s.tierVa l.addr = some va → l.data = none → l.held = false → l.aborted = none →
      misses (unitCaches (c / 4)) space →
      (∀ m, s.walk space va = .ok m → s.chanDown m.die (m.phys va) l.size = false →
        ∃ t, exec (.translationWalk (.load c n)) s = .next t ∧ Walked s t (unitCaches (c / 4)) space va m) ∧
      (∀ cause, s.walk space va = .error cause → ∃ t, exec (.translationWalk (.load c n)) s = .next t ∧
        (t.core c).loads[n]? = some { l with held := true } ∧ OtherCores s t c ∧ XlateFaulted s t (s.unitEng c 5) space cause 0 15 va)) ∧
    (∀ (c : Fin 64) (n : Nat) (x : CtlStore), let space := s.coreSpace c
      (s.core c).stores[n]? = some x → s.tierVa x.addr = some va → x.done = false → x.held = false →
      misses (unitCaches (c / 4)) space →
      (∀ m, s.walk space va = .ok m → m.w = true → s.chanDown m.die (m.phys va) x.size = false →
        ∃ t, exec (.translationWalk (.store c n)) s = .next t ∧ Walked s t (unitCaches (c / 4)) space va m) ∧
      (∀ cause, s.walk space va = .error cause → ∃ t, exec (.translationWalk (.store c n)) s = .next t ∧
        (t.core c).stores[n]? = some { x with held := true } ∧ OtherCores s t c ∧ XlateFaulted s t (s.unitEng c 5) space cause 1 15 va)) ∧
    (∀ (c : Fin 64) (slot : Fin 16) (kind tile : Nat), let space := s.coreSpace c
      s.streamVa c slot = some (va, kind, tile) → misses (strCaches c) space →
      (∀ m, s.walk space va = .ok m → (kind = 0 ∨ m.w = true) → s.chanDown m.die (m.phys va) 1 = false →
        ∃ t, exec (.translationWalk (.stream c slot)) s = .next t ∧ Walked s t (strCaches c) space va m) ∧
      (∀ cause, s.walk space va = .error cause → (s.strm c slot).state = 1 → (s.strm c slot).stop = none → (s.strm c slot).done = tile →
        (s.strm c slot).filled = (s.strm c slot).fills → (∀ f ∈ (s.str c).xfers, f.slot ≠ slot.val) →
        ∃ t, exec (.translationWalk (.stream c slot)) s = .next t ∧ (t.strm c slot).state = 2 ∧ (t.strm c slot).done = tile ∧
          OtherCores s t c ∧ XlateFaulted s t (s.unitEng c 4) space cause kind slot va)) ∧
    (∀ (n : Nat) (r : InReq), s.inreqs[n]? = some r → s.tierVa r.addr = some va → (r.kind = 3 ∨ s.nextUp r = true) →
      misses (unitCaches r.cl) r.space →
      ∀ m, s.walk r.space va = .ok m → (r.access = 0 ∨ m.w = true) → s.chanDown m.die (m.phys va) r.len = false →
        ∃ t, exec (.translationWalk (.remote n)) s = .next t ∧ Walked s t (unitCaches r.cl) r.space va m) ∧
    (∀ (c : Fin 64) (slot : Fin 16) (tile : Nat) (a : BitVec 47), let m := s.strm c slot
      m.state = 1 → m.cls = 2 → m.stop = none → m.done ≤ tile → tile < m.total →
      ∃ t, exec (.translationWalk (.away c slot tile a)) s = .next t ∧ (t.strm c slot).stop = some ⟨tile, false, 1, 1, a.toNat⟩ ∧
        (t.strm c slot).done = m.done ∧ t.mem = s.mem ∧ t.tlb = s.tlb ∧ OtherCores s t c ∧ ∀ j, j ≠ slot.val → t.strm c j = s.strm c j)

/-- R313, R318, R319: a tier access with a usable translation reads or writes the data under the key and number of its data unit; a store of
the control core changes the bytes it stores and no other byte as its owner reads it; without a translation a load waits. -/
def Obligations.TierAccesses : Prop :=
  ∀ (s : State) (va : Nat) (m : Map),
    (∀ (c : Fin 64) (n : Nat) (l : CtlLoad),
      (s.core c).loads[n]? = some l → s.tierVa l.addr = some va → l.data = none → l.held = false → l.aborted = none →
      (s.tierTry (unitCaches (c / 4)) (s.coreSpace c) va 0 l.size = some (.ok m) → ∃ t, exec (.tierAccess (.load c n)) s = .next t ∧
        (t.core c).loads[n]? = some { l with data := some (BitVec.ofNat 64 (leNat (s.mapRead m va l.size))) } ∧
        (∀ j, j ≠ n → (t.core c).loads[j]? = (s.core c).loads[j]?) ∧ CoreOnly s t ∧ OtherCores s t c ∧
        RegsOnly s t (fun off => ∃ i, off = Reg.dieCnt i)) ∧
      (s.tierTry (unitCaches (c / 4)) (s.coreSpace c) va 0 l.size = none → exec (.tierAccess (.load c n)) s = .next s)) ∧
    (∀ (c : Fin 64) (n : Nat) (x : CtlStore), let key := s.keyAt m.die m.key
      let at' := m.phys va
      (s.core c).stores[n]? = some x → s.tierVa x.addr = some va → x.done = false → x.held = false →
      s.tierTry (unitCaches (c / 4)) (s.coreSpace c) va 1 x.size = some (.ok m) → 0 < x.size → at' % 512 + x.size ≤ 512 →
      ∃ t, exec (.tierAccess (.store c n)) s = .next t ∧ (t.core c).stores[n]? = some { x with done := true } ∧ OtherCores s t c ∧
        (∀ i, i < x.size → t.tierByte m.die (at' + i) key (va / 512) = BitVec.ofNat 8 (x.data.toNat / 256 ^ i)) ∧
        (∀ j, j / 512 = at' / 512 → (j < at' ∨ at' + x.size ≤ j) →
          t.tierByte m.die j key (va / 512) = s.tierByte m.die j key (va / 512)) ∧
        MemOnly s t (Within (cellarKey m.die (at' / 512 * 512)) 512)) ∧
    (∀ (c : Fin 64) (n : Nat) (f : Xfer), let k := s.strm c f.slot
      (s.str c).xfers[n]? = some f → k.cls ≠ 2 → s.tierVa (k.xferAddr f) = some va → f.written = false → f.retired = false →
      (k.d.kind = 0 ∨ (f.arrived = true ∧ f.tile = k.done)) →
      s.tierTry (strCaches c) (s.coreSpace c) va k.d.kind f.len = some (.ok m) →
      ∃ t, exec (.tierAccess (.stream c n)) s = .next t ∧ OtherCores s t c ∧ (t.str c).slots = (s.str c).slots ∧
        (t.str c).xfers[n]? = some { f with written := true, bytes := if k.d.kind = 0 then s.mapRead m va f.len else f.bytes } ∧
        t.mem = (if k.d.kind = 0 then s else if k.d.kind = 1 then s.mapWrite m va f.bytes else s.mapAdd m va f.bytes).mem) ∧
    (∀ (n : Nat) (r : InReq), s.inreqs[n]? = some r → s.tierVa r.addr = some va → 0 < r.len → (∀ x ∈ s.inreqs, x ≠ r → s.direct x = false) →
      s.tierTry (unitCaches r.cl) r.space va r.access r.len = some (.ok m) →
      (r.kind = 3 → ∃ t, exec (.tierAccess (.remote n)) s = .next t ∧ t.inreqs = s.inreqs.erase r ∧ t.mem = s.mem) ∧
      (r.kind = 1 → s.nextUp r = true → ∃ t, exec (.tierAccess (.remote n)) s = .next t ∧ t.inreqs = s.inreqs.erase r ∧
        t.mem = (s.mapWrite m va r.bytes).mem) ∧
      (r.kind = 2 → s.nextUp r = true → ∃ t, exec (.tierAccess (.remote n)) s = .next t ∧ t.inreqs = s.inreqs.erase r ∧
        t.mem = (s.mapAdd m va r.bytes).mem))

/-- R316: a MEM_INVAL command stays busy while a transfer that uses a translation of its region is in flight; once none is and it is no page move's, no
cache holds a translation it covers and every other stands. One written while another is busy is refused. -/
def Obligations.Invalidations : Prop :=
  (∀ (path : Path) (v : BitVec 64) (s : State), s.mayWrite path Reg.memInval = true →
    (s.fld Reg.memInval 63 1 = 0 → ∃ t, exec (.memInval path v) s = .next t ∧ t.fld Reg.memInval 63 1 = bitsOf v.toNat 63 1 ∧
      t.fld Reg.memInval 0 5 = bitsOf v.toNat 0 5 ∧ t.fld Reg.memInval 32 26 = bitsOf v.toNat 32 26 ∧ t.mem = s.mem ∧ t.tlb = s.tlb ∧
      t.cores = s.cores ∧ RegsOnly s t (fun off => off = Reg.memInval)) ∧
    (s.fld Reg.memInval 63 1 = 1 → exec (.memInval path v) s = .next ((s.accessed path).unmapped Reg.memInval))) ∧
  (∀ (s : State), let r := Reg.memInval
    s.fld r 63 1 = 1 → s.inRegion (s.fld r 0 4) (s.fld r 4 1 == 1) (s.fld r 32 26) = false → s.sup.moves = [] →
    ∃ t, exec .memInvalDone s = .next t ∧ t.fld r 63 1 = 0 ∧ t.mem = s.mem ∧ t.cores = s.cores ∧ RegsOnly s t (fun off => off = r) ∧
      ∀ k, Tab.get (fun _ => none) t.tlb k =
        if invalCovers (s.fld r 0 4) (s.fld r 4 1 == 1) (s.fld r 32 26) k = true then none else Tab.get (fun _ => none) s.tlb k) ∧
  (∀ (s : State), s.fld Reg.memInval 63 1 = 1 →
    s.inRegion (s.fld Reg.memInval 0 4) (s.fld Reg.memInval 4 1 == 1) (s.fld Reg.memInval 32 26) = true → exec .memInvalDone s = .next s)

/-- R322, R354: a page move that no pass holds up clears the leaf's P and invalidates its region, and one whose page a pass names waits; once the
invalidation has ended the page's ciphertext stands in the new frame and the leaf, with a good check, names it. (The supervisor's queue of moves:
DESIGN CHOICE, log entry 41.) -/
def Obligations.PageMoves : Prop :=
  (∀ (space : Fin 16) (va : BitVec 47) (cellar : Fin 4) (tier : Fin 2) (frame : BitVec 24) (die off e : Nat) (big : Bool) (s : State),
    let n := pageBytes big
    s.Canonical → s.leafAt space va.toNat = some (die, off, e, big) → (big = true → frame.toNat % 32 = 0) → s.sup.moves = [] →
    s.fld Reg.memInval 63 1 = 0 → s.pageNamed space (va.toNat / n * n) n = false →
    ∃ t, exec (.pageMove space va cellar tier frame) s = .next t ∧ (t.pte die off).2 = true ∧ (t.pte die off).1.testBit 0 = false ∧
      (∀ i, 1 ≤ i → i < 96 → (t.pte die off).1.testBit i = e.testBit i) ∧
      t.reg Reg.memInval = BitVec.ofNat 64 (space + va.toNat / 0x200000 * 2 ^ 32 + 2 ^ 63) ∧ RegsOnly s t (fun off => off = Reg.memInval) ∧
      t.sup.moves = [⟨space, va.toNat, cellar, tier, frame.toNat, true, none⟩] ∧ t.tlb = s.tlb ∧ t.cores = s.cores ∧
      MemOnly s t (fun k => k / 512 = unitOf die off)) ∧
  (∀ (space : Fin 16) (va : BitVec 47) (cellar : Fin 4) (tier : Fin 2) (frame : BitVec 24) (die off e : Nat) (big : Bool) (s : State),
    let n := pageBytes big
    s.leafAt space va.toNat = some (die, off, e, big) → (big = true → frame.toNat % 32 = 0) → s.sup.moves = [] →
    s.fld Reg.memInval 63 1 = 1 ∨ s.pageNamed space (va.toNat / n * n) n = true →
    ∃ t, exec (.pageMove space va cellar tier frame) s = .next t ∧ t.sup.moves = [⟨space, va.toNat, cellar, tier, frame.toNat, false, none⟩] ∧
      t.mem = s.mem ∧ t.regs = s.regs ∧ t.tlb = s.tlb ∧ t.cores = s.cores) ∧
  (∀ (m : PageMove) (die off e : Nat) (big : Bool) (s : State),
    let r := Reg.memInval
    let n := pageBytes big
    let old := cellarKey (bitsOf e 4 2 + 1) (frameOff (bitsOf e 6 1) (bitsOf e 16 24))
    let new := cellarKey (m.cellar + 1) (frameOff m.tier m.frame)
    s.Canonical → s.sup.moves = [m] → m.begun = true → m.cellar < 4 → m.tier < 2 → m.frame < 2 ^ 24 →
    s.leafAt m.space m.va = some (die, off, e, big) → (∀ j ∈ s.jobs, j.1 = m.space → j.2.tables = []) →
    s.fld r 63 1 = 1 → s.inRegion (s.fld r 0 4) (s.fld r 4 1 == 1) (s.fld r 32 26) = false → s.copyHeld = false →
    ∃ t, exec .memInvalDone s = .next t ∧ (t.pte die off).2 = true ∧
      bitsOf (t.pte die off).1 0 1 = 1 ∧ bitsOf (t.pte die off).1 4 2 = m.cellar ∧ bitsOf (t.pte die off).1 6 1 = m.tier ∧
      bitsOf (t.pte die off).1 16 24 = m.frame ∧ bitsOf (t.pte die off).1 1 3 = bitsOf e 1 3 ∧
      bitsOf (t.pte die off).1 8 8 = bitsOf e 8 8 ∧ bitsOf (t.pte die off).1 40 56 = bitsOf e 40 56 ∧
      t.sup.moves = [] ∧ t.fld r 63 1 = 0 ∧ RegsOnly s t (fun off => off = r) ∧
      t.pegs.fills.map (·.peg) = s.pegs.fills.map (·.peg) ++ (m.place.map (·.1)).toList ∧
      (∀ k, invalCovers (s.fld r 0 4) (s.fld r 4 1 == 1) (s.fld r 32 26) k = true → Tab.get (fun _ => none) t.tlb k = none) ∧
      (∀ i, i < n → (new + i) / 512 ≠ unitOf die off → t.rd8 (new + i) = s.rd8 (old + i)) ∧
      MemOnly s t (fun k => Within new n k ∨ k / 512 = unitOf die off))

/-- R304, R325, R326: GO of MEM_RETRAIN holds the channel for its retrain, and its end leaves it up at its rate or the next lower, or down with
TIER_CHANNEL_DOWN (0x302); ATT_ZERO of a stopped cluster zeroes its whole attic and no other byte. -/
def Obligations.RetrainsAndAttics : Prop :=
  (∀ (cellar : Fin 4) (path : Path) (v : BitVec 32) (s : State), let d := cellar.val + 1
    let ch := bitsOf v.toNat 0 5
    s.mayWrite path (Reg.retrain d) = true →
    (ch < 20 → v.getLsbD 8 = true → s.fld (Reg.chStatus d ch) 0 2 ≠ 2 → s.fld (Reg.retrain d) 9 1 = 0 →
      ∃ t, exec (.memRetrain cellar path v) s = .next t ∧ t.fld (Reg.retrain d) 0 5 = ch ∧ t.fld (Reg.retrain d) 9 1 = 1 ∧
        t.fld (Reg.retrain d) 8 1 = 0 ∧ t.fld (Reg.chStatus d ch) 0 2 = 1 ∧ t.mem = s.mem ∧ t.cores = s.cores ∧
        RegsOnly s t (fun off => off = Reg.retrain d ∨ off = Reg.chStatus d ch)) ∧
    (20 ≤ ch ∨ (v.getLsbD 8 = true ∧ s.fld (Reg.chStatus d ch) 0 2 = 2) →
      exec (.memRetrain cellar path v) s = .next ((s.accessed path).unmapped (Reg.retrain d)))) ∧
  (∀ (cellar : Fin 4) (result : Fin 3) (us : BitVec 16) (ch : Nat) (s : State), let d := cellar.val + 1
    let r := Reg.chStatus d ch
    let speed := s.fld r 2 4
    (List.range 20).find? (fun x => s.fld (Reg.chStatus d x) 0 2 == 1) = some ch → s.fld (Reg.retrain d) 8 1 = 0 →
    (result.val = 0 ∨ (result.val = 1 ∧ speed < slowest ch) → ∃ t, exec (.retrainDone cellar result us) s = .next t ∧ t.fld r 0 2 = 0 ∧
      t.fld r 2 4 = speed + result.val ∧ t.fld r 8 24 = satInc (s.fld r 8 24) 24 ∧
      t.fld r 32 32 = min (s.fld r 32 32 + us.toNat) (2 ^ 32 - 1) ∧ t.fld (Reg.retrain d) 9 1 = 0 ∧ t.mem = s.mem ∧ t.fbufs = s.fbufs) ∧
    (result.val = 2 ∨ (result.val = 1 ∧ slowest ch ≤ speed) → ∃ t, exec (.retrainDone cellar result us) s = .next t ∧ t.fld r 0 2 = 2 ∧
      t.fld (Reg.retrain d) 9 1 = 0 ∧ t.mem = s.mem ∧
      Recorded s t d 0x302 2 (s.unitDie d) ch (if slowest ch ≤ speed then speed else speed + 1))) ∧
  (∀ (k : Fin 16) (path : Path) (v : BitVec 32) (s : State), s.mayWrite path (Reg.attZero k) = true → v.getLsbD 0 = true →
    ((∀ i, i < 4 → s.coreRuns (4 * k + i) = false) → ∃ t, exec (.attZero k path v) s = .next t ∧ t.fld (Reg.attZero k) 0 1 = 1 ∧ t.mem = s.mem ∧
      t.cores = s.cores ∧ RegsOnly s t (fun off => off = Reg.attZero k)) ∧
    ((∃ i, i < 4 ∧ s.coreRuns (4 * k + i) = true) → exec (.attZero k path v) s = .next ((s.accessed path).unmapped (Reg.attZero k)))) ∧
  (∀ (k : Fin 16) (s : State), s.fld (Reg.attZero k) 0 1 = 1 → ∃ t, exec (.attZeroDone k) s = .next t ∧ t.fld (Reg.attZero k) 0 1 = 0 ∧
    t.cores = s.cores ∧ RegsOnly s t (fun off => off = Reg.attZero k) ∧ MemOnly s t (Within (atticKey k 0) 0x200000) ∧
    ∀ i, i < 0x200000 → t.rd8 (atticKey k i) = 0)

/-! ### The parameter update -/

/-- R355 to R358, R361, R362, R452: a good update command starts a pass or is queued behind the one that runs; any other is refused with UPD_COMMAND
(0x310); of a job's own update the supervisor withholds a command or sends it with the norm's SSQ. A pass starts with its scalars, or is skipped with
UPD_NONFINITE (0x313) where SSQ is not finite, with the notices of its good items; an engine takes a run of at most 512 records, a custom rule's first
record begins with its inputs and every other register +0; an item's last run posts its notice; the pass completes with its own. (The form of a
notice: DESIGN CHOICE, log entry 61.) -/
def Obligations.UpdatePasses : Prop :=
  ∀ (cellar : Fin 4) (s : State), let d := cellar.val + 1
    let x := s.cellar d
    (∀ bs : List Byte, let ok := bs.length == 64 && fieldAt bs 60 4 == check32c (bs.take 60) x.cmds
      s.inReset = false →
      (s.tableJob d (parsePass bs).table = none → ok = true → commandReserved bs = false → x.queued = none → s.fld (Reg.updCtrl d) 1 1 = 0 →
        ∃ t, exec (.updateCommand cellar bs) s = .next t ∧ (t.cellar d).cmds = x.cmds + 1 ∧ t.mem = s.mem ∧ t.regs = s.regs ∧
          (x.running = none → (t.cellar d).running = some (parsePass bs) ∧ (t.cellar d).queued = none) ∧
          (x.running ≠ none → (t.cellar d).running = x.running ∧ (t.cellar d).queued = some (parsePass bs))) ∧
      (ok = false ∨ (s.tableJob d (parsePass bs).table = none ∧
          (commandReserved bs = true ∨ x.queued ≠ none ∨ s.fld (Reg.updCtrl d) 1 1 = 1)) →
        ∃ t, exec (.updateCommand cellar bs) s = .next t ∧ t.cellar d = { x with cmds := x.cmds + 1 } ∧ t.mem = s.mem ∧
          Recorded s t d 0x310 2 (s.unitDie d) 0 0) ∧
      (∀ space j, s.tableJob d (parsePass bs).table = some (space, j) → ok = true →
        (s.updateWithheld space j (parsePass bs).dist = true → exec (.updateCommand cellar bs) s = .next s) ∧
        (∀ c, s.updateWithheld space j (parsePass bs).dist = false → (parsePass bs).dist = false → s.normChan j = some c →
          commandReserved bs = false → x.running = none → x.queued = none → s.fld (Reg.updCtrl d) 1 1 = 0 →
          ∃ t, exec (.updateCommand cellar bs) s = .next t ∧ (t.cellar d).cmds = x.cmds + 1 ∧ t.mem = s.mem ∧ t.regs = s.regs ∧
            (t.cellar d).running = some { parsePass bs with ssq := BitVec.ofNat 32 (s.fld (Reg.redInfo (Reg.redDie c)) 0 32) }))) ∧
    (∀ p, x.running = some p → p.started = false →
      ((p.dist = true ∨ (isNan32 p.ssq = false ∧ isInf32 p.ssq = false)) → ∃ t q, exec (.passStart cellar) s = .next t ∧
        (t.cellar d).running = some q ∧ q = { p with started := true, scalars := q.scalars } ∧ t.mem = s.mem ∧ t.regs = s.regs ∧
        ∀ n j, n < 16 → j < 5 → s.ruleEn d n = true → some (Tab.get (fun _ => 0) q.scalars (8 * n + j + 1)) =
          (passScalars p.step p.lr p.ssq (BitVec.ofNat 32 (s.fld (Reg.updClip d) 0 32)) (s.ruleParam d n 8) (s.ruleParam d n 9)
            (s.ruleParam d n 11) (s.ruleParam d n 16))[j]?) ∧
      (p.dist = false → (isNan32 p.ssq = true ∨ isInf32 p.ssq = true) → p.floored = [] → s.sup.moves = [] →
        ∃ t, exec (.passStart cellar) s = .next t ∧
        (t.cellar d).running = x.queued ∧ (t.cellar d).queued = none ∧ [0x361, d, 2, p.refused, 0, p.step, 0, p.table] ∈ t.notices ∧
        (∀ k i, k < p.items → s.readItem d p k = some i → s.itemNotice d k i p ∈ t.notices) ∧ t.mem = s.mem ∧
        Recorded s t d 0x313 2 (s.unitDie d) 0 0 ∧ (s.fld (Reg.updCtrl d) 0 1 = 1 → t.fld (Reg.updCtrl d) 1 1 = 1))) ∧
    (∀ (e : Fin 16) (p : Pass) (num : Nat) (i : Item) (at' : Nat), let n := min 512 (i.records - at')
      x.running = some p → p.started = true → p.cur = some (num, i, at') → s.stopped = false → (s.cve d e).run = none →
      s.fld (Reg.engOk d) e 1 = 1 → p.dist = false → s.ruleGroup d i.rule = false → s.runHeld d i [0, 1, 2, 3, 4, 5, 6] at' n = false →
      (∀ k, k < n → s.frzDown d i (at' + k) = false ∧ s.recDown d i recComps (at' + k) = false) →
      (s.ruleKind d i.rule < 3 → ∃ t q, exec (.cveRun cellar e) s = .next t ∧ (t.cellar d).running = some q ∧
        q.cur = (if at' + n = i.records then none else some (num, i, at' + n)) ∧ q.next = p.next ∧ q.refused = p.refused ∧
        (t.cve d e).run = none ∧
        (at' + n = i.records → Tab.get (fun _ => 0) p.live num = 0 → num ∉ p.failed → s.itemNotice d num i p ∈ t.notices)) ∧
      (s.ruleKind d i.rule < 3 → i.records = at' + 1 → s.frozen d i at' = false → ∃ t, exec (.cveRun cellar e) s = .next t ∧
        t.mem = (s.plainRecord d e i p at').mem ∧
        t.fld (Reg.updCounts d) 0 32 = min (s.fld (Reg.updCounts d) 0 32 + 1) (2 ^ 32 - 1)) ∧
      (s.ruleKind d i.rule = 5 → at' < i.records → s.auxDown d i at' = false → s.frozen d i at' = false →
        ∃ t, exec (.cveRun cellar e) s = .next t ∧ t.mem = s.mem ∧ t.regs = s.regs ∧
        (t.cve d e).run = some { item := i, num := num, first := at', count := n, phase := 1 } ∧ (t.cve d e).pc = s.entry d i.rule 1 ∧
        (t.cve d e).scratch = [] ∧
        ∀ k j, k < 64 → j < 32 → laneOf ((t.cve d e).reg k) j =
          if k < 4 then laneOf (s.loadRec d i (k + 1) at') j else if k = 4 then BitVec.ofNat 32 j else 0)) ∧
    (∀ p, x.running = some p → p.started = true → p.cur = none → p.next = p.items → (∀ e, e < 16 → (s.cve d e).run = none) → p.floored = [] →
      s.chanHeld d p.report (8 * p.repcap) = false → s.sup.moves = [] →
      ∃ t, exec (.passComplete cellar) s = .next t ∧ (t.cellar d).running = x.queued ∧ (t.cellar d).queued = none ∧ t.mem = s.mem ∧
        t.fld (Reg.seqStatus d) 32 32 = (s.fld (Reg.seqStatus d) 32 32 + 1) % 2 ^ 32 ∧
        [0x361, d, if p.refused = 0 then 0 else 1, p.refused, 0, p.step, boolNat p.dist, p.table] ∈ t.notices)

/-- R376, R378: a write that enables a rule slot validates it: a valid slot is enabled, an invalid one stays disabled with UPD_RULE (0x314); with EN
0 the slot is disabled; while a pass runs, or the slot is enabled and EN stays 1, the write is refused. -/
def Obligations.RuleSlots : Prop :=
  ∀ (cellar : Fin 4) (n : Fin 16) (path : Path) (v : BitVec 64) (s : State), let d := cellar.val + 1
    let r := Reg.ruleCfg d n
    s.mayWrite path r = true →
    (s.passBusy d = false → v.toNat % 16 < 6 → v.getLsbD 4 = true → s.ruleEn d n = false →
      ((s.setReg r (v &&& 0xFFFFFFFFF7F)).slotOk d n = true → exec (.ruleSlotEnable cellar n path v) s = .next ((s.accessed path).setReg r (v &&& 0xFFFFFFFFF7F))) ∧
      ((s.setReg r (v &&& 0xFFFFFFFFF7F)).slotOk d n = false → ∃ t, exec (.ruleSlotEnable cellar n path v) s = .next t ∧ t.fld r 4 1 = 0 ∧
        t.mem = s.mem ∧ t.cellars = s.cellars ∧ Recorded s t d 0x314 2 (s.unitDie d) 0 0)) ∧
    (s.passBusy d = false → v.toNat % 16 < 6 → v.getLsbD 4 = false →
      exec (.ruleSlotEnable cellar n path v) s = .next ((s.accessed path).setReg r (v &&& 0xFFFFFFFFF7F))) ∧
    (s.passBusy d = true ∨ 6 ≤ v.toNat % 16 ∨ (s.ruleEn d n = true ∧ v.getLsbD 4 = true) →
      exec (.ruleSlotEnable cellar n path v) s = .next ((s.accessed path).unmapped r))

/-- R358, R362, R373 to R375: the next instruction of a custom rule computes its 32 lanes, gathers its flags and goes on to the next instruction, and
leaves memory, the other registers and the other engines as they were; END of a record without groups stores its components, or fails the item with UPD_FAIL (0x312)
where a channel they lie in is down. (Which steps of a run are commands of their own: DESIGN CHOICE, log entry 50.) -/
def Obligations.CellarVectorEngines : Prop :=
  ∀ (cellar : Fin 4) (e : Fin 16) (i : CveI) (s : State) (r : CveRun) (p : Pass), let d := cellar.val + 1
    let v := s.cve d e
    let a := v.reg i.a.toNat
    let b := s.cveOperand d e r p i.bp i.b
    let c := s.cveOperand d e r p i.cp i.c
    (∀ x ∈ [(0x01, Instr.cveAdd cellar e i), (0x02, .cveSub cellar e i), (0x03, .cveMul cellar e i), (0x04, .cveFma cellar e i),
            (0x05, .cveFnma cellar e i), (0x06, .cveMin cellar e i), (0x07, .cveMax cellar e i), (0x08, .cveAbs cellar e i),
            (0x09, .cveNeg cellar e i), (0x0A, .cveSgn cellar e i), (0x0B, .cveSqrt cellar e i), (0x0C, .cveRsqrt cellar e i),
            (0x0D, .cveRcp cellar e i), (0x0E, .cveCmp cellar e i), (0x0F, .cveSel cellar e i), (0x14, .cveMov cellar e i)],
      (s.cveAt d e x.1 i = some (r, p) → ∃ t, exec x.2 s = .next t ∧ (t.cve d e).pc = v.pc + 1 ∧ (t.cve d e).run = v.run ∧
        (t.cve d e).scratch = v.scratch ∧ t.mem = s.mem ∧ RegsOnly s t (fun off => off = Reg.updFlags d) ∧
        (∀ j, j < 32 → laneOf ((t.cve d e).reg i.d.toNat) j = (cveLane x.1 i.sub.toNat (laneOf a j) (laneOf b j) (laneOf c j)).1) ∧
        (∀ n, n ≠ i.d.toNat → (t.cve d e).reg n = v.reg n) ∧ (∀ d' e', (d', e') ≠ (d, e.val) → t.cve d' e' = s.cve d' e')) ∧
      (s.cveAt d e x.1 i = none → exec x.2 s = .next s)) ∧
    (∀ x ∈ [(0x10, Instr.cveSum cellar e i, (sum32 a 0).1), (0x11, .cveBcast cellar e i, laneOf a (i.b.toNat % 32))],
      s.cveAt d e x.1 i = some (r, p) → ∃ t, exec x.2.1 s = .next t ∧ (t.cve d e).pc = v.pc + 1 ∧ (t.cve d e).reg i.d.toNat = splat x.2.2 ∧
        (∀ n, n ≠ i.d.toNat → (t.cve d e).reg n = v.reg n) ∧ t.mem = s.mem) ∧
    (s.cveAt d e 0x12 i = some (r, p) → ∃ t, exec (.cveLds cellar e i) s = .next t ∧ (t.cve d e).pc = v.pc + 1 ∧ t.mem = s.mem ∧ t.regs = s.regs ∧
      (∀ j, j < 32 → laneOf ((t.cve d e).reg i.d.toNat) j = Tab.get (fun _ => 0) v.scratch (scratchAt i r + j)) ∧
      (∀ n, n ≠ i.d.toNat → (t.cve d e).reg n = v.reg n)) ∧
    (s.cveAt d e 0x13 i = some (r, p) → ∃ t, exec (.cveSts cellar e i) s = .next t ∧ (t.cve d e).pc = v.pc + 1 ∧ (t.cve d e).k = v.k ∧
      t.mem = s.mem ∧ t.regs = s.regs ∧ ∀ w, Tab.get (fun _ => 0) (t.cve d e).scratch w =
        if scratchAt i r ≤ w ∧ w < scratchAt i r + 32 then laneOf a (w - scratchAt i r) else Tab.get (fun _ => 0) v.scratch w) ∧
    (s.cveAt d e 0x3F i = some (r, p) → r.phase = 1 → s.ruleGroup d r.item.rule = false →
      s.runHeld d r.item [0, 1, 2, 3, 4, 5, 6] (r.first + r.group) (r.count - r.group) = false →
      (r.count ≤ r.group + 1 → s.recDown d r.item [2, 3, 4, 6] r.now = false → ∃ t, exec (.cveEnd cellar e i) s = .next t ∧ (t.cve d e).run = none ∧
        t.fld (Reg.updCounts d) 0 32 = min (s.fld (Reg.updCounts d) 0 32 + 1) (2 ^ 32 - 1) ∧
        t.mem = ((((s.storeRec d e r.item p.step 2 r.now (v.reg 1)).storeRec d e r.item p.step 3 r.now (v.reg 2)).storeRec d e r.item p.step 4 r.now
          (v.reg 3)).storeRec d e r.item p.step 6 r.now (v.reg 1)).mem) ∧
      (s.recDown d r.item [2, 3, 4, 6] r.now = true → ∃ t, exec (.cveEnd cellar e i) s = .next t ∧ (t.cve d e).run = none ∧ t.mem = s.mem ∧
        Recorded s t d 0x312 2 (s.unitDie d) r.num r.now))

/-! ### The setup space -/

/-- R9 to R12, R36 to R39, R628: a write that its path may make changes the register it names by its fields' types and no other register: RW takes
the value and consumes the path's latch, W1C clears, RO stays, a locked RWL field stays and is counted, a reserved value is refused; an access of a bad size or alignment, one of
no register, and one of a register the supervisor owns are refused and recorded. -/
def Obligations.RegisterWrites : Prop :=
  ∀ (path : Path) (off : BitVec 24) (v : BitVec 64) (s : State), let a := off.toNat
    s.inReset = false →
    (∀ (c : Fin 64) (e : Fin 6), a = Reg.engStart c e → s.mayWrite path a = true → ∃ t, exec (.registerWrite path off 4 v) s = .next t ∧
      t.reg a = v &&& 0xFFFFF ∧ RegsOnly s t (fun x => x = a) ∧ t.mem = s.mem ∧ t.cores = s.cores ∧ t.latch = s.latch.filter (fun x => x.1 != path)) ∧
    (∀ k : Fin 16, a = Reg.pegInitWord k → s.mayWrite path a = true → s.fld (Reg.pegInitCtrl k) 31 1 = 0 →
      ∃ t, exec (.registerWrite path off 8 v) s = .next t ∧ t.reg a = v ∧ RegsOnly s t (fun x => x = a) ∧ t.mem = s.mem ∧ t.cores = s.cores) ∧
    (∀ (c : Fin 64) (e : Fin 2), a = Reg.opeFlags c e → s.mayWrite path a = true → ∃ t, exec (.registerWrite path off 4 v) s = .next t ∧
      t.reg a = s.reg a &&& ~~~(v &&& 0xF) ∧ RegsOnly s t (fun x => x = a) ∧ t.mem = s.mem ∧ t.cores = s.cores) ∧
    (∀ c : Fin 64, a = Reg.tpeFed c → s.mayWrite path a = true → ∃ t, exec (.registerWrite path off 8 v) s = .next t ∧
      RegsOnly s t (fun _ => False) ∧ t.mem = s.mem ∧ t.cores = s.cores) ∧
    (∀ c : Fin 64, a = Reg.coreCode c → s.mayWrite path a = true → 193 ≤ bitsOf v.toNat 0 8 ∨ 193 ≤ bitsOf v.toNat 16 8 →
      ∃ t, exec (.registerWrite path off 4 v) s = .next t ∧ RegsOnly s t (fun _ => False) ∧ t.cores = s.cores ∧
        Recorded s t 0 0x042 2 (s.unitDie 0) 0 0) ∧
    (a = Reg.pkgId → s.mayWrite path a = true → s.locked path a = true → bitsOf v.toNat 0 13 ≠ s.fld a 0 13 →
      ∃ t, exec (.registerWrite path off 4 v) s = .next t ∧ t.reg a = s.reg a ∧ t.fld Reg.secCounts 0 16 = satInc (s.fld Reg.secCounts 0 16) 16 ∧
        RegsOnly s t (fun x => x = Reg.secCounts) ∧ t.cores = s.cores) ∧
    (∀ q : Fin 4, a = Reg.spareCore → s.mayWrite path a = true → s.locked path a = true → bitsOf v.toNat (8 * q) 5 ≠ s.slotOf q →
      ∃ t, exec (.registerWrite path off 4 v) s = .next t ∧ (∀ p : Fin 4, t.slotOf p = s.slotOf p) ∧
        t.fld Reg.secCounts 0 16 = satInc (s.fld Reg.secCounts 0 16) 16 ∧ RegsOnly s t (fun x => x = Reg.secCounts) ∧ t.cores = s.cores) ∧
    (∀ d, regFind a = some d → d.width = 32 → path = .steward → a % 4 = 0 → s.supOwned a = true →
      ∃ t, exec (.registerWrite path off 4 v) s = .next t ∧ RegsOnly s t (fun x => x = Reg.secCounts) ∧
        t.fld Reg.secCounts 16 16 = satInc (s.fld Reg.secCounts 16 16) 16 ∧ t.mem = s.mem ∧ t.cores = s.cores) ∧
    (∀ size, path ≠ .jtag → accessOk a size = false → ∃ t, exec (.registerWrite path off size v) s = .next t ∧ RegsOnly s t (fun _ => False) ∧
      t.mem = s.mem ∧ t.cores = s.cores ∧ Recorded s t (dieOf a) 0x045 2 (s.unitDie (dieOf a)) 0 0) ∧
    (path ≠ .jtag → a % 4 = 0 → laneAt a = none → ∃ t, exec (.registerWrite path off 4 v) s = .next t ∧ RegsOnly s t (fun _ => False) ∧
      t.mem = s.mem ∧ t.cores = s.cores ∧ Recorded s t (dieOf a) 0x042 2 (s.unitDie (dieOf a)) 0 0) ∧
    (∀ size, path = .jtag → inDbg a = false → ∃ t, exec (.registerWrite path off size v) s = .next t ∧ t = { s with latch := t.latch })

/-! ### The guyline fabric -/

/-- R387 to R391, R393, R396: a good frame in sequence is accepted with its credit and acknowledgement, any other is discarded until the expected one
comes; unacknowledged frames are sent again, and after eight resends the port goes down; the router delivers or queues each packet by its route, with
the time its last flit was accepted, and discards and counts one of a reserved type. -/
def Obligations.FabricFrames : Prop :=
  ∀ (g : Fin 8) (s : State), let p := s.port g
    (∀ (corrected uncorrectable : Nat) (bs : List Byte), let tr := fieldAt bs 2048 8
      let crcOk := bitsOf tr 0 32 == crc32 (bs.take 2048 ++ (bs.drop 2052).take 4)
      s.portTakes g = true → bs.length = 2056 →
      (crcOk = true → uncorrectable = 0 → tr.testBit 63 = false → bitsOf tr 32 10 = p.rxNext → tr.testBit 52 = false →
        ∃ t, exec (.frameReceive g corrected uncorrectable bs) s = .next t ∧ (t.port g).rx = p.rx ++ bs.take 2048 ∧ (t.port g).rxAt = p.rxAt ++ List.replicate 32 s.time ∧
          (t.port g).rxNext = (p.rxNext + 1) % 1024 ∧ (t.port g).lost = false ∧
          (t.port g).unacked = (p.acked (bitsOf tr 42 10) s.ns).unacked ∧
          (t.port g).creditOf (bitsOf tr 53 2) = p.creditOf (bitsOf tr 53 2) + bitsOf tr 55 8 ∧
          t.fld (Reg.portErrA g) 0 32 = min (s.fld (Reg.portErrA g) 0 32 + corrected) (2 ^ 32 - 1) ∧ t.mem = s.mem ∧ t.cores = s.cores) ∧
      (crcOk = false ∨ uncorrectable ≠ 0 ∨ (tr.testBit 63 = false ∧ bitsOf tr 32 10 ≠ p.rxNext) →
        ∃ t, exec (.frameReceive g corrected uncorrectable bs) s = .next t ∧ (t.port g).rx = p.rx ∧ (t.port g).rxNext = p.rxNext ∧
          (t.port g).unacked = p.unacked ∧ (t.port g).lost = true ∧ (p.lost = false → (t.port g).nak = true) ∧
          (crcOk = false → t.fld (Reg.portErrB g) 0 32 = satInc (s.fld (Reg.portErrB g) 0 32) 32) ∧ t.mem = s.mem)) ∧
    (∀ (f : Frame) (rest : List Frame), (s.portState g = 2 ∨ s.portState g = 6) → p.unacked = f :: rest → p.ackAt + 4000 ≤ s.ns →
      (f.resends < 8 → exec (.replayTimeout g) s = .next (s.setPort g { p with sent := 0, ackAt := s.ns })) ∧
      (8 ≤ f.resends → p.kept = none → ∃ t, exec (.replayTimeout g) s = .next t ∧ t.portState g = 4 ∧ (t.port g).unacked = [] ∧ (t.port g).txq = [] ∧
        t.isDown s.pkg g = true)) ∧
    (let k : Pkt := { bytes := p.rx, gin := g }
     let q : Pkt := { k with bytes := p.rx.take (64 * k.flits), stamp := (p.rxAt[k.flits - 1]?).getD 0 }
     64 ≤ p.rx.length → k.typ ≠ 0 → 64 * k.flits ≤ p.rx.length →
      (isReserved q.typ = false → (q.typ = 0x20 ∨ s.exitPort s.pkg q.dst q.route = none) → ∃ t, exec (.packetForward g) s = .next t ∧
        (t.port g).rx = p.rx.drop (64 * k.flits) ∧ t.inbox = s.inbox ++ [q] ∧ t.mem = s.mem ∧ (t.port g).txq = p.txq) ∧
      (isReserved q.typ = true → ∃ t, exec (.packetForward g) s = .next t ∧ (t.port g).rx = p.rx.drop (64 * k.flits) ∧ t.inbox = s.inbox ∧
        t.mem = s.mem ∧ (∀ x, (t.port x).txq = (s.port x).txq) ∧
        t.fld (Reg.guyDrops (guyDie g)) 0 32 = satInc (s.fld (Reg.guyDrops (guyDie g)) 0 32) 32) ∧
      (∀ x : Nat, isReserved q.typ = false → q.typ ≠ 0x20 → s.exitPort s.pkg q.dst q.route = some x → s.portTakes x = true →
        ∃ t, exec (.packetForward g) s = .next t ∧ (t.port g).rx = p.rx.drop (64 * k.flits) ∧ t.inbox = s.inbox ∧ t.mem = s.mem ∧
          (t.port x).txq = (s.port x).txq ++ [q.onVc (s.vcFor q x)])) ∧
    (p.rx.length < 64 → exec (.packetForward g) s = .next s)

/-- R383, R410 to R416: a port that loses a lane in use narrows, or goes down where its rest is too narrow; narrowing ends at the narrower width, or
after 1 ms with the port down; a port held out of the map for 1 ms is marked up; a GO retrains and asks the partner, which retrains too, or is kept
until the retrain ends; a retrain brings the port up only to the partner the shape implies. (The form of the ask: DESIGN CHOICE, log entry 101.) -/
def Obligations.PortStates : Prop :=
  ∀ (g : Fin 8) (s : State), let p := s.port g
    (∀ good : BitVec 4, let w := max (widthOf good.toNat) (s.portWidth g + 1)
      let kept := p.used &&& good.toNat = p.used ∧ s.portState g ≠ 3
      s.portTakes g = true →
      (kept → ∃ t, exec (.portLossOfLock g good) s = .next t ∧
        t.portState g = s.portState g ∧ t.fld (Reg.portStatus g) 6 4 = good.toNat ∧ t.ports = s.ports) ∧
      (¬ kept → (3 ≤ w ∨ s.minWidth g < w) → p.kept = none → ∃ t, exec (.portLossOfLock g good) s = .next t ∧ t.portState g = 4 ∧
        t.portWidth g = 3 ∧ t.isDown s.pkg g = true ∧ (t.port g).txq = [] ∧ (t.port g).unacked = []) ∧
      (¬ kept → w < 3 → w ≤ s.minWidth g → ∃ t, exec (.portLossOfLock g good) s = .next t ∧ t.portState g = 3 ∧
        t.fld (Reg.portStatus g) 6 4 = good.toNat ∧ (t.port g).since = s.ns ∧ t.linkMap = s.linkMap)) ∧
    (∀ width : Fin 4, let w := max width.val (widthOf (s.fld (Reg.portStatus g) 6 4))
      s.portState g = 3 → w ≠ 3 → w ≤ s.minWidth g → ∃ t, exec (.portNarrowDone g width) s = .next t ∧ t.portState g = s.upState g ∧
        t.portWidth g = w ∧ (t.port g).used = lanesAt (s.fld (Reg.portStatus g) 6 4) w ∧ (t.port g).sent = 0 ∧ (t.port g).unacked = p.unacked ∧
        Recorded s t (guyDie g) 0x602 2 (s.unitDie (guyDie g)) g (s.portWidth g)) ∧
    (s.portState g = 3 → p.since + 1000000 ≤ s.ns → ∃ t, exec (.portNarrowTimeout g) s = .next t ∧ t.isDown s.pkg g = true ∧
      (t.port g).kept = none ∧ t.portState g = if p.kept = none ∨ s.portUsed g = false then 4 else 1) ∧
    (s.portState g = 6 → p.since + 1000000 ≤ s.ns → ∃ t, exec (.portUpHoldExpire g) s = .next t ∧ t.portState g = 2 ∧ t.isDown s.pkg g = false) ∧
    (s.portState g = 4 → s.fld (Reg.portCfg g) 4 1 = 1 → s.portUsed g = true → s.fld (Reg.portCtrl g) 5 1 = 0 → p.since + 100000000 ≤ s.ns →
      ∃ t, exec (.portAutoRetry g) s = .next t ∧ t.portState g = 1 ∧ t.fld (Reg.portCtrl g) 5 1 = 1) ∧
    (∀ (path : Path) (v : BitVec 32), s.mayWrite path (Reg.portCtrl g) = true → v.getLsbD 4 = true →
      (s.fld (Reg.portCtrl g) 5 1 = 0 → s.portUsed g = true → s.portState g = 4 → ∃ t, exec (.portRetrain g (some path) v) s = .next t ∧ t.portState g = 1 ∧
        t.fld (Reg.portCtrl g) 5 1 = 1 ∧ t.fld (Reg.portCtrl g) 0 4 = bitsOf v.toNat 0 4 ∧ [0x415, g.val, bitsOf v.toNat 0 4] ∈ t.notices) ∧
      (s.fld (Reg.portCtrl g) 5 1 = 1 → ∃ t, exec (.portRetrain g (some path) v) s = .next t ∧ t.portState g = s.portState g ∧
        (t.port g).kept = some (bitsOf v.toNat 0 4) ∧ t.fld (Reg.portCtrl g) 4 1 = 1)) ∧
    (∀ v : BitVec 32, (s.fld (Reg.portCtrl g) 5 1 = 1 → exec (.portRetrain g none v) s = .next s) ∧
      (s.fld (Reg.portCtrl g) 5 1 = 0 → s.portUsed g = true → s.portState g = 4 → ∃ t, exec (.portRetrain g none v) s = .next t ∧
        t.portState g = 1 ∧ t.fld (Reg.portCtrl g) 5 1 = 1)) ∧
    (∀ (lanes : BitVec 4) (width : Fin 4) (rev : Bool) (peer : BitVec 13) (peerG : Fin 8) (shape : BitVec 16), let w := max width.val (widthOf lanes.toNat)
      s.portState g = 1 → p.kept = none → s.refLost g = false →
      (w ≠ 3 → w ≤ s.minWidth g → shape.toNat = s.fld Reg.pkgId 16 16 → peer.toNat = s.partner g → peerG.val = partnerPort g →
        ∃ t, exec (.portRetrainDone g lanes width rev peer peerG shape) s = .next t ∧ t.portState g = s.upState g ∧ t.portWidth g = w ∧
          (t.port g).used = lanesAt lanes.toNat w ∧ t.fld (Reg.portStatus g) 16 13 = peer.toNat ∧ t.fld (Reg.portCtrl g) 5 1 = 0 ∧ (t.port g).unacked = []) ∧
      (w ≠ 3 → w ≤ s.minWidth g → peer.toNat ≠ s.partner g → ∃ t, exec (.portRetrainDone g lanes width rev peer peerG shape) s = .next t ∧
        t.portState g = 5 ∧ t.portWidth g = 3 ∧ Recorded s t (guyDie g) 0x611 2 (s.unitDie (guyDie g)) g 3) ∧
      ((w = 3 ∨ s.minWidth g < w) → ∃ t, exec (.portRetrainDone g lanes width rev peer peerG shape) s = .next t ∧ t.portState g = 4 ∧ t.portWidth g = 3))

/-- R254, R401 to R405, R573: a WRITE, ADD or READ of the job's on-die memory takes effect once in its stream's order and is answered; a refused or
repeated one changes no memory; an answer ends its request, a busy NAK makes it wait, and one without an answer is sent again until its limit. (How
long a destination remembers a TAG: DESIGN CHOICE, log entry 100.) -/
def Obligations.MemoryPackets : Prop :=
  ∀ (n : Nat) (s : State),
    (∀ (p : Pkt) (space : Nat) (x : Nat × Instr × Bool), let a := s.packetAddr p
      x ∈ [(1, Instr.write n, false), (2, Instr.add n, true)] → (s.inbox.filter (fun k => k.typ == x.1))[n]? = some p → s.packetJob p = .ok space →
      s.targetOk p space = true → s.windowInReset (s.window a) = false →
      (tagCtl p.tag = false → s.inreqs = [] → (s.window a).onDie = true →
        (s.conn p.src p.tag = (space + 1, tagSeq p.tag) ∨ ((s.conn p.src p.tag).1 = 0 ∧ tagSeq p.tag = 0 ∧ tagEpoch p.tag ≠ 63)) →
        ∃ t, exec x.2.1 s = .next t ∧ t.mem = (s.dieWrite (addrOff a) x.2.2 (s.clear p)).mem ∧ t.inreqs = [] ∧ t.cores = s.cores ∧
          t.conn p.src p.tag = (space + 1, (tagSeq p.tag + 1) % 65536) ∧
          (p.fill = true → t.pegs.fills = s.pegs.fills ++
            [⟨p.peg, space, senderUnit p.src p.tag, none, some (p.src, p.sdie, p.tag, addrOff a)⟩]) ∧
          (p.fill = false → t.pegs = s.pegs ∧ (p.src = s.pkg → ∃ k ∈ t.inbox, k.typ = 5 ∧ k.tag = p.tag))) ∧
      (s.takeTag p.src p.tag space = none → ∃ t, exec x.2.1 s = .next t ∧ t.mem = s.mem ∧ t.inreqs = s.inreqs ∧ t.conns = s.conns ∧
        t.taken = s.taken ∧ t.pegs = s.pegs ∧ (p.src = s.pkg → ∃ k ∈ t.inbox, k.typ = 5 ∧ k.tag = p.tag))) ∧
    (∀ (p : Pkt) (x : Nat × Instr) (u : State), x ∈ [(1, Instr.write n), (2, Instr.add n), (3, Instr.read n)] →
      (s.inbox.filter (fun k => k.typ == x.1))[n]? = some p → ({ s with inbox := s.inbox.erase p } : State).packetJob p = .error u →
      exec x.2 s = .next u ∧ u.mem = s.mem ∧ u.cores = s.cores) ∧
    (∀ (p : Pkt) (space : Nat), let a := s.packetAddr p
      (s.inbox.filter (fun k => k.typ == 3))[n]? = some p → s.packetJob p = .ok space → s.targetOk p space = true →
      s.windowInReset (s.window a) = false → (s.window a).onDie = true → p.src = s.pkg →
      ∃ t, exec (.read n) s = .next t ∧ t.mem = s.mem ∧ t.cores = s.cores ∧ ∃ k ∈ t.inbox, k.typ = 4 ∧ k.tag = p.tag ∧ t.clear k = s.rdBytes (addrOff a) p.len) ∧
    (∀ (p : Pkt) (r : Req), let c := tagCore r.tag
      (s.inbox.filter (fun k => k.typ == 4))[n]? = some p → s.checked p = none → s.reqOf p = some r → r.kind = 3 → tagCtl r.tag = true →
      ∃ t, exec (.readData n) s = .next t ∧ t.reqs = s.reqs.erase r ∧ t.mem = s.mem ∧ OtherCores s t c ∧ (t.core c).loads = (s.core c).loads.map
        (fun l => if l.tag = some r.tag then { l with data := some (BitVec.ofNat 64 (leNat (s.clear p))) } else l)) ∧
    (∀ (p : Pkt) (r : Req), let c := tagCore r.tag
      (s.inbox.filter (fun k => k.typ == 5))[n]? = some p → s.checked p = none → s.reqOf p = some r → (r.kind = 1 ∨ r.kind = 2) → tagCtl r.tag = true →
      ∃ t, exec (.ack n) s = .next t ∧ t.reqs = s.reqs.erase r ∧ t.mem = s.mem ∧ OtherCores s t c ∧
        (t.core c).stores = (s.core c).stores.map (fun x => if x.tag = some r.tag then { x with done := true } else x)) ∧
    (∀ (p : Pkt) (r : Req), (s.inbox.filter (fun k => k.typ == 6))[n]? = some p → s.checked p = none → s.reqOf p = some r →
      (p.reason = 1 → ∃ t, exec (.nak n) s = .next t ∧ { r with backoff := true, last := s.ns } ∈ t.reqs ∧ t.mem = s.mem ∧ t.cores = s.cores) ∧
      (p.reason = 2 → ∃ t, exec (.nak n) s = .next t ∧ { r with backoff := false, last := s.ns } ∈ t.reqs ∧ t.mem = s.mem ∧
        t.isDown (fieldAt p.payload 0 2 % 8192) (byteAt p.payload 2 % 8) = true) ∧
      (p.reason = 3 → ∃ t, exec (.nak n) s = .next t ∧ { r with backoff := false, last := s.ns } ∈ t.reqs ∧ t.mem = s.mem) ∧
      (p.reason = 4 → r.kind ≤ 3 → tagCtl r.tag = true → ∃ t, exec (.nak n) s = .next t ∧ t.reqs = s.reqs.erase r ∧ t.mem = s.mem)) ∧
    (∀ (r : Req) (x : Instr × Bool × Nat), x ∈ [(Instr.e2eTimeout n, false, s.e2eTimeoutNs (s.reqDie r)), (.backoffExpire n, true, s.e2eBackoffNs (s.reqDie r))] →
      s.reqs[n]? = some r → r.backoff = x.2.1 →
      (r.last + x.2.2 ≤ s.ns → ∃ t, exec x.1 s = .next t ∧ { r with backoff := false, last := s.ns } ∈ t.reqs ∧ t.mem = s.mem ∧ t.cores = s.cores) ∧
      (s.ns < r.last + x.2.2 → exec x.1 s = .next s)) ∧
    (∀ r : Req, s.reqs[n]? = some r → r.first + s.e2eLimitNs (s.reqDie r) ≤ s.ns → r.kind ≤ 3 → tagCtl r.tag = true →
      ∃ t, exec (.e2eLimit n) s = .next t ∧ t.reqs = s.reqs.erase r ∧ t.mem = s.mem ∧
        Recorded s t (s.reqDie r) 0x612 2 (s.unitDie (s.reqDie r)) r.dst r.tag)

/-- R412, R418 to R422: a newer LINKSTATE notice marks its port and an older one does nothing; a SYNC leaves every 10 µs and its arrival is kept; the
parent's correction steps the time base once; with no path for 100 µs the package is in holdover, and after 1 ms it follows the backup master. -/
def Obligations.LinkStateAndTime : Prop :=
  ∀ (s : State),
    (∀ (n : Nat) (pkg : BitVec 13) (g : Fin 8) (down : Bool) (seq : Nat) (p : Pkt), let k := 8 * pkg.toNat + g.val
      (s.inbox.filter (fun x => x.typ == 9))[n]? = some p → s.checked p = none →
      (Tab.get (fun _ => 0) s.lsSeen k ≤ seq → pkg.toNat ≠ s.pkg → ∃ t, exec (.linkstate n pkg g down seq) s = .next t ∧
        t.isDown pkg.toNat g = down ∧ Tab.get (fun _ => 0) t.lsSeen k = seq + 1 ∧ (∀ m x, x < 8 → (m, x) ≠ (pkg.toNat, g.val) → t.isDown m x = s.isDown m x) ∧
        t.mem = s.mem ∧ t.cores = s.cores) ∧
      (seq < Tab.get (fun _ => 0) s.lsSeen k → exec (.linkstate n pkg g down seq) s = .next { s with inbox := s.inbox.erase p })) ∧
    (∀ g : Fin 8, s.portTakes g = true →
      ((s.port g).syncNext ≤ s.ns → ∃ t k, exec (.syncSend g) s = .next t ∧ (t.port g).txq = (s.port g).txq ++ [k] ∧ k.typ = 0x20 ∧
        (t.port g).syncNext = s.ns + 10000 ∧ t.regs = s.regs ∧ t.mem = s.mem) ∧
      (s.ns < (s.port g).syncNext → exec (.syncSend g) s = .next s)) ∧
    (∀ (n : Nat) (k : Pkt), let g := k.gin % 8
      let w := fun (i : Nat) => BitVec.ofNat 64 (fieldAt k.payload i 8)
      (s.inbox.filter (fun x => x.typ == 0x20))[n]? = some k → k.checkOk = true →
      (w 8 = 0 → ∃ t, exec (.sync n) s = .next t ∧ (t.port g).syncPeer = w 0 ∧ (t.port g).syncAt = k.stamp ∧ t.time = s.time ∧ t.regs = s.regs) ∧
      (w 8 ≠ 0 → s.masterOf s.onBackup ≠ s.pkg → s.parentPort = some g → (s.port g).depth = fieldAt k.payload 24 1 → fieldAt k.payload 24 1 ≠ 0xFF →
        s.fld Reg.timStatus 0 2 = 1 → s.bu.step = 11 → s.bu.state = 1 → (fieldAt k.payload 25 1).testBit 1 = true → 3 ≤ s.tim.exchanges → s.tim.stepped = false →
        ∃ t, exec (.sync n) s = .next t ∧ t.fld Reg.timStatus 0 2 = 2 ∧ t.tim.stepped = true ∧ t.fld (Reg.timLink g) 32 32 = (s.fld (Reg.timLink g) 32 32 + 1) % 2 ^ 32 ∧
          t.time = s.time + BitVec.ofInt 64 ((timeDiff (w 16) (w 8) + timeDiff (w 0) k.stamp) * 4 / 8))) ∧
    (∀ m : Nat, s.tim.noPath = some m → s.timLocked = true → m + 100000 ≤ s.ns → ∃ t, exec .timHoldover s = .next t ∧ t.fld Reg.timStatus 0 2 = 3 ∧
      t.time = s.time ∧ Recorded s t 0 0x621 2 (s.unitDie 0) 0 0) ∧
    (∀ m : Nat, s.tim.noPrimary = some m → s.fld Reg.timStatus 0 2 = 3 → s.onBackup = false → m + 1000000 ≤ s.ns → s.fld Reg.timMaster 31 1 = 1 →
      s.pathTo (s.masterOf true) = true → ∃ t, exec .timMasterLost s = .next t ∧ t.onBackup = true ∧ Recorded s t 0 0x622 2 (s.unitDie 0) 0 0)

/-! ### Gradient reduction and distribution -/

/-- R429 to R433, R434 to R447: a send unit starts on its bucket's full ready peg and takes it, sends each owner the next segment, a channel adds the
contributions of its ranks in rank order, closes what is late by its policy, and ends a step on a notice or on ABORT, at the other channels of the job
too; a write of STEP_SEQ opens one where something can make its sums, and ends it where nothing can. -/
def Obligations.GradientReduction : Prop :=
  (∀ (ch : Fin 64) (s : State), let x := s.chan ch
    let p := (s.bucket ch (s.bucketOf ch x.inst)).ready
    s.chanEn ch = true → s.chanNorm ch = false → (x.phase = 1 ∨ x.phase = 2) → x.stopped = false → x.send = none → s.stepFirst ch ≤ x.inst →
    x.inst < s.stepFirst ch + s.chanB ch → s.pegGood p = true → pegState (s.pegWord p) = 0 → (∀ y ∈ s.pegs.takes, y.peg ≠ p) →
    (pegFull (s.pegWord p) = true → ∃ t, exec (.sendUnitStart ch) s = .next t ∧ (t.chan ch).send = some { inst := x.inst } ∧
      t.pegWord p = pegTaken (s.pegWord p) ∧ (∀ q, q ≠ p → t.pegWord q = s.pegWord q) ∧ t.mem = s.mem ∧ t.reqs = s.reqs) ∧
    (pegFull (s.pegWord p) = false → ∃ t, exec (.sendUnitStart ch) s = .next t ∧ t.chans = s.chans ∧ t.pegs = s.pegs ∧ t.mem = s.mem ∧ t.regs = s.regs)) ∧
  (∀ (ch : Fin 64) (s u : State) (y : Send) (bs : List Byte), let b := s.bucket ch (s.bucketOf ch y.inst)
    let r := (s.chanRank ch + 1 + y.pos) % s.chanM ch
    let k := Tab.get (fun _ => 0) y.sent r
    let seg := s.shardAt ch b r + k
    let n := 512 * s.inBytes ch
    let addr := seg + u.chanRank ch * 2 ^ 25
    (s.chan ch).send = some y → y.suspended = false → y.pos < s.chanM ch → k < s.shardLen ch b r →
    s.redHeld (s.chanSpace ch) (b.gradVa + seg * n) n = false → s.redRead (s.chanSpace ch) (b.gradVa + seg * n) n = (u, .ok bs) →
    ∃ t z, exec (.sendRound ch) s = .next t ∧ (t.chan ch).send = some z ∧ z.inst = y.inst ∧ Tab.get (fun _ => 0) z.sent r = k + 1 ∧ t.mem = s.mem ∧
      (u.chanFp32 ch = false → ∃ q ∈ t.reqs, q.kind = 0x10 ∧ q.dst = u.member ch r ∧ q.tag = redTag ch (s.bucketOf ch y.inst) y.inst ∧
        q.addr = BitVec.ofNat 64 addr ∧ q.bytes = bs) ∧
      (u.chanFp32 ch = true → ∃ q ∈ t.reqs, ∃ q' ∈ t.reqs, q.bytes = bs.take 1024 ∧ q.addr = BitVec.ofNat 64 addr ∧ q'.bytes = bs.drop 1024 ∧
        q'.addr = BitVec.ofNat 64 (seg + 2 ^ 24 + u.chanRank ch * 2 ^ 25))) ∧
  (∀ (fp : Bool) (first : List Byte) (rest : List (List Byte)) (inst seg half : Nat), let pays := first :: rest
    let q := Part.advance fp [] pays.length (pays.length + 1) { inst := inst, seg := seg, half := half, staged := pays.zipIdx.map (fun x => (x.2, x.1)) }
    q.next = pays.length ∧ q.n = pays.length ∧ q.staged = [] ∧ q.acc = (rest.map (contribution fp)).foldl addList (contribution fp first)) ∧
  (∀ (n : Nat) (p : Pkt) (c : Nat) (s : State), let rank := bitsOf p.addr 25 13
    let seg := bitsOf p.addr 0 24
    let half := if s.chanFp32 c then bitsOf p.addr 24 1 else 0
    (s.inbox.filter (fun k => k.typ == 0x10))[n]? = some p → s.redTake p = .ok c → p.stamp.toNat < s.deadline c →
    (s.seqPlace c (tagInst p.tag) = .old → ∃ t, exec (.contrib n) s = .next t ∧ t.chans = s.chans ∧ t.mem = s.mem ∧
      t.fld (Reg.redCounts (Reg.redDie c)) 0 32 = satInc (s.fld (Reg.redCounts (Reg.redDie c)) 0 32) 32) ∧
    (s.seqPlace c (tagInst p.tag) = .later → ∃ t, exec (.contrib n) s = .next t ∧ t.chans = s.chans ∧ t.mem = s.mem ∧
      t.fld (Reg.redCounts (Reg.redDie c)) 32 32 = satInc (s.fld (Reg.redCounts (Reg.redDie c)) 32 32) 32) ∧
    (∀ inst, s.seqPlace c (tagInst p.tag) = .open_ inst → let b := s.bucket c (s.bucketOf c inst)
      let lo := s.shardAt c b (s.chanRank c)
      tagBucket p.tag = s.bucketOf c inst → rank < s.chanM c → s.member c rank = p.src → lo ≤ seg → seg < lo + s.shardLen c b (s.chanRank c) →
      rank ∉ (s.chan c).missing → (inst, seg) ∉ (s.chan c).written → (s.chan c).parts = [] → s.chanNorm c = false → s.slotted c = [] →
      0 < s.fld (Reg.redSlots c) 16 13 → ∃ t, exec (.contrib n) s = .next t ∧ (rank, s.clear p) ∈ (t.partOf c inst seg half).staged ∧
        rank ∈ (t.chan c).seen ∧ t.mem = s.mem)) ∧
  (∀ (ch : Fin 64) (s : State), let x := s.chan ch
    s.chanEn ch = true → x.phase = 1 → s.stillOpen ch = true →
    (s.time.toNat < s.deadline ch → exec (.redDeadline ch) s = .next s) ∧
    (s.deadline ch ≤ s.time.toNat → x.late = false → s.chanRepeat ch = false → ∃ t, exec (.redDeadline ch) s = .next t ∧ (t.chan ch).late = true ∧
      ∀ r, r < s.chanM ch → r ∉ x.seen → r ∉ s.waitingRanks ch → r ∈ (t.chan ch).missing) ∧
    (s.deadline ch ≤ s.time.toNat → x.late = false → s.chanRepeat ch = true → ∃ t, exec (.redDeadline ch) s = .next t ∧ (t.chan ch).phase = 3 ∧
      t.mem = s.mem ∧ (∀ o, o < 64 → s.chanEn o = true → s.chanSpace o = s.chanSpace ch → s.stepLive o = true → (t.chan o).phase = 3) ∧
      ((∀ o, o < 64 → o ≠ ch.val → s.chanEn o = true → s.chanSpace o = s.chanSpace ch → s.stepLive o = false) →
        Recorded s t (Reg.redDie ch) 0x504 2 (s.unitDie (Reg.redDie ch)) (ch + s.stepFirst ch % 65536 * 65536) 0xFFFF)) ∧
    (s.deadline ch + s.fld (Reg.redTime ch) 32 32 ≤ s.time.toNat → x.late = true → s.chanRepeat ch = false →
      ∃ t, exec (.redGrace ch) s = .next t ∧ (t.chan ch).phase = 3 ∧ t.mem = s.mem) ∧
    (s.time.toNat < s.deadline ch + s.fld (Reg.redTime ch) 32 32 → exec (.redGrace ch) s = .next s)) ∧
  (∀ (n : Nat) (p : Pkt) (c : Nat) (s : State), (s.inbox.filter (fun k => k.typ == 0x14))[n]? = some p → s.redTake p = .ok c →
    (((s.chan c).phase = 1 ∨ (s.chan c).phase = 2) → leNat ((s.clear p).take 8) = s.stepFirst c →
      ∃ t, exec (.repeatNotice n) s = .next t ∧ (t.chan c).phase = 3 ∧ t.mem = s.mem) ∧
    (leNat ((s.clear p).take 8) ≠ s.stepFirst c → ∃ t, exec (.repeatNotice n) s = .next t ∧ t.chans = s.chans ∧ t.mem = s.mem)) ∧
  (∀ (ch : Fin 64) (path : Path) (v : BitVec 64) (s : State),
    (s.mayWrite path (Reg.redCtrl ch) = true → ((s.chan ch).phase = 1 ∨ (s.chan ch).phase = 2) → ∃ t, exec (.channelAbort ch path) s = .next t ∧
      (t.chan ch).phase = 3 ∧ t.mem = s.mem ∧ ∀ q ∈ t.reqs, q ∈ s.reqs) ∧
    (s.mayWrite path (Reg.redSeq ch) = true → s.chanEn ch = true → let fb := s.chanField ch 5 1 == 1
      let sums := if fb then s.fbCores ch ≠ 0 else s.guyOpen.contains (Reg.redDie ch) = false
      (sums → ∃ t, exec (.channelStepSeq ch path v) s = .next t ∧ t.reg (Reg.redSeq ch) = v ∧
        (t.chan ch).phase = 1 ∧ (t.chan ch).inst = v.toNat ∧ (t.chan ch).closed = [] ∧ (t.chan ch).missing = [] ∧ (t.chan ch).seen = [] ∧
        (t.chan ch).parts = [] ∧ (t.chan ch).late = false ∧ (t.chan ch).fb = fb ∧ (t.chan ch).acks = (s.chan ch).acks ∧
        t.fld (Reg.redStatus ch) 0 3 = 1 ∧ t.mem = s.mem ∧ ∀ c, c ≠ ch.val → t.chan c = s.chan c) ∧
      (¬ sums → ∃ t, exec (.channelStepSeq ch path v) s = .next t ∧ t.reg (Reg.redSeq ch) = v ∧ (t.chan ch).phase = 3 ∧ t.mem = s.mem)))

/-- R449 to R457: a package's norm contribution goes to the root once its channels are closed, the root keeps each rank's, and the result reaches the
registers; a finished item's segments are sent to every member, a DIST is written where its piece lies unless a newer one was, and a DIST_DONE fills
the bucket's landed peg once. -/
def Obligations.NormAndDistribution : Prop :=
  (∀ (ch : Fin 64) (s : State), let v := s.normContribution
    s.chanEn ch = true → s.chanNorm ch = true → (s.chan ch).phase = 1 → (s.chan ch).scalarSent = false → s.othersClosed ch = true →
    ∃ t, exec (.normContribution ch) s = .next t ∧ (t.chan ch).scalarSent = true ∧ t.mem = s.mem ∧ t.cellars = s.cellars ∧
      ∃ q ∈ t.reqs, q.kind = 0x11 ∧ q.dst = s.member ch 0 ∧ q.tag = redTag ch 0 (s.stepFirst ch) ∧
        q.bytes = leBytes 8 v.1 ++ leBytes 8 (boolNat v.2)) ∧
  (∀ (n : Nat) (p : Pkt) (c inst : Nat) (s : State), let rank := bitsOf p.addr 25 13
    (s.inbox.filter (fun k => k.typ == 0x11))[n]? = some p → s.redTake p = .ok c → p.stamp.toNat < s.deadline c →
    s.seqPlace c (tagInst p.tag) = .open_ inst → s.chanNorm c = true → rank < s.chanM c → s.member c rank = p.src → s.chanRank c = 0 →
    rank ∉ (s.chan c).missing →
    ((∀ y ∈ (s.chan c).scalars, y.1 ≠ rank) → ∃ t, exec (.scalar n) s = .next t ∧ t.mem = s.mem ∧
      (rank, fieldAt (s.clear p) 0 8, (byteAt (s.clear p) 8).testBit 0) ∈ (t.chan c).scalars ∧ rank ∈ (t.chan c).seen) ∧
    ((∃ y ∈ (s.chan c).scalars, y.1 = rank) → ∃ t, exec (.scalar n) s = .next t ∧ t.chans = s.chans ∧ t.mem = s.mem)) ∧
  (∀ (n : Nat) (p : Pkt) (c : Nat) (s : State), (s.inbox.filter (fun k => k.typ == 0x12))[n]? = some p → s.redTake p = .ok c →
    (s.chan c).phase = 1 → tagInst p.tag = s.stepFirst c % 65536 → ∃ t, exec (.scalarResult n) s = .next t ∧
      t.reg (Reg.redNorm (Reg.redDie c)) = BitVec.ofNat 64 (fieldAt (s.clear p) 0 8) ∧
      t.reg (Reg.redInfo (Reg.redDie c)) = BitVec.ofNat 64 (fieldAt (s.clear p) 8 8) ∧ (t.chan c).phase = 2 ∧
      [0x451, c, fieldAt (s.clear p) 8 4] ∈ t.notices ∧ t.mem = s.mem) ∧
  (∀ (n : Nat) (x : List Nat) (c k seg : Nat) (s u : State) (bs : List Byte), let b := s.bucket c k
    let a := b.dVa + recAt b.dfmt b.dVa (16 * (seg - s.shardAt c b (s.chanRank c)))
    (s.notices.filter (fun y => y.head? == some 0x3610))[n]? = some x → s.noticeSegs x = [(c, k, seg)] →
    (s.redHeld (s.chanSpace c) a (dBytes b.dfmt) = true → exec (.distSendStart n) s = .next s) ∧
    (s.redHeld (s.chanSpace c) a (dBytes b.dfmt) = false → s.redRead (s.chanSpace c) a (dBytes b.dfmt) = (u, .ok bs) →
      ∃ t, exec (.distSendStart n) s = .next t ∧ t.mem = s.mem ∧ t.notices = s.notices.erase x ∧
      ∀ r, r < u.chanM c → ∃ q ∈ t.reqs, q.kind = 0x13 ∧ q.dst = u.member c r ∧ q.tag = redTag c k (u.instFor c k) ∧ q.bytes = bs ∧
        q.addr = BitVec.ofNat 64 (seg + u.chanRank c * 2 ^ 25))) ∧
  (∀ (n : Nat) (p : Pkt) (c : Nat) (s : State), let k := tagBucket p.tag
    let b := s.bucket c k
    let seq := tagInst p.tag
    let newest := Tab.get (fun _ => 0) (s.chan c).applied k
    let at' := b.first + 16 * bitsOf p.addr 0 24
    let bytes := (widenSeg b.dfmt b.wfmt (s.clear p)).1
    (s.inbox.filter (fun k => k.typ == 0x13))[n]? = some p → s.redTake p = .ok c →
    (s.distHeld p = true → exec (.dist n) s = .next s) ∧
    (s.distHeld p = false → newest ≠ 0 → seqBefore seq (newest - 1) = true → ∃ t, exec (.dist n) s = .next t ∧ t.mem = s.mem ∧ t.chans = s.chans) ∧
    (∀ (j : Job) (q : List Byte) (tile : Nat) (u : State), s.distHeld p = false → (newest = 0 ∨ seqBefore seq (newest - 1) = false) → s.jobAt (s.chanSpace c) = some j →
      j.pieces.find? (fun q => pieceTag q == b.tensor) = some q → pieceTile q (at' / 32) = some tile →
      let va := tile + (if isBlock b.wfmt then at' % 32 / 4 * groupBytes b.wfmt else at' % 32 * lineBytes b.wfmt)
      s.redMapped (s.chanSpace c) va bytes.length = (u, none) → ∃ t, exec (.dist n) s = .next t ∧
        t.mem = (u.redWrite (s.chanSpace c) va bytes).1.mem ∧ Tab.get (fun _ => 0) (t.chan c).applied k = seq + 1)) ∧
  (∀ (n : Nat) (p : Pkt) (c : Nat) (s : State), (s.inbox.filter (fun k => k.typ == 0x15))[n]? = some p → s.redTake p = .ok c →
    ((p.src, p.tag) ∉ (s.chan c).doneSeen → ∃ t f, exec (.distDone n) s = .next t ∧ t.pegs.fills = s.pegs.fills ++ [f] ∧
      f.peg = (s.bucket c (tagBucket p.tag)).landed ∧ f.space = s.chanSpace c ∧ (p.src, p.tag) ∈ (t.chan c).doneSeen ∧ t.mem = s.mem) ∧
    ((p.src, p.tag) ∈ (s.chan c).doneSeen → ∃ t, exec (.distDone n) s = .next t ∧ t.pegs = s.pegs ∧ t.chans = s.chans ∧ t.mem = s.mem))

/-! ### Jobs -/

/-- R470 to R476, R491 to R493, R566: a LOAD that passes every check puts its job in state Loaded with its keys, and one that fails is refused
with the fault it names; START runs the engines that the job uses, PAUSE stops them, RESUME runs the stopped ones, TEARDOWN stops them
and ends the job, whose memories and keys are then erased; EXPORT writes pages under the payload key. -/
def Obligations.JobLifecycle : Prop :=
  (∀ (d : LoadData) (e : Entry) (s : State), s.jobHead 1 = some e → s.sup.jobq = [e] → s.fld 0x50018 22 1 = 0 →
    (∀ u, s.tryLoad d (fieldAt (entBody e.bytes) 8 8) = .ok u → ∃ t j, exec (.load d) s = .next t ∧ t.jobAt d.space = some j ∧ j.id = bundleJob d ∧
      j.st = .loaded ∧ j.cores = (bundleJobOf d s.pkg).cores ∧ j.tables = itemTables d s.pkg ∧ t.keyAt 1 d.keySlot = (bundleJobOf d s.pkg).key 0 0 ∧ t.sup.jobq = [] ∧ t.sup.work = none) ∧
    (∀ f, s.tryLoad d (fieldAt (entBody e.bytes) 8 8) = .error f → ∃ t, exec (.load d) s = .next t ∧ t.jobs = s.jobs ∧ t.keys = s.keys ∧
      t.sup.jobq = [] ∧ MemOnly s t (fun k => 2 ^ 64 ≤ k) ∧ Recorded s t 0 f.code 2 s.unitPkg f.d0 f.d1)) ∧
  (∀ (e : Entry) (space : Nat) (j : Job) (s : State), s.jobAt space = some j →
    (s.headFor 2 (· == .loaded) = some (.ok (e, space, j)) → ∃ t j', exec .start s = .next t ∧ t.jobAt space = some j' ∧ j'.st = .running ∧
      ∀ x ∈ j.cores, ∀ y, y < 6 → (j.engines x).testBit y = true → s.coreInReset x.core = false → s.catches x.core = false → (s.eng x.core y).st = .halted →
        (s.eng x.core y).dhold = false → s.inCode x.core (s.fld (Reg.engStart x.core y) 0 20) = true → s.fld (Reg.engStart x.core y) 0 20 % insnSize y = 0 →
        (t.eng x.core y).st = .issuing ∧ (t.eng x.core y).pc = s.fld (Reg.engStart x.core y) 0 20) ∧
    (s.headFor 3 (· == .running) = some (.ok (e, space, j)) → (entFlags e.bytes).testBit 1 = false →
      (j.open_ = true ∨ s.stepWaits space j = true → ∃ t j', exec .pause s = .next t ∧ t.jobAt space = some j' ∧ j'.st = .running ∧ j'.pausing = true ∧ t.cores = s.cores) ∧
      (j.open_ = false → s.stepWaits space j = false → ∃ t j', exec .pause s = .next t ∧ t.jobAt space = some j' ∧ j'.st = .paused ∧ j'.pausing = false ∧
        ∀ x ∈ j.cores, ∀ y, y < 6 → (t.eng x.core y).st = if (s.eng x.core y).st.runs = true then .stopped else (s.eng x.core y).st)) ∧
    (s.headFor 3 (· == .running) = some (.ok (e, space, j)) → (entFlags e.bytes).testBit 1 = true → ∃ t j', exec .pause s = .next t ∧
      t.jobAt space = some j' ∧ j'.st = .paused ∧ (j.open_ = false → t.chans = s.chans) ∧
      ∀ x ∈ j.cores, ∀ y, y < 6 → (t.eng x.core y).st.runs = false) ∧
    (s.headFor 4 (· == .paused) = some (.ok (e, space, j)) → ∃ t j', exec .resume s = .next t ∧ t.jobAt space = some j' ∧ j'.st = .running ∧
      ∀ x ∈ j.cores, ∀ y, y < 6 → s.coreInReset x.core = false → s.catches x.core = false → (s.eng x.core y).st = .stopped → (s.eng x.core y).dhold = false →
        (t.eng x.core y).st = .issuing ∧ (t.eng x.core y).pc = (s.eng x.core y).pc) ∧
    (s.headFor 4 (· == .paused) = some (.ok (e, space, j)) → ∃ t, exec .resume s = .next t ∧
      ∀ c y, y < 6 → (s.eng c y).st = .halted → (t.eng c y).st = .halted) ∧
    (s.headFor 5 (fun _ => true) = some (.ok (e, space, j)) → ∃ t j', exec .teardown s = .next t ∧ t.jobAt space = some j' ∧
      j'.ending = some ⟨s.ns, 1, true⟩ ∧ j'.open_ = false ∧ ∀ x ∈ j.cores, ∀ y, y < 6 → (t.eng x.core y).st.runs = false)) ∧
  (∀ (space : Fin 16) (j : Job) (x : Teardown) (s : State), s.jobAt space = some j → j.ending = some x → s.jobTransfers space j = false →
    ∃ t, exec (.teardownFinish space) s = .next t ∧ t.jobAt space = none ∧ (∀ d, 1 ≤ d → d ≤ 4 → t.keyAt d j.keySlot = 0) ∧
      t.fld (Reg.memSpace space) 0 1 = 0 ∧ (∀ y ∈ j.cores, y.core < 64 → ∀ off, off < storeSize → t.rd8 (storeKey y.core off) = 0) ∧
      ∀ k, k < 16 → j.clusters.testBit k = true → ∀ off, off < 0x200000 → t.rd8 (atticKey k off) = 0) ∧
  (∀ (e : Entry) (space : Nat) (j : Job) (s u : State) (bs : List Byte), let body := entBody e.bytes
    let va := fieldAt body 0 8
    let bus := fieldAt body 16 8
    s.headFor 6 (fun x => x == .loaded || x == .paused || x == .finished) = some (.ok (e, space, j)) → fieldAt body 8 8 = 65536 → s.sup.held ≠ [] →
    s.redRead space va 65536 = (u, .ok bs) → ∃ t, exec .export_ s = .next t ∧ t.jobs = s.jobs ∧ MemOnly s t (Within (busKey bus) bs.length) ∧
      ∀ i, i < bs.length → t.rd8 (busKey bus + i) = Config.xtsEnc (j.key 1 0) ((va + i) / 512) ((bs.drop (i / 512 * 512)).take 512) (i % 512))

/-- R459 to R469, R478 to R483: a poll takes the next good ring entry and no other, an entry over the fabric is queued once, setting EN begins a
pass; the first STEP_OPEN that its job can take opens the step it names on every channel, or is discarded where it is not the job's next; the step
closes when its channels and passes are done; a late step is ended. (Which STEP_OPEN waits: DEDUCED, log entry 58.) -/
def Obligations.RingsAndSteps : Prop :=
  (∀ (p0 p3 c1 c2 : BitVec 64) (bs : List Byte) (es : List (List Byte)) (s : State), let x := s.ring 0
    s.serving = true → s.sup.polled + 500 * s.fld Reg.jobPoll 0 12 ≤ s.ns → s.ringOn 0 = true → s.ringOn 3 = false → s.fld (Reg.ringStat 0) 0 1 = 0 →
    s.sup.held = [] → s.sup.jobq = [] → x.prod ≤ x.cons + 1 → p0.toNat = x.cons + 1 →
    (entCheckOk bs x.cons = true → s.entryFault 0 bs x.cons (s.pass 0) = 0 → ∃ t, exec (.jobPoll p0 [bs] p3 es c1 c2) s = .next t ∧
      t.sup.jobq = [⟨x.cons, bs, 0⟩] ∧ (t.ring 0).cons = x.cons + 1 ∧ t.rdLE (busKey (s.ctlb 0 + 8)) 8 = (x.cons + 1) % 2 ^ 64 ∧
      MemOnly s t (Within (busKey (s.ctlb 0 + 8)) 8)) ∧
    (entCheckOk bs x.cons = false → ∃ t, exec (.jobPoll p0 [bs] p3 es c1 c2) s = .next t ∧ t.sup.jobq = [] ∧ (t.ring 0).cons = x.cons ∧
      t.mem = s.mem ∧ Recorded s t 0 0x403 2 s.unitPkg 0 0)) ∧
  (∀ (p0 p3 c1 c2 : BitVec 64) (es fs : List (List Byte)) (s : State), s.serving = false ∨ s.ns < s.sup.polled + 500 * s.fld Reg.jobPoll 0 12 →
    exec (.jobPoll p0 es p3 fs c1 c2) s = .next s) ∧
  (∀ (r : Fin 4) (path : Path) (v : BitVec 32) (s : State), let a := Reg.ringCfg r
    s.mayWrite path a = true →
    (s.ringOn r = false → v.getLsbD 5 = true → 4 ≤ bitsOf v.toNat 0 5 → bitsOf v.toNat 0 5 ≤ 16 → ∃ t, exec (.ringEnable r path v) s = .next t ∧
      t.ringOn r = true ∧ t.ringSize r = 2 ^ bitsOf v.toNat 0 5 ∧ (t.ring r).prod = 0 ∧ (t.ring r).cons = 0 ∧
      t.reg (Reg.ringPass r) = s.reg (Reg.ringPass r) + 1 ∧ t.mem = s.mem) ∧
    (s.ringOn r = true → v.getLsbD 5 = false → ∃ t, exec (.ringEnable r path v) s = .next t ∧ t.ringOn r = false ∧ t.sup = s.sup ∧
      RegsOnly s t (fun off => off = a)) ∧
    (s.ringOn r = true → v.getLsbD 5 = true → exec (.ringEnable r path v) s = .next ((s.accessed path).unmapped a))) ∧
  (∀ (n : Nat) (p : Pkt) (space : Nat) (j : Job) (s : State), let bs := p.payload
    let seq := Tab.get (fun _ => 0) s.pairIn (pairKey space p.src)
    (s.inbox.filter (fun k => k.typ == 8))[n]? = some p → p.len = 64 → s.checked p = none → s.jobById (entJob bs) = some (space, j) →
    ((∀ i, i < seq → ctrlTag space i ≠ p.tag) → entCheckOk bs seq = true → fieldAt bs 52 8 = entTag (j.key 3 0) bs seq 0 → s.sup.held.length < 256 →
      entClean bs = true → 2 ≤ entType bs → entType bs ≤ 5 → ∃ t, exec (.ctrl n) s = .next t ∧ t.sup.jobq = s.sup.jobq ++ [⟨seq, bs, 0⟩] ∧
        Tab.get (fun _ => 0) t.pairIn (pairKey space p.src) = seq + 1 ∧ t.mem = s.mem) ∧
    ((∃ i, i < seq ∧ ctrlTag space i = p.tag) → ∃ t, exec (.ctrl n) s = .next t ∧ t.sup = s.sup ∧ t.pairIn = s.pairIn ∧ t.mem = s.mem)) ∧
  (∀ s : State, let head := s.fabHead 0x40 (fun j b => j.staleOpen b || (j.st == .running && j.rewind.isNone && !j.open_))
    (head = none → exec .stepOpen s = .next s) ∧
    (∀ (space : Nat) (bs : List Byte) (j : Job), let b := entBody bs
      head = some (space, bs, j) →
      (j.ending = none → fieldAt b 8 8 = j.ordinal → (∀ c ∈ j.chans, c.1 < 64) →
        ∃ t j', exec .stepOpen s = .next t ∧ t.jobAt space = some j' ∧ j'.open_ = true ∧ j'.ordinal = j.ordinal + 1 ∧ j'.t = fieldAt b 0 8 ∧
          j'.t0 = BitVec.ofNat 64 (fieldAt b 16 8) ∧ j'.period = j.ordinal ∧
          ((∀ c ∈ j.chans, if s.chanField c.1 5 1 = 1 then s.fbCores c.1 ≠ 0 else s.guyOpen.contains (Reg.redDie c.1) = false) →
            ∀ c ∈ j.chans, s.chanEn c.1 = true → (t.chan c.1).phase = 1) ∧
          (∀ d, 1 ≤ d → d ≤ 4 → (t.cellar d).norm = 0 ∧ (t.cellar d).nonfinite = false)) ∧
      (j.ending ≠ none ∨ fieldAt b 8 8 ≠ j.ordinal → exec .stepOpen s = .next (s.dropFab space bs)))) ∧
  (∀ (space : Fin 16) (j : Job) (s : State), s.jobAt space = some j → j.ending = none →
    (j.open_ = true → j.rewind = none → j.ended = false → s.channelsDone j = true → s.passesDone j = true → (∀ r ∈ s.recov, j.id ∉ r.jobs) →
      ∃ t j', exec (.stepClose space) s = .next t ∧ t.jobAt space = some j' ∧ j'.open_ = false ∧ j'.stepsDone = j.t ∧
        (j.st = .running → j.steps ≠ 0 → j.steps ≤ j.t → j'.st = .finished)) ∧
    (j.open_ = false → exec (.stepClose space) s = .next s) ∧
    (j.limit ≠ 0 → j.open_ = true → j.late = false → j.t0.toNat + j.limit ≤ s.time.toNat → ∃ t j', exec (.jobStepLate space) s = .next t ∧
      t.jobAt space = some j' ∧ j'.late = true ∧ j'.ended = true ∧ Recorded s t 0 0x407 2 s.unitPkg 0 0) ∧
    (s.rootLost space j = true → ∃ t j', exec (.jobRootLost space) s = .next t ∧ t.jobAt space = some j' ∧ j'.ending = some ⟨s.ns, 3, false⟩) ∧
    (s.rootLost space j = false → exec (.jobRootLost space) s = .next s))

/-- R484 to R490: a taken request gets a slot and a sequence number, waits for a bubble that it fits, expires at its bound, and its output is written
back; the mailbox's next good entry is read once and acted on by its type. (A bubble's length is a free value: log entry 59.) -/
def Obligations.ServingAndMailbox : Prop :=
  (∀ (space : Fin 16) (input : List Byte) (e : Entry) (es : List Entry) (j : Job) (x : ServDef) (s : State), let body := entBody e.bytes
    let ok := x.takers.contains s.pkg && decide (byteAt body 8 < x.programs.length) && decide (byteAt body 9 < 4) && decide (fieldAt body 12 4 ≤ x.size)
    s.sup.reqq = e :: es → s.jobById (entJob e.bytes) = some (space.val, j) → s.jobAt space = some j → j.serving = some x → j.ending = none →
    (∀ i, ok = true → (List.range x.slots).find? (fun i => (Tab.get (fun _ => none) j.slots i).isNone) = some i →
      ∃ t j' y, exec (.request space input) s = .next t ∧ t.sup.reqq = es ∧ t.jobAt space = some j' ∧ j'.taken = j.taken + 1 ∧
        Tab.get (fun _ => none) j'.slots i = some y ∧ y.id = fieldAt body 0 8 ∧ y.seq = s.pkg * 2 ^ 48 + j.taken ∧ y.taken = s.ns ∧
        y.bound = fieldAt body 36 4 ∧ y.cap = fieldAt body 32 4 ∧ y.done = false ∧
        ∃ q ∈ j'.queue, q.seq = (s.pkg * 2 ^ 48 + j.taken) % 2 ^ 64 ∧ q.prog = byteAt body 8 ∧ q.prio = byteAt body 9) ∧
    (ok = true → (List.range x.slots).find? (fun i => (Tab.get (fun _ => none) j.slots i).isNone) = none → exec (.request space input) s = .next s) ∧
    (ok = false → ∃ t, exec (.request space input) s = .next t ∧ t.sup.reqq = es ∧ t.jobs = s.jobs ∧ t.mem = s.mem ∧
      Recorded s t 0 0x405 2 s.unitPkg 0 0)) ∧
  (∀ (space : Nat) (bs : List Byte) (j : Job) (s : State), let b := entBody bs
    let r : ServReq := ⟨fieldAt b 0 8, byteAt b 8, byteAt b 9, fieldAt b 16 8⟩
    s.fabHead 0x41 (fun _ _ => true) = some (space, bs, j) → ∃ t j', exec .reqPass s = .next t ∧ t.jobAt space = some j' ∧ t.mem = s.mem ∧
      (byteAt b 10 ≠ 1 → ∀ q, q ∈ j'.queue ↔ q = r ∨ q ∈ j.queue) ∧ (byteAt b 10 = 1 → ∀ q, q ∈ j'.queue ↔ q ∈ j.queue ∧ q.seq ≠ r.seq)) ∧
  (∀ (space : Fin 16) (slot : Nat) (j : Job) (x : ServDef) (y : ServSlot) (s : State), s.jobAt space = some j → j.serving = some x →
    Tab.get (fun _ => none) j.slots slot = some y → y.done = false →
    (y.bound ≠ 0 → y.taken + 1000 * y.bound ≤ s.ns → ∃ t j', exec (.requestExpire space slot) s = .next t ∧ t.jobAt space = some j' ∧
      ((∃ q ∈ j.queue, q.seq = y.seq) → Tab.get (fun _ => none) j'.slots slot = none) ∧
      ((∀ q ∈ j.queue, q.seq ≠ y.seq) → Tab.get (fun _ => none) j'.slots slot = some { y with done := true })) ∧
    (y.bound = 0 ∨ s.ns < y.taken + 1000 * y.bound → exec (.requestExpire space slot) s = .next s)) ∧
  (∀ (space : Fin 16) (j : Job) (u : State) (bs : List Byte) (s : State), let w := s.pegWord j.mboxPeg
    s.jobAt space = some j → j.ending = none → s.pegGood j.mboxPeg = true → (∀ x ∈ s.pegs.takes, x.peg ≠ j.mboxPeg) → pegState w = 0 → pegFull w = true →
    (s.pegScreen j.mboxPeg).redRead space (j.mboxVa + 64 * (j.mboxSeq % j.mboxN)) 64 = (u, .ok bs) →
    ∃ t j', exec (.mailboxArrival space) s = .next t ∧ t.jobAt space = some j' ∧ j'.mboxSeq = j.mboxSeq + 1 ∧ t.pegWord j.mboxPeg = pegTaken w ∧
      t.mem = s.mem ∧
      (entCheckOk bs j.mboxSeq = true → entJob bs = j.id → 0x50 ≤ entType bs → entType bs ≤ 0x53 → j'.mboxq = j.mboxq ++ [bs]) ∧
      (entCheckOk bs j.mboxSeq = false → j'.mboxq = j.mboxq)) ∧
  (∀ (space : Fin 16) (j : Job) (body : List Byte) (s : State), s.jobAt space = some j →
    (j.mail 0x50 = some body → let y := (fieldAt body 0 4, fieldAt body 4 4)
      ((∃ e ∈ j.bubCores, (e.core, y.2) ∉ y :: j.bubbles) → ∃ t j', exec (.bubbleAt space) s = .next t ∧ t.jobAt space = some j' ∧
        y ∈ j'.bubbles ∧ j'.mboxq = j.mboxq.drop 1 ∧ t.mem = s.mem ∧ t.pegs = s.pegs) ∧
      (∀ e : CoreEnt, j.bubCores = [e] → e.core = y.1 → ∃ t j', exec (.bubbleAt space) s = .next t ∧ t.jobAt space = some j' ∧
        j'.mboxq = j.mboxq.drop 1 ∧ (∀ b ∈ j'.bubbles, b.2 ≠ y.2) ∧ t.pegs.fills.map (·.peg) = s.pegs.fills.map (·.peg) ++ [e.peg e.bubPeg] ∧
        MemOnly s t (Within (storeKey e.core e.bubOff) 64) ∧
        (let fits := fun (q : ServReq) =>
           j.micro == 0 || decide (((j.serving.bind (fun x => x.programs[q.prog]?))).getD 0 ≤ Config.bubbleLen j.id y.2)
         (∀ q, j.queue.find? fits = some q → (∀ r, r ∈ j'.queue ↔ r ∈ j.queue ∧ r ≠ q) ∧
           t.rdBytes (storeKey e.core e.bubOff) 64 = bubbleWord e.bubOff 2 y.2 q.seq q.slot 0) ∧
         (j.queue.find? fits = none → j.serving = none → j'.queue = j.queue ∧
           t.rdBytes (storeKey e.core e.bubOff) 64 = bubbleWord e.bubOff 0 y.2 0 0 0)))) ∧
    (∀ (x : ServDef) (i : Nat) (y : ServSlot), j.mail 0x51 = some body → j.serving = some x →
      (List.range x.slots).find? (fun i => match Tab.get (fun _ => none) j.slots i with | some y => y.seq == fieldAt body 0 8 | none => false) = some i →
      Tab.get (fun _ => none) j.slots i = some y → ∃ t j', exec (.reqOut space) s = .next t ∧ t.jobAt space = some j' ∧
        Tab.get (fun _ => none) j'.slots i = none ∧ j'.mboxq = j.mboxq.drop 1 ∧ MemOnly s t (fun k => 2 ^ 64 ≤ k)) ∧
    (∀ frames : List (Fin 4 × BitVec 24), j.mail 0x52 = some body → let len := fieldAt body 8 8
      let pages := s.pagesOf space (min len (2 ^ 47) / 0x10000 + 2) (fieldAt body 0 8) (fieldAt body 0 8 + len)
      (frames.length < pages.length → exec (.place space frames) s = .next s) ∧
      (pages = [] → s.sup.moves = [] → ∃ t j', exec (.place space frames) s = .next t ∧ t.jobAt space = some j' ∧ j'.mboxq = j.mboxq.drop 1 ∧
        t.mem = s.mem ∧ t.pegs.fills.map (·.peg) = s.pegs.fills.map (·.peg) ++ [fieldAt body 18 2]) ∧
      (∀ (va die off e : Nat) (big : Bool) (f : Fin 4 × BitVec 24), pages = [va] → frames = [f] → s.sup.moves = [] →
        s.leafAt space va = some (die, off, e, big) → (big = true → f.2.toNat % 32 = 0) → s.fld Reg.memInval 63 1 = 0 →
        s.pageNamed space (va / pageBytes big * pageBytes big) (pageBytes big) = false →
        ∃ t j' m, exec (.place space frames) s = .next t ∧ t.jobAt space = some j' ∧ j'.mboxq = j.mboxq.drop 1 ∧ t.pegs = s.pegs ∧
          t.sup.moves = [m] ∧ m.va = va ∧ m.cellar = f.1 ∧ m.frame = f.2.toNat ∧ m.tier = byteAt body 16 % 2 ∧ m.begun = true ∧
          m.place.map (·.1) = some (fieldAt body 18 2) ∧ t.fld Reg.memInval 63 1 = 1)) ∧
    (j.mail 0x53 = some body → s.sup.held ≠ [] → s.sup.held.length < 256 → ∃ t j', exec (.mailboxNote space) s = .next t ∧ t.jobAt space = some j' ∧
      j'.mboxq = j.mboxq.drop 1 ∧ t.sup.held = s.sup.held ++ [⟨0x25, j.id, j.key 3 0, body.take 40⟩] ∧ t.mem = s.mem))

/-! ### Bring-up -/

/-- R497, R502, R505 to R511, R515, R516, R555 to R559: each step's GO, in order, carries out its action; a GO out of order does nothing but leave its note; a
step that the start plan skips ends at once. -/
def Obligations.BringUpSteps : Prop :=
  (∀ (path : Path) (rail : Option (BitVec 32)) (pll : Option (Fin 7 × BitVec 32)) (s : State), s.takesGo path 1 = true →
    ∃ f, exec (.powerAndClocks path rail pll) s = .next ((s.accessed path).begun 1 f) ∧
      (f = none ↔ rail = none ∧ pll = none ∧ s.pins.lost100 = false ∧ (s.pins.lostA = false ∧ s.pins.lostB = false ∨ s.planCode 10 = 1) ∧
        ∀ n, 1 ≤ n → n ≤ 15 → s.planStepBad n = false) ∧
      (∀ n, rail = some n → f = some ⟨0x0104, 0, s.unitPkg, n.toNat, 0⟩) ∧
      (rail = none → s.pins.lost100 = true → f = some ⟨0x0102, 0, s.unitPkg, 0, 0⟩)) ∧
  (∀ (path : Path) (d : Defects) (w : BitVec 32) (s : State), s.takesGo path 2 = true →
    exec (.fuseRead path (some w) d) s = .next ((s.accessed path).begun 2 (some ⟨0x0201, 0, s.unitDie 0, w.toNat, 0⟩)) ∧
    ∃ t, exec (.fuseRead path none d) s = .next t ∧ t.bu.fuse = d ∧ t.bu.step = 2 ∧ t.bu.state = 1 ∧ t.bu.fail = none ∧ t.mem = s.mem ∧
      t.cores = s.cores ∧ (∀ q, q < 4 → t.regN (Reg.fuseCore q) = slotBits d.cores q) ∧ t.fld Reg.yieldSup 0 4 = maskOf d.sup 4 ∧
      (d.wf = true → s.bu.test = {} → ∀ p e, (p, e) ∈ defNamed d → t.regN (Reg.yieldArray p e) = t.bu.arrayWord p e)) ∧
  (∀ (path : Path) (d : Defects) (tests : List (BitVec 31)) (s : State), s.takesGo path 3 = true → d.wf = true → s.bu.fuse.wf = true →
    ∃ t, exec (.selfTest path d tests) s = .next t ∧ t.bu.test = { d with cves := d.cves.filter (fun x => !s.bu.fuse.cves.contains x) } ∧
      t.bu.step = 3 ∧ t.bu.fail = none ∧ t.mem = s.mem ∧ t.cores = s.cores ∧ (∀ q, q < 4 → t.regN (Reg.testCore q) = slotBits d.cores q) ∧
      t.fld Reg.yieldSup 4 4 = maskOf d.sup 4 ∧ (t.fld Reg.yieldSup 14 1 = 1 ↔ d.units ≠ []) ∧
      ∀ die e, 1 ≤ die → die ≤ 4 → e < 16 → (t.fld (Reg.celOk die) e 1 = 1 ↔ (die, e) ∉ s.bu.fuse.cves ∧ (die, e) ∉ d.cves)) ∧
  (∀ (path : Path) (s : State), s.takesGo path 4 = true → ∃ t, exec (.yieldMap path) s = .next t ∧
    (∀ q n, q < 4 → n < 17 → (t.fld (Reg.yieldCore q) n 1 = 1 ↔ s.physBad (17 * q + n) = true)) ∧ t.mem = s.mem ∧ t.cores = s.cores ∧
    RegsOnly s t (fun off => ∃ q, q < 4 ∧ off = Reg.yieldCore q) ∧
    (∀ q, q < 4 → 2 ≤ (t.badSlots q).length → ∃ x, x < 4 ∧ t.bu.fail = some ⟨0x0401, 0x081, t.unitDie 0, 1, x⟩) ∧
    (t.yieldShort = none → t.bu.fail = none)) ∧
  (∀ (path : Path) (s : State), s.takesGo path 5 = true → ∃ f, exec (.spares path) s = .next ((s.accessed path).begun 5 f) ∧
    (f = none ↔ s.bu.spareBad = none ∧ (∀ q, q < 4 → s.slotRefused q = false) ∧
      ∀ c e, c < 64 → e < 2 → s.regN (Reg.opeRemap c e) = s.remapWant c e)) ∧
  (∀ (path : Path) (s : State), s.takesGo path 6 = true →
    (∀ (die : Fin 7) (cls n : BitVec 32), exec (.islandClocks path (some (die, cls, n))) s =
      .next ((s.accessed path).begun 6 (some ⟨0x0601, 0, s.unitDie die, cls.toNat, n.toNat⟩))) ∧
    ∃ t, exec (.islandClocks path none) s = .next t ∧ t.bu.fail = none ∧ t.bu.step = 6 ∧ t.mem = s.mem ∧
      ∀ c, c < 64 → t.core c = { s.core c with clkOn := true } ∧ t.fld (Reg.coreFreq c) 16 4 = s.fld (Reg.coreFreq c) 0 4 ∧
        t.fld (Reg.coreFreq c) 0 4 = s.fld (Reg.coreFreq c) 0 4) ∧
  (∀ (path : Path) (narrow : List (Fin 7 × BitVec 32)) (bad : Option (Fin 7 × BitVec 32)) (s : State), s.takesGo path 7 = true →
    ∃ t, exec (.dieToDieLinks path narrow bad) s = .next t ∧ t.bu.step = 7 ∧ t = { s.accessed path with bu := t.bu } ∧
      t.bu.fail = bad.map (fun x => ⟨0x0701, 0, s.unitDie x.1, x.1, x.2.toNat⟩)) ∧
  (∀ (path : Path) (s : State), s.takesGo path 8 = true → ∃ t, exec (.tier1 path none) s = .next t ∧ t.bu.step = 8 ∧ t.bu.fail = none ∧
    (∀ die off, 1 ≤ die → die ≤ 4 → off < 2 ^ 36 → t.rd8 (cellarKey die off) = 0) ∧
    MemOnly s t (fun k => ∃ die, 1 ≤ die ∧ die ≤ 4 ∧ Within (cellarKey die 0) (2 ^ 36) k) ∧ t.cores = s.cores ∧
    ∀ die ch, 1 ≤ die → die ≤ 4 → ch < 16 → t.fld (Reg.chStatus die ch) 2 4 = s.fld (Reg.t1Cfg die) 0 4) ∧
  (∀ (path : Path) (die : Fin 4) (ch : Fin 16) (phase : Fin 5) (s : State), s.takesGo path 8 = true → ∃ t, exec (.tier1 path (some (die, ch, phase))) s = .next t ∧
    t.bu.fail = some ⟨0x0801, 0, s.unitDie (die.val + 1), ch, phase⟩ ∧ t.mem = s.mem) ∧
  (∀ (path : Path) (spd : List (List Spd)) (m : Spd) (n : Nat) (s : State), s.takesGo path 9 = true → m.size < 8 →
    (∀ k, k < 16 → chanSpd spd k = List.replicate n m) → ∃ t, exec (.tier2 path spd none) s = .next t ∧ t.bu.step = 9 ∧ t.mem = s.mem ∧
      ((∀ die, 1 ≤ die → die ≤ 4 → popOk n m.size (s.fld (Reg.t2Cfg die) 0 4) m.lr = true ∧ s.fld (Reg.t2Cfg die) 4 1 + 1 = n) →
        t.bu.fail = none ∧ ∀ die, 1 ≤ die → die ≤ 4 → t.fld (Reg.t2Cfg die) 16 11 = 4 * n * moduleGiB m.size ∧ t.fld (Reg.t2Cfg die) 8 3 = m.size) ∧
      (∀ die, 1 ≤ die → die ≤ 4 → popOk n m.size (s.fld (Reg.t2Cfg die) 0 4) m.lr = false →
        ∃ x, 1 ≤ x ∧ x ≤ 4 ∧ t.bu.fail = some ⟨0x0902, 0, s.unitDie x, 4 * n, 0⟩)) ∧
  (∀ (path : Path) (s : State), s.takesGo path 10 = true →
    let right := fun (g : Nat) => s.fld (Reg.portCfg g) 0 1 = 1 ↔ s.dim (g / 2) ≠ 1
    ((∀ g, g < 8 → right g) → s.torus ≤ 8192 → s.pkg < s.torus → ∃ t, exec (.fabric path) s = .next t ∧ t.bu.step = 10 ∧ t.bu.state = 1 ∧
      t.bu.fail = none ∧ t.mem = s.mem ∧ ∀ g, g < 8 → t.portState g = if s.portUsed g = true then 1 else s.portState g) ∧
    ((∀ g, g < 8 → right g) → (8192 < s.torus ∨ s.torus ≤ s.pkg) →
      exec (.fabric path) s = .next ((s.accessed path).begun 10 (some ⟨0x0A02, 0, s.unitPkg, 0, 0⟩))) ∧
    (∀ g, g < 8 → ¬ right g → ∃ x, x < 8 ∧ exec (.fabric path) s =
      .next ((s.accessed path).begun 10 (some ⟨0x0A05, 0, s.unitDie (guyDie x), x, s.fld (Reg.portCfg x) 0 1⟩)))) ∧
  (∀ (path : Path) (s : State), s.takesGo path 11 = true →
    (s.masterOf false < s.torus → (s.fld Reg.timMaster 31 1 = 1 → s.masterOf true < s.torus) → ∃ t, exec (.timeBase path) s = .next t ∧
      t.bu.step = 11 ∧ t.bu.fail = none ∧ t.fld Reg.timStatus 0 2 = (if s.masterOf false = s.pkg then 2 else 1) ∧ t.mem = s.mem) ∧
    (s.torus ≤ s.masterOf false → exec (.timeBase path) s = .next ((s.accessed path).begun 11 (some ⟨0x0B02, 0, s.unitPkg, 0, s.masterOf false⟩)))) ∧
  (∀ (path : Path) (s : State), s.takesGo path 12 = true →
    (∃ t, exec (.identityAndMeasurement path false) s = .next t ∧ t.bu.fail = some ⟨0x0C01, 0, s.unitDie 0, 0, 0⟩ ∧ t.mrBytes 0 = List.replicate 48 0) ∧
    ∃ t, exec (.identityAndMeasurement path true) s = .next t ∧ t.bu.step = 12 ∧ t.bu.fail = none ∧ t.mem = s.mem ∧
      (∀ i, i < 12 → t.reg (0x70100 + 8 * i) = Config.idPub i ∧ t.reg (0x70180 + 8 * i) = Config.bootPub s.free i) ∧
      t.mrBytes 0 = digest (List.replicate 48 0 ++ leBytes 48 Config.bootRom) ∧
      t.mrBytes 1 = digest (List.replicate 48 0 ++ digest s.configRecord) ∧
      ∀ i, 2 ≤ i → i < 6 → t.mrBytes i = List.replicate 48 0) ∧
  (∀ (path : Path) (s : State), s.takesGo path 13 = true →
    (s.planCode 13 ≠ 2 → exec (.firmwareLoad path) s = .next ((s.accessed path).begun 13 (if s.fld (Reg.fwLen s.fwImage) 0 16 = 0 ∧ s.verified 3 = false
      then some ⟨0x0D04, 0, s.unitPkg, s.fwImage, 0⟩ else none))) ∧
    (∀ g, s.planCode 13 = 2 → s.fwParent = some g → s.fwHeld = 0 → s.bu.fw.asked = [] → s.verified 3 = false → g < 8 → ∃ t r, exec (.firmwareLoad path) s = .next t ∧
      t.fld Reg.fwStatus 8 3 = g ∧ t.bu.fw.asked = [0] ∧ t.reqs = s.reqs ++ [r] ∧ r.kind = 8 ∧ r.dst = s.peerOf g ∧
      r.tag = pullTag s.fwImage 0 ∧ r.bytes = pullPayload r.tag s.pkg r.dst (leBytes 16 (Config.pullRequest s.fwImage 0 1)))) ∧
  (∀ (path : Path) (s : State), s.takingChunks = true → s.planCode 13 = 2 → s.bu.fw.asked = [] → s.fwParent = none →
    exec (.firmwareLoad path) s = .next s) ∧
  (∀ (path : Path) (noAck : Option (Fin 7 × BitVec 8)) (s : State), s.takesGo path 14 = true → let bs := s.imageBytes 1
    let pages := (bs.length + 4095) / 4096
    ∃ t, exec (.coreFirmware path noAck) s = .next t ∧ t.bu.step = 14 ∧
      (t.bu.noAck = match noAck with
        | some x => some (x.1.val, x.2.toNat)
        | none => s.badReceiver) ∧
      (∀ die, 1 ≤ die → die ≤ 6 → s.chunksGood (dieImage die) = true → Tab.get (fun _ => []) t.bu.fw.running die = s.imageBytes (dieImage die)) ∧
      (s.chunksGood 1 = false → t.cores = s.cores ∧ t.mem = s.mem) ∧
      (s.chunksGood 1 = true → bs.length ≤ storeSize → ∀ c, c < 64 → t.rdBytes (storeKey c 0) bs.length = bs ∧
        t.regN (Reg.coreCode c) = pages * 2 ^ 16 ∧ t.regN (Reg.engStart c 5) = 256 ∧
        (bs ≠ [] → (s.eng c 5).st = .halted → (s.eng c 5).dhold = false → s.coreInReset c = false →
          (t.eng c 5).st = .issuing ∧ (t.eng c 5).pc = 256))) ∧
  (∀ (path : Path) (s : State), s.takesGo path 15 = true → exec (.ready path) s = .next ((s.accessed path).begun 15 none)) ∧
  (∀ (path : Path) (n : Nat) (i : Instr) (s : State), (n, i) ∈ [(4, .yieldMap path), (5, .spares path), (6, .islandClocks path none), (10, .fabric path),
    (11, .timeBase path), (13, .firmwareLoad path), (14, .coreFirmware path none), (15, .ready path)] → s.mayWrite path Reg.buCtrl = true →
    s.bu.refusesGo n = true → (s.bu.step = n → s.bu.state = 1 → s.bu.acted = true) → (n = 13 → s.takingChunks = false) →
    exec i s = .next ((s.accessed path).note 0 0x082 s.unitPkg 0 0)) ∧
  (∀ (path : Path) (n : Nat) (i : Instr) (s : State), (n, i) ∈ [(10, .fabric path), (11, .timeBase path)] → s.mayWrite path Reg.buCtrl = true →
    s.bu.refusesGo n = false → s.planCode n = 1 → ∃ t, exec i s = .next t ∧ t.bu.step = n ∧ t.bu.state = 4 ∧ t = { s.accessed path with bu := t.bu })

/-- R499 to R502, R508, R513, R515, R518: a step ends passed or failed with its outcome entry and what its pass sets, or at its limit; the slot of
BU_SPARE_CORE moves a logical core onto the spare of its region, block and memories with it. -/
def Obligations.BringUpEnds : Prop :=
  (∀ (s : State), s.bu.state = 1 → s.bu.acted = true → s.bu.fail = none → s.ns < s.bu.began + s.buLimit →
    (s.bu.step ∉ [10, 11, 13, 14] ∨ (s.bu.step = 10 ∧ s.fabricPasses = true) ∨ (s.bu.step = 11 ∧ s.fld Reg.timStatus 0 2 = 2) ∨
      (s.bu.step = 13 ∧ s.fld Reg.fwStatus 0 4 = 15) ∨ (s.bu.step = 14 ∧ s.bu.noAck = none) →
      ∃ t, exec .buStepEnd s = .next t ∧ StepEnded s t 0 0 0 s.unitPkg 0 0 ∧ (t.bu.ready = true ↔ s.bu.step = 15 ∨ s.bu.ready = true) ∧ t.mem = s.mem ∧
        (s.bu.step = 8 → ∀ die, 1 ≤ die → die ≤ 4 → t.fld (Reg.t1Cfg die) 8 1 = 1) ∧
        (s.bu.step = 9 → ∀ die, 1 ≤ die → die ≤ 4 → t.fld (Reg.t2Cfg die) 12 1 = 1) ∧ (s.bu.step = 13 → t.beat = some s.ns)) ∧
    ((s.bu.step = 11 ∧ s.fld Reg.timStatus 0 2 ≠ 2) ∨ (s.bu.step = 13 ∧ s.fld Reg.fwStatus 0 4 ≠ 15) ∨ (s.bu.step = 14 ∧ s.bu.noAck ≠ none) →
      exec .buStepEnd s = .next s)) ∧
  (∀ (f : BuFail) (s : State), s.bu.state = 1 → s.bu.acted = true → s.bu.fail = some f →
    ∃ t, exec .buStepEnd s = .next t ∧ StepEnded s t 1 f.detail f.fault f.unit f.d0 f.d1 ∧ t = { s with bu := t.bu }) ∧
  (∀ (s : State), s.bu.state = 1 →
    (s.ns < s.bu.began + s.buLimit → exec .buStepLimit s = .next s) ∧
    (s.bu.began + s.buLimit ≤ s.ns → ∃ t, exec .buStepLimit s = .next t ∧ t = { s with bu := t.bu } ∧
      (s.bu.step ≠ 14 → (s.bu.step ≠ 13 ∨ s.planCode 13 ≠ 2) → StepEnded s t 1 0x00FF 0 s.unitPkg 0 0) ∧
      (s.bu.step = 13 → s.planCode 13 = 2 → StepEnded s t 1 0x0D03 0 s.unitPkg (s.fld Reg.fwStatus 4 2) (s.fld Reg.fwStatus 16 16)) ∧
      (∀ die core, s.bu.step = 14 → s.bu.noAck = some (die, core) → StepEnded s t 1 0x0E01 0x084 (s.unitDie die) die core))) ∧
  (∀ (path : Path) (v : BitVec 32) (s : State), let slot := fun q => bitsOf v.toNat (8 * q) 5
    s.mayWrite path Reg.spareCore = true →
    ((∀ q, q < 4 → slot q < 16 ∨ slot q = 31) → s.locked path Reg.spareCore = false → Memory.wf s.mem = true → (∀ q, q < 4 → s.slotOf q = 31) →
      ∃ t, exec (.spareRepoint path v) s = .next t ∧ ∀ q, q < 4 → t.slotOf q = slot q ∧
        (slot q = 31 → ∀ c, c / 16 = q → t.core c = s.core c) ∧
        (slot q < 16 → t.core (16 * q + slot q) = s.core (hiddenCore q) ∧ t.core (hiddenCore q) = s.core (16 * q + slot q) ∧
          ∀ off, off < storeSize → t.rd8 (storeKey (16 * q + slot q) off) = s.rd8 (hiddenStore q + off) ∧
            t.rd8 (hiddenStore q + off) = s.rd8 (storeKey (16 * q + slot q) off))) ∧
    (s.locked path Reg.spareCore = true → (∃ q, q < 4 ∧ slot q ≠ s.slotOf q) → ∃ t, exec (.spareRepoint path v) s = .next t ∧
      (∀ q, q < 4 → t.slotOf q = s.slotOf q) ∧ t.fld Reg.secCounts 0 16 = satInc (s.fld Reg.secCounts 0 16) 16 ∧ t.cores = s.cores) ∧
    (∀ q, q < 4 → 16 ≤ slot q → slot q ≤ 30 → s.locked path Reg.spareCore = false → ∃ t, exec (.spareRepoint path v) s = .next t ∧
      t = { s.accessed path with bu := t.bu } ∧ t.bu.spareBad.isSome = true) ∧
    ((∀ q, q < 4 → slot q = s.slotOf q) → (∀ q, q < 4 → slot q < 16 ∨ slot q = 31) → exec (.spareRepoint path v) s = .next (s.accessed path)))

/-! ### Firmware, recovery, checks and security -/

/-- R511 to R514, R547, R558, R561 to R564: the next good chunk is kept, a bad one is counted and read or asked for again until the limit, a whole image is
measured and verified or fails the step, and a neighbour's pull is answered with the chunks held. -/
def Obligations.FirmwareImages : Prop :=
  (∀ (addr : BitVec 64) (bs : List Byte) (s : State), let i := s.fwImage
    let k := s.fwHeld
    let total := fieldAt bs 8 4
    let n := fieldAt bs 12 2
    let off := Config.fwStore i k % 2 ^ 36
    let kept := fun (t : State) => t.fwChunk i k = bs ∧ t.supRead 1 off n = (bs.drop 24).take n ∧
      MemOnly s t (Within (cellarKey 1 (off / 512 * 512)) 1536)
    s.takingChunks = true → s.planCode 13 ≠ 2 → addr.toNat = s.regN (Reg.fwAddr i) + 1024 * k →
    (chunkOk i k bs = true → total = (if k = 0 then s.fld (Reg.fwLen i) 0 16 else s.fwTotal i) → k + 1 < total →
      ∃ t, exec (.firmwareChunk (.port addr bs)) s = .next t ∧ kept t ∧ t.fwTotal i = total ∧ t.fwHeld = k + 1 ∧
        t.fwImage = i ∧ t.bu.fail = none ∧ t.cores = s.cores) ∧
    (chunkOk i k bs = true → total = (if k = 0 then s.fld (Reg.fwLen i) 0 16 else s.fwTotal i) → k + 1 = total →
      ∃ t, exec (.firmwareChunk (.port addr bs)) s = .next t ∧ kept t ∧
        (∀ r, t.imageRefused i = some r → t.bu.fail = some ⟨0x0D02, 0x084, s.unitPkg, i, r⟩ ∧ t.verified i = s.verified i) ∧
        (t.imageRefused i = none → t.verified i = true ∧ t.mrBytes (2 + i) = digest (s.mrBytes (2 + i) ++ digest (t.imageHeader i)) ∧
          (i < 3 → t.fwImage = i + 1 ∧ t.fwHeld = 0))) ∧
    (chunkOk i k bs = true → k = 0 → total ≠ s.fld (Reg.fwLen i) 0 16 → ∃ t, exec (.firmwareChunk (.port addr bs)) s = .next t ∧
      t.bu.fail = some ⟨0x0D04, 0, s.unitPkg, i, total⟩ ∧ t.bu.fw = s.bu.fw) ∧
    (chunkOk i k bs = false ∨ (k ≠ 0 ∧ total ≠ s.fwTotal i) → ∃ t, exec (.firmwareChunk (.port addr bs)) s = .next t ∧ t.fwHeld = k ∧ t.bu.fw.chunks = s.bu.fw.chunks ∧
      t.fld (Reg.chkFails 8) 0 32 = satInc (s.fld (Reg.chkFails 8) 0 32) 32 ∧
      t.bu.fail = if 8 ≤ Tab.get (fun _ => 0) s.bu.fw.fails k then some ⟨0x0D01, 0, s.unitPkg, i, k⟩ else none)) ∧
  (∀ (addr : BitVec 64) (bs : List Byte) (s : State),
    s.takingChunks = false ∨ s.planCode 13 = 2 ∨ addr.toNat ≠ s.regN (Reg.fwAddr s.fwImage) + 1024 * s.fwHeld → exec (.firmwareChunk (.port addr bs)) s = .next s) ∧
  (∀ (n : Nat) (p : Pkt) (s : State), let bs := p.payload
    let i := s.fwImage
    let k := fieldAt bs 4 4
    let dig := if k = 0 then (bs.drop 40).take 48 else s.imageDigest i
    s.goodPkt 8 n p → p.len = 1024 → s.takingChunks = true → s.planCode 13 = 2 → s.fwHeld < 65535 →
    (k ∈ s.bu.fw.asked → chunkOk i k bs = true → (k = 0 ∨ fieldAt bs 8 4 = s.fwTotal i) → (bs.drop 1008).take 8 = chunkTag dig bs →
      s.fwHeld + 1 < (if k = 0 then fieldAt bs 8 4 else s.fwTotal i) → ∃ t, exec (.firmwareChunk (.packet n)) s = .next t ∧ t.fwChunk i k = bs ∧
        t.fwHeld = s.fwHeld + 1 ∧ t.bu.fail = none ∧ (let n := fieldAt bs 12 2
          let off := Config.fwStore i k % 2 ^ 36
          t.supRead 1 off n = (bs.drop 24).take n ∧ MemOnly s t (Within (cellarKey 1 (off / 512 * 512)) 1536))) ∧
    (k ∈ s.bu.fw.asked → fieldAt bs 0 4 = i → chunkOk i k bs = false → Tab.get (fun _ => 0) s.bu.fw.fails k < 7 →
      ∃ t r, exec (.firmwareChunk (.packet n)) s = .next t ∧ t.fwHeld = s.fwHeld ∧ t.bu.fw.chunks = s.bu.fw.chunks ∧ t.reqs = s.reqs ++ [r] ∧
        t.fld (Reg.chkFails 8) 0 32 = satInc (s.fld (Reg.chkFails 8) 0 32) 32 ∧ r.kind = 8 ∧ r.dst = s.peerOf (s.fld Reg.fwStatus 8 3) ∧
        r.tag = pullTag i k ∧ r.bytes = pullPayload r.tag s.pkg r.dst (leBytes 16 (Config.pullRequest i k 1)))) ∧
  (∀ (n : Nat) (image : Fin 4) (first count : BitVec 16) (p : Pkt) (s : State), s.goodPkt 8 n p → p.len ≠ 64 → p.len ≠ 1024 →
    (pullCheckOk p s.pkg = false → ∃ t, exec (.firmwarePull n image first count) s = .next t ∧ t.reqs = s.reqs ∧ t.mem = s.mem ∧
      t.fld (Reg.chkFails 10) 0 32 = satInc (s.fld (Reg.chkFails 10) 0 32) 32) ∧
    (pullCheckOk p s.pkg = true → s.verified image = true → (∀ k, k < min 64 count.toNat → s.fwChunk image (k + first.toNat) ≠ []) → ∃ t, exec (.firmwarePull n image first count) s = .next t ∧ t.mem = s.mem ∧
      t.reqs.map (fun r => (r.dst, r.bytes)) = s.reqs.map (fun r => (r.dst, r.bytes)) ++ (List.range (min 64 count.toNat)).map (fun k =>
        let bs := s.fwChunk image (k + first.toNat)
        (p.src, bs.take 1008 ++ chunkTag (s.imageDigest image) bs ++ bs.drop 1016))))

/-- R529, R532, R534, R535, R544: a die's records move to the Britum buffer and from there to the event ring, or are acknowledged; a link or die
fault is recorded at its die; the heartbeat keeps the watchdog from stopping every engine. -/
def Obligations.FaultBuffersAndWatchdog : Prop :=
  (∀ (die : Fin 7) (r : FaultRec) (rest : List FaultRec) (s : State), (s.fbuf die).recs = r :: rest → s.stopped = false →
    (die.val ≠ 0 → (s.fbuf 0).recs.length < 1024 → ∃ t, exec (.faultRecordMove die) s = .next t ∧ (t.fbuf die).recs = rest ∧
      (t.fbuf 0).recs = (s.fbuf 0).recs ++ [r] ∧ t.mem = s.mem ∧ t.cores = s.cores) ∧
    (die.val = 0 → s.ringRoom 2 = true → ∃ t, exec (.faultRecordMove die) s = .next t ∧ (t.fbuf 0).recs = rest ∧
      (t.fbuf 0).head = ((s.fbuf 0).head + 1) % 1024 ∧ (t.ring 2).prod = (s.ring 2).prod + 1 ∧ MemOnly s t (fun k => 2 ^ 64 ≤ k) ∧ t.cores = s.cores) ∧
    (die.val = 0 → s.ringRoom 2 = false → exec (.faultRecordMove die) s = .next s)) ∧
  (∀ (path : Path) (count : BitVec 11) (s : State), s.mayWrite path Reg.fltAck = true →
    (count.toNat ≤ (s.fbuf 0).recs.length → ∃ t, exec (.fltBufAck path count) s = .next t ∧ (t.fbuf 0).recs = (s.fbuf 0).recs.drop count.toNat ∧
      (t.fbuf 0).head = ((s.fbuf 0).head + count.toNat) % 1024 ∧ t = { s.accessed path with fbufs := t.fbufs }) ∧
    ((s.fbuf 0).recs.length < count.toNat → exec (.fltBufAck path count) s = .next ((s.accessed path).unmapped Reg.fltAck))) ∧
  (∀ (near far : Fin 7) (module : BitVec 32) (lost : Bool) (s : State), s.inReset = false → ∃ t, exec (.d2dLink near far module lost) s = .next t ∧
    Recorded s t near 0x0C5 2 (s.unitDie near) far module.toNat ∧ t.mem = s.mem ∧ t.cores = s.cores) ∧
  (∀ (die : Fin 7) (d0 d1 : BitVec 32) (s : State), s.inReset = false → ∃ t, exec (.dieInternalFault die d0 d1) s = .next t ∧
    Recorded s t die 0x0C6 2 (s.unitDie die) d0.toNat d1.toNat ∧ t.mem = s.mem ∧ t.cores = s.cores) ∧
  (∀ (path : Path) (n : Nat) (s : State), s.mayWrite path Reg.fltBeat = true → s.beat = some n →
    exec (.fltHeartbeat path) s = .next { s.accessed path with beat := some s.ns }) ∧
  (∀ (core : Bool) (n : Nat) (s : State), s.beat = some n → s.stopped = false →
    (core = true ∨ n + 10000000 ≤ s.ns → ∃ t, exec (.supFault core) s = .next t ∧ t.stopped = true ∧ t.pins.alert = true ∧ t.mem = s.mem ∧
      Recorded s t 0 0x0C7 2 (s.unitDie 0) 0 0 ∧
      ∀ c e, c < 64 → e < 6 → (t.eng c e).st = if (s.eng c e).st.runs = true then .stopped else (s.eng c e).st) ∧
    (core = false → s.ns < n + 10000000 → exec (.supFault core) s = .next s))

/-- R521 to R527, R537 to R543, R589: FLT_RESET and a recovery reset exactly the cores of their domain; a record's recovery starts in its domain, escalates
while one is under way, or fails its job; the reset's end and the last rewind end the recovery. -/
def Obligations.ResetsAndRecovery : Prop :=
  (∀ (path : Path) (v : BitVec 32) (s : State), let domain := bitsOf v.toNat 0 3
    let target := bitsOf v.toNat 8 6
    s.mayWrite path Reg.fltReset = true →
    (v.getLsbD 31 = true → s.rst = none → resetTargetOk domain target = true → ∃ t, exec (.fltReset path v) s = .next t ∧
      t.rst = some ⟨domain, target, s.ns⟩ ∧ (domain ≤ 3 → CoresReset s t (domainCores (domain + 1) target) ∧
        (∀ c, c < 64 → c ∉ domainCores (domain + 1) target → ∀ e, (t.eng c e).st = (s.eng c e).st) ∧
        ((∀ c ∈ domainCores (domain + 1) target, (s.str c).xfers = [] ∧ (s.core c).stores = [] ∧ (s.core c).arms = []) → t.mem = s.mem)) ∧
      (domain = 4 → ∀ g, g < 8 → guyDie g = target → t.portState g = 0)) ∧
    (v.getLsbD 31 = true → (s.rst ≠ none ∨ resetTargetOk domain target = false) → exec (.fltReset path v) s = .next ((s.accessed path).unmapped Reg.fltReset)) ∧
    (v.getLsbD 31 = false → ∃ t, exec (.fltReset path v) s = .next t ∧ t.rst = s.rst ∧ t.cores = s.cores ∧ t.mem = s.mem ∧
      t.fld Reg.fltReset 0 3 = domain ∧ t.fld Reg.fltReset 8 6 = target ∧ RegsOnly s t (fun off => off = Reg.fltReset))) ∧
  (∀ (r : Rst) (s : State), s.rst = some r → (r.domain = 3 → s.pegs.runs = []) →
    (s.recov = [] → ∃ t, exec .resetComplete s = .next t ∧ t.rst = none ∧ t.cores = s.cores ∧ t.mem = s.mem ∧
      (r.domain = 3 → Recorded s t 0 0x0C3 3 (s.unitRegion r.target) 4 ((s.ns - r.began) / 1000))) ∧
    (∀ w, s.recov = [w] → w.phase = 1 → w.level = r.domain + 1 → w.target = r.target → ∃ t, exec .resetComplete s = .next t ∧ t.rst = none ∧
      t.cores = s.cores ∧ t.mem = s.mem ∧ (w.jobs ≠ [] → t.recov = [{ w with phase := 2 }]) ∧
      (w.jobs = [] → t.recov = [] ∧ Recorded s t 0 0x0C3 3 (s.domainUnit w.level w.target) w.level ((s.ns - w.began) / 1000)))) ∧
  (∀ (r : FaultRec) (rest : List FaultRec) (s : State), s.recq = r :: rest → s.stopped = false → s.caughtCore r = none →
    (r.esc = false → r.recovery (s.fld Reg.fltCfg 2 1 == 1) = none → exec .recoveryStart s = .next { s with recq := rest }) ∧
    (∀ level, r.esc = false → r.recovery (s.fld Reg.fltCfg 2 1 == 1) = some level → level < 6 → s.recov = [] → s.rst = none →
      let target := targetOf level r.unit.toNat
      (s.jobsIn level target = [] → ∃ t w, exec .recoveryStart s = .next t ∧ t.rst = some ⟨level - 1, target, s.ns⟩ ∧ t.recov = [w] ∧ w.level = level ∧
        w.target = target ∧ w.phase = 1 ∧ w.jobs = [] ∧ CoresReset s t (domainCores level target)) ∧
      (∀ space j, s.jobsIn level target = [(space, j)] → s.jobAt space = some j → s.recoveryFails j = none →
        ∃ t w j', exec .recoveryStart s = .next t ∧ t.rst = some ⟨level - 1, target, s.ns⟩ ∧ t.recov = [w] ∧ w.jobs = [j.id] ∧ t.jobAt space = some j' ∧
          j'.rewind.isSome = true ∧ j'.tries = (if j.open_ = true then j.tries + 1 else j.tries) ∧ CoresReset s t (domainCores level target)) ∧
      (∀ space j cause, s.jobsIn level target = [(space, j)] → s.jobAt space = some j → s.recoveryFails j = some cause →
        ∃ t j', exec .recoveryStart s = .next t ∧ t.rst = none ∧ t.recov = [] ∧ t.jobAt space = some j' ∧ j'.ending = some ⟨s.ns, 2, false⟩)) ∧
    (r.recovery (s.fld Reg.fltCfg 2 1 == 1) = some 6 → r.esc = false → s.recov = [] → s.jobs = [] → ∃ t, exec .recoveryStart s = .next t ∧
      t.pins.alert = true ∧ t.fld Reg.fltOther 22 1 = 1 ∧ t.recov = [] ∧ t.cores = s.cores) ∧
    (∀ w, r.esc = true → s.recov = [w] → w.covers r.unit.toNat = true → w.level = 2 → w.target < 64 → s.rst = none → s.jobsIn 3 (w.target / 4) = [] →
      (∀ c ∈ domainCores 3 (w.target / 4), (s.str c).xfers = [] ∧ (s.core c).arms = []) →
      ∃ t x, exec .recoveryStart s = .next t ∧ t.recov = [x] ∧ x.level = 3 ∧ x.target = w.target / 4 ∧ x.began = w.began ∧ x.phase = 1 ∧
        t.rst = some ⟨2, w.target / 4, s.ns⟩ ∧ CoresReset s t (domainCores 3 (w.target / 4)) ∧ Recorded s t 0 0x0C2 3 (s.unitCluster (w.target / 4)) 2 3)) ∧
  (∀ (space : Fin 16) (j : Job) (s : State), s.jobAt space = some j →
    ((∀ w ∈ s.recov, j.id ∈ w.jobs → w.phase = 2) → j.rewind ≠ none → ∃ t j', exec (.rewindDone space) s = .next t ∧ t.jobAt space = some j' ∧
      j'.rewind = none ∧ (∀ x ∈ j.cores, s.catches x.core = true → x.core ∈ t.missed) ∧
      (∀ w, s.recov = [w] → w.jobs = [j.id] → t.recov = []) ∧
      ((j.cores.map (·.core)).Nodup → (∀ x ∈ j.cores, x.core < 64 ∧ (s.str x.core).xfers = []) → ∀ x ∈ j.cores, s.catches x.core = false →
        ∀ off, off < storeSize → t.rd8 (storeKey x.core off) = ((((j.images[x.image]?).getD ⟨[], 0, [], 0, 0, 0⟩).code)[off]?).getD 0)) ∧
    (j.rewind = none → exec (.rewindDone space) s = .next s))

/-- R546, R552, R555 to R563: the check-value unit computes and compares over a message it may read; a quote signs the measurements with the nonce given before;
a fused minimum version only rises, and no further than the running image's. -/
def Obligations.ChecksAndQuotes : Prop :=
  (∀ (path : Path) (poly : Fin 4) (s : State), s.mayWrite path Reg.chkOp = true →
    (s.fld Reg.chkOp 5 1 = 0 → s.chkBytes ≠ none →
      (∃ t, exec (.chkCompute path poly) s = .next t ∧ t.fld Reg.chkOp 0 2 = poly ∧ t.fld Reg.chkOp 2 1 = 0 ∧ t.fld Reg.chkOp 5 1 = 1 ∧
        RegsOnly s t (fun off => off = Reg.chkOp) ∧ t.mem = s.mem) ∧
      ∃ t, exec (.chkCompare path poly) s = .next t ∧ t.fld Reg.chkOp 0 2 = poly ∧ t.fld Reg.chkOp 2 1 = 1 ∧ t.fld Reg.chkOp 5 1 = 1 ∧
        RegsOnly s t (fun off => off = Reg.chkOp) ∧ t.mem = s.mem) ∧
    (s.fld Reg.chkOp 5 1 = 1 ∨ s.chkBytes = none → exec (.chkCompute path poly) s = .next ((s.accessed path).unmapped Reg.chkOp) ∧
      exec (.chkCompare path poly) s = .next ((s.accessed path).unmapped Reg.chkOp))) ∧
  (∀ (bs : List Byte) (s : State), let v := chkValue (s.fld Reg.chkOp 0 2) (bs ++ foldBytes (s.regN Reg.chkFold))
    s.fld Reg.chkOp 5 1 = 1 → s.chkBytes = some bs → ∃ t, exec .chkDone s = .next t ∧ t.fld Reg.chkOp 5 1 = 0 ∧ t.reg Reg.chkResult = BitVec.ofNat 64 v ∧
      (s.fld Reg.chkOp 2 1 = 1 → (t.fld Reg.chkOp 6 1 = 1 ↔ s.fld Reg.chkExpect 0 (chkBits (s.fld Reg.chkOp 0 2)) = v)) ∧
      RegsOnly s t (fun off => off = Reg.chkOp ∨ off = Reg.chkResult) ∧ t.mem = s.mem) ∧
  (∀ s : State, s.fld Reg.chkOp 5 1 = 0 → exec .chkDone s = .next s) ∧
  (∀ (path : Path) (space : Fin 16) (job : Bool) (s : State), s.mayWrite path Reg.quoteCtrl = true →
    (s.measured = true → s.fld Reg.quoteCtrl 9 1 = 0 → (job = true → s.jobAt space ≠ none) → ∃ t, exec (.quote path space job) s = .next t ∧
      t.fld Reg.quoteCtrl 9 1 = 1 ∧ t.fld Reg.quoteCtrl 0 4 = space ∧ t.fld Reg.quoteCtrl 4 1 = boolNat job ∧ t.quote = s.quote ∧
      RegsOnly s t (fun off => off = Reg.quoteCtrl)) ∧
    (s.measured = false ∨ s.fld Reg.quoteCtrl 9 1 = 1 → exec (.quote path space job) s = .next ((s.accessed path).unmapped Reg.quoteCtrl))) ∧
  (∀ s : State, s.fld Reg.quoteCtrl 9 1 = 1 → ∃ t, exec .quoteDone s = .next t ∧ t.quote = s.quoteBody ++ leBytes 96 (Config.quoteSig s.quoteBody s.free) ∧
    t.fld Reg.quoteCtrl 9 1 = 0 ∧ t.fld Reg.quoteCtrl 10 1 = 1 ∧ RegsOnly s t (fun off => off = Reg.quoteCtrl) ∧ t.mem = s.mem ∧ t.keys = s.keys) ∧
  (∀ (path : Path) (j : Fin 6) (v : BitVec 64) (s : State), s.mayWrite path (Reg.nonce j) = true → ∃ t, exec (.secNonceWrite path j v) s = .next t ∧
    t.reg (Reg.nonce j) = v ∧ t.fld Reg.quoteCtrl 10 1 = 0 ∧ t.quote = s.quote ∧ RegsOnly s t (fun off => off = Reg.nonce j ∨ off = Reg.quoteCtrl)) ∧
  (∀ (path : Path) (image : Fin 4) (svn : BitVec 6) (s : State), let lo := fun (k : Nat) => bitsOf s.fusedSvn.toNat (8 * k) 6
    s.mayWrite path Reg.svnRaise = true → ∃ t, exec (.secSvnRaise path image svn) s = .next t ∧ t = { s.accessed path with fusedSvn := t.fusedSvn } ∧
      (∀ k, k < 4 → lo k ≤ bitsOf t.fusedSvn.toNat (8 * k) 6) ∧
      (lo image < svn.toNat → svn.toNat ≤ byteAt (s.imageHeader 0) 5 → s.verified 0 = true → bitsOf t.fusedSvn.toNat (8 * image) 6 = svn.toNat) ∧
      (byteAt (s.imageHeader 0) 5 < svn.toNat ∨ svn.toNat ≤ lo image → t.fusedSvn = s.fusedSvn))

/-! ### Debug -/

/-- R581, R584 to R589: HALT, RESUME, STEP and CLRFAULT act on the engines named of the selected core and on nothing else; what may not be done sets its DBG_ERR
bit; a catch bit changes only for a core that no closed job holds, and clearing one releases the records held for it. -/
def Obligations.DebugControl : Prop :=
  (∀ (path : Path) (m : BitVec 6) (c : Nat) (s : State), s.mayWrite path Reg.dbgEngCtrl = true → s.dbgCore path = .ok c →
    (∃ t, exec (.dbgHalt path m) s = .next t ∧ t = { s.accessed path with cores := t.cores, trace := t.trace } ∧ OtherCores s t c ∧
      ∀ e, e < 6 → t.eng c e = if m.getLsbD e = true then { s.eng c e with dhold := true, stepping := false } else s.eng c e) ∧
    (∃ t, exec (.dbgResume path m) s = .next t ∧ t = { s.accessed path with cores := t.cores, trace := t.trace } ∧ OtherCores s t c ∧
      ∀ e, e < 6 → t.eng c e = if m.getLsbD e = true then { s.eng c e with dhold := false, stepping := false } else s.eng c e) ∧
    ((∀ e, e < 6 → m.getLsbD e = true → (s.eng c e).dhold = true) → ∃ t, exec (.dbgStep path m) s = .next t ∧
      t = { s.accessed path with cores := t.cores, trace := t.trace } ∧ OtherCores s t c ∧
      ∀ e, e < 6 → t.eng c e = if m.getLsbD e = true then { s.eng c e with stepping := true } else s.eng c e) ∧
    (∀ e, e < 6 → m.getLsbD e = true → (s.eng c e).dhold = false → ∃ t, exec (.dbgStep path m) s = .next t ∧ t.cores = s.cores ∧ t.mem = s.mem ∧
      t.fld (Reg.dbgErr + pathKey path) 2 1 = 1) ∧
    (s.inRecovery c = false → ∃ t, exec (.dbgClrfault path m) s = .next t ∧ t = { s.accessed path with cores := t.cores, trace := t.trace } ∧ OtherCores s t c ∧
      ∀ e, e < 6 → t.eng c e = if m.getLsbD e = true ∧ (s.eng c e).st = .faulted then { s.eng c e with st := .issuing, dhold := true } else s.eng c e) ∧
    (s.inRecovery c = true → m ≠ 0 → ∃ t, exec (.dbgClrfault path m) s = .next t ∧ (∀ e, t.eng c e = s.eng c e) ∧ t.mem = s.mem ∧
      t.fld (Reg.dbgErr + pathKey path) 1 1 = 1)) ∧
  (∀ (path : Path) (m : BitVec 6) (i : Instr) (err : DbgErr) (s : State), i ∈ [.dbgHalt path m, .dbgResume path m, .dbgStep path m, .dbgClrfault path m] →
    s.mayWrite path Reg.dbgEngCtrl = true → s.dbgCore path = .error err → ∃ t, exec i s = .next t ∧ t.cores = s.cores ∧ t.mem = s.mem ∧
      t.fld (Reg.dbgErr + pathKey path) err.bit 1 = 1) ∧
  (∀ (path : Path) (v : BitVec 64) (s : State), let old := s.reg Reg.dbgCatch
    s.mayWrite path Reg.dbgCatch = true →
    ((∀ c, c < 64 → v.getLsbD c ≠ old.getLsbD c → s.closedCore c = false) →
      (∀ c, c < 64 → old.getLsbD c = true → v.getLsbD c = true) → ∃ t, exec (.dbgCatchWrite path v) s = .next t ∧ t.reg Reg.dbgCatch = v ∧
        t = { s.accessed path with regs := t.regs } ∧ RegsOnly s t (fun off => off = Reg.dbgCatch)) ∧
    (∀ c, c < 64 → s.closedCore c = true → v.getLsbD c ≠ old.getLsbD c → (∀ k, k ≠ c → v.getLsbD k = old.getLsbD k) →
      ∃ t, exec (.dbgCatchWrite path v) s = .next t ∧ t.reg Reg.dbgCatch = old ∧ t.cores = s.cores ∧ t.fld (Reg.dbgErr + pathKey path) 0 1 = 1) ∧
    (∀ c, c < 64 → s.closedCore c = false → old.getLsbD c = true → v.getLsbD c = false → (∀ k, k ≠ c → v.getLsbD k = old.getLsbD k) → c ∉ s.missed →
      ∃ t, exec (.dbgCatchWrite path v) s = .next t ∧ t.reg Reg.dbgCatch = v ∧ t.cores = s.cores ∧
        t.recq = s.recq ++ s.caughtRecs.filter (fun r => targetOf 2 r.unit.toNat == c) ∧
        t.caughtRecs = s.caughtRecs.filter (fun r => targetOf 2 r.unit.toNat != c)))

/-- R580, R590 to R594: a debug read answers the selected item and changes none, a write changes that item alone, a tally at the end of its core cycle, and what may not be reached answers zero
and sets its DBG_ERR bit, OFF in reset; a trace mark takes the next place of the buffer. -/
def Obligations.DebugAccess : Prop :=
  (∀ (path : Path) (c : Nat) (s : State), let kind := (s.regSel path).1
    let ix := (s.regSel path).2.1
    let p := (s.regSel path).2.2
    s.dbgItem path = .ok c →
    (s.inReset = false → ∃ t, exec (.dbgRegRead path) s = .next t ∧ t = { s.accessed path with reply := t.reply } ∧
      (kind = 0 → t.reply = leBytes 8 (s.g c ix).toNat) ∧ (kind = 2 → t.reply = leBytes 8 (s.tally c ix)) ∧
      (kind = 1 → t.reply = leBytes 4 (s.lane c ix (2 * p)).toNat ++ leBytes 4 (s.lane c ix (2 * p + 1)).toNat)) ∧
    (∀ v : BitVec 64, s.mayWrite path Reg.dbgRegData = true → ∃ t, exec (.dbgRegWrite path v) s = .next t ∧
      t = { s.accessed path with cores := t.cores, trace := t.trace } ∧ OtherCores s t c ∧ (∀ e, t.eng c e = s.eng c e) ∧
      (∀ n, t.g c n = if kind = 0 ∧ n = ix ∧ n ≠ 0 then v else s.g c n) ∧
      (t.core c).tops = (s.core c).tops ++ (if kind = 2 then [⟨3, 0, 0, ix, ((v.toNat % 2 ^ 16 : Nat) : Int)⟩] else []) ∧
      (∀ n, t.tally c n = s.tally c n ∧ ((s.core c).tops = [] →
        (t.applyOps c).tally c n = if kind = 2 ∧ n = ix then v.toNat % 2 ^ 16 else s.tally c n)) ∧
      (∀ n i, i < 64 → t.lane c n i = if kind = 1 ∧ n = ix ∧ i = 2 * p then v.truncate 32
        else if kind = 1 ∧ n = ix ∧ i = 2 * p + 1 then (v >>> 32).truncate 32 else s.lane c n i))) ∧
  (∀ (path : Path) (err : DbgErr) (s : State), s.dbgItem path = .error err →
    (s.inReset = false → ∃ t, exec (.dbgRegRead path) s = .next t ∧ t.reply = List.replicate 8 0 ∧ t.cores = s.cores ∧
      t.fld (Reg.dbgErr + pathKey path) err.bit 1 = 1) ∧
    (∀ v : BitVec 64, s.mayWrite path Reg.dbgRegData = true → ∃ t, exec (.dbgRegWrite path v) s = .next t ∧ t.cores = s.cores ∧ t.mem = s.mem ∧
      t.fld (Reg.dbgErr + pathKey path) err.bit 1 = 1)) ∧
  (∀ (path : Path) (s : State), let p := s.pegSel path
    (s.closedCluster (p / 4096) = false → s.inReset = false → s.pegGood p = true → ∃ t, exec (.dbgPegRead path) s = .next t ∧
      t.reply = leBytes 8 (s.pegWord p).toNat ∧ t.pegs = s.pegs ∧ t.mem = s.mem) ∧
    (s.closedCluster (p / 4096) = true → s.inReset = false → ∃ t, exec (.dbgPegRead path) s = .next t ∧ t.reply = List.replicate 8 0 ∧ t.pegs = s.pegs ∧
      t.fld (Reg.dbgErr + pathKey path) 0 1 = 1) ∧
    (∀ v : BitVec 64, s.mayWrite path Reg.dbgPegData = true →
      (s.closedCluster (p / 4096) = false → pegWordOk v = true → (∀ x ∈ s.pegs.takes, x.peg ≠ p) → ∃ t, exec (.dbgPegWrite path v) s = .next t ∧
        t.pegWord p = v ∧ t.pegGood p = true ∧ (∀ q, q ≠ p → t.pegWord q = s.pegWord q) ∧ t.mem = s.mem) ∧
      (s.closedCluster (p / 4096) = false → pegWordOk v = false → ∃ t, exec (.dbgPegWrite path v) s = .next t ∧ t.pegs = s.pegs ∧
        t.fld (Reg.dbgErr + pathKey path) 2 1 = 1))) ∧
  (∀ (path : Path) (off : Nat) (s : State),
    (s.memTarget path false = .ok (.die off) → s.inReset = false → exec (.dbgMemRead path) s = .next { s.accessed path with reply := leBytes 8 (s.rdLE off 8) }) ∧
    (∀ v : BitVec 64, s.memTarget path true = .ok (.die off) → s.mayWrite path Reg.dbgMemData = true → ∃ t, exec (.dbgMemWrite path v) s = .next t ∧
      t.rdLE off 8 = v.toNat ∧ MemOnly s t (Within off 8) ∧ t = { s.accessed path with mem := t.mem })) ∧
  (∀ (path : Path) (m : Map) (va : Nat) (s : State),
    (s.memTarget path false = .ok (.tier m va) → s.inReset = false → ∃ t, exec (.dbgMemRead path) s = .next t ∧
      t.reply = leBytes 8 (leNat (s.mapRead m va 8)) ∧ t.mem = s.mem ∧ t.sealed = s.sealed ∧ t.cores = s.cores) ∧
    (∀ v : BitVec 64, s.memTarget path true = .ok (.tier m va) → s.mayWrite path Reg.dbgMemData = true →
      exec (.dbgMemWrite path v) s = .next ((s.accessed path).mapWrite m va (leBytes 8 v.toNat)))) ∧
  (∀ (path : Path) (err : DbgErr) (s : State),
    (s.memTarget path false = .error err → s.inReset = false → ∃ t, exec (.dbgMemRead path) s = .next t ∧ t.reply = List.replicate 8 0 ∧ t.mem = s.mem ∧
      t.fld (Reg.dbgErr + pathKey path) err.bit 1 = 1) ∧
    (∀ v : BitVec 64, s.memTarget path true = .error err → s.mayWrite path Reg.dbgMemData = true → ∃ t, exec (.dbgMemWrite path v) s = .next t ∧
      t.mem = s.mem ∧ t.fld (Reg.dbgErr + pathKey path) err.bit 1 = 1)) ∧
  (∀ (path : Path) (s : State), s.mayWrite path Reg.traceCtrl = true → ∃ t, exec (.dbgTraceClear path) s = .next t ∧ t.trace.buf = [] ∧ t.trace.next = 0 ∧
    t.trace.wrapped = false ∧ t.trace.lost = 0 ∧ t.fld Reg.traceCtrl 0 2 = s.fld Reg.traceCtrl 0 2 ∧ RegsOnly s t (fun off => off = Reg.traceCtrl)) ∧
  (∀ (path : Path) (v : BitVec 64) (s : State), s.mayWrite path Reg.traceMark = true →
    (s.trace.wrapped = true → s.fld Reg.traceCtrl 1 1 = 1 → exec (.dbgTraceMark path v) s = .next (s.accessed path)) ∧
    (s.trace.wrapped = false ∨ s.fld Reg.traceCtrl 1 1 = 0 → ∃ t, exec (.dbgTraceMark path v) s = .next t ∧ t = { s.accessed path with trace := t.trace } ∧
      (s.trace.busyAt ≠ s.netCycle + 1 → Tab.get (fun _ => (⟨0, 0, 0, 0, 0⟩ : TraceEnt)) t.trace.buf s.trace.next = ⟨s.time, s.unitDie 0, 8, v, 0⟩ ∧
        t.trace.next = (s.trace.next + 1) % 2048) ∧
      (s.trace.busyAt = s.netCycle + 1 → t.trace = { s.trace with lost := satInc s.trace.lost 32 }))) ∧
  (∀ (path : Path) (v : BitVec 64) (i : Instr) (s : State), s.inReset = true →
    (i ∈ [.dbgRegRead path, .dbgPegRead path, .dbgMemRead path] → exec i s = .next ((s.dbgFail path .off).answerWord 0)) ∧
    (i ∈ [.dbgRegWrite path v, .dbgPegWrite path v, .dbgMemWrite path v] → exec i s = .next (s.dbgFail path .off)))

/-! ### The TAP, SMBus and the pins -/

/-- R582, R583, R599 to R601: the TAP's instructions and the block reads of the SMBus answer what their sections lay out, in reset and
before step 1 has passed with zeros but for the state byte and the temperatures, and change nothing else but what the sensors read; a DBGACC access is an
access by the JTAG path. (The reset state's IDCODE and the packet-error byte are PRESUMED, log entry 85.) -/
def Obligations.TapAndSmbus : Prop :=
  (∀ s : State, exec .bypass s = .next { s with tap := { s.tap with ir := 0xFF } } ∧
    exec .testLogicReset s = .next { s with tap := { s.tap with ir := 0x01 } } ∧
    exec .idcode s = .next { s with tap := { s.tap with ir := 0x01 }, reply := leBytes 4 (1 + Config.manufacturer.toNat * 2 + 0x0820 * 2 ^ 12 + Config.stepping.toNat * 2 ^ 28) }) ∧
  (∀ (sampled preload : List (BitVec 8)) (s : State),
    ((∀ j ∈ s.jobs, j.2.debug = true) → exec (.samplePreload sampled preload) s = .next { s with tap := { s.tap with ir := 0x02, chain := preload }, reply := sampled }) ∧
    ((∃ j ∈ s.jobs, j.2.debug = false) → exec (.samplePreload sampled preload) s = .next { s with tap := { s.tap with ir := 0xFF } })) ∧
  (∀ (chain : List (BitVec 8)) (s : State), let pass : State := { s with tap := { s.tap with ir := 0xFF } }
    (s.bu.step = 0 ∨ s.bu.ended = true → exec (.extest chain) s = .next { s with tap := { s.tap with ir := 0x00, chain := chain } } ∧
      exec .clamp s = .next { s with tap := { s.tap with ir := 0x04 } } ∧ exec .highz s = .next { s with tap := { s.tap with ir := 0x05 } }) ∧
    (s.bu.step ≠ 0 → s.bu.ended = false → exec (.extest chain) s = .next pass ∧ exec .clamp s = .next pass ∧ exec .highz s = .next pass)) ∧
  (∀ (dr : BitVec 96) (s : State), let off := dr.extractLsb' 64 24
    let size := if dr.getLsbD 89 = true then 8 else 4
    let r : State := { s with tap := { s.tap with ir := 0x20 } }
    (s.inReset = true → exec (.dbgacc dr) s = .next { r with tap := { r.tap with data := 0, status := 3 }, reply := [] }) ∧
    (s.inReset = false → dr.getLsbD 88 = true → inDbg off.toNat = true → accessOk off.toNat size = true →
      ∃ u, exec (.registerWrite .jtag off size (dr.extractLsb' 0 64)) r = .next u ∧
        exec (.dbgacc dr) s = .next { u with tap := { u.tap with data := 0, status := 0 }, reply := [] }) ∧
    (s.inReset = false → dr.getLsbD 88 = true → accessOk off.toNat size = false → ∃ t, exec (.dbgacc dr) s = .next t ∧ t.tap.status = 2 ∧
      t.mem = s.mem ∧ t.cores = s.cores) ∧
    (s.inReset = false → dr.getLsbD 88 = true → inDbg off.toNat = false → ∃ t, exec (.dbgacc dr) s = .next t ∧ t.tap.status = 2 ∧ t.regs = s.regs ∧
      t.mem = s.mem ∧ t.cores = s.cores) ∧
    (s.inReset = false → dr.getLsbD 88 = false → ∃ t, exec (.dbgacc dr) s = .next t ∧ t.reply = (r.busRead .jtag off.toNat size).2 ∧
      t.tap.data = BitVec.ofNat 64 (leNat t.reply) ∧ t.tap.status = if accessOk off.toNat size = true then 0 else 2)) ∧
  (∀ (dies : BitVec 112) (powers : BitVec 128) (s : State),
    (s.pins.pwrOk = false → ∀ i ∈ [Instr.smbIdentity, .smbState, .smbTemperatures dies, .smbPowers powers, .smbLatestFault], exec i s = .next (s.answer ([]))) ∧
    (s.pins.pwrOk = true → s.stepOnePassed = false ∨ s.inReset = true → ∀ (i : Instr) (bs : List Byte),
      (i, bs) ∈ [(.smbIdentity, List.replicate 8 0), (.smbState, [BitVec.ofNat 8 s.smbStateCode, 0, 0, 0]), (.smbPowers powers, List.replicate 18 0),
        (.smbLatestFault, List.replicate 8 0)] → (s.inReset = true → s.smbStateCode = 0) ∧ ∃ pec, exec i s = .next (s.answer (bs ++ [pec]))) ∧
    (s.pins.pwrOk = true → s.stepOnePassed = true → s.inReset = false →
      (∃ pec, exec .smbIdentity s = .next (s.answer (leBytes 2 0x0820 ++ leBytes 1 Config.stepping.toNat ++ [0] ++ leBytes 2 s.pkg ++ [0, 0] ++ [pec]))) ∧
      (∃ pec, exec .smbState s = .next (s.answer ([if s.stopped then 5 else if s.fld Reg.fltOther 22 1 = 1 then 4 else if s.bu.ended then 3
        else if s.bu.ready then 2 else 1, BitVec.ofNat 8 (s.bu.step % 256), 0, 0, pec]))) ∧
      (∃ pec, exec (.smbPowers powers) s = .next (s.answer ((List.range 8).flatMap (fun d => leBytes 2 (powers.extractLsb' (16 * d) 16).toNat) ++
        leBytes 2 (((List.range 8).map (fun d => (powers.extractLsb' (16 * d) 16).toNat)).foldl (· + ·) 0) ++ [pec]))) ∧
      ((s.fbuf 0).recs = [] → ∃ pec, exec .smbLatestFault s = .next (s.answer (List.replicate 8 0 ++ [pec]))) ∧
      (∀ r rs, (s.fbuf 0).recs = rs ++ [r] → ∃ pec, exec .smbLatestFault s = .next (s.answer (leBytes 2 (r.code + r.kind * 2 ^ 12 + boolNat r.esc * 2 ^ 15) ++
        leBytes 2 (rs.length + 1) ++ leBytes 4 r.unit.toNat ++ [pec])))) ∧
    (s.pins.pwrOk = true → ∃ t pec, exec (.smbTemperatures dies) s = .next t ∧ t = { s with regs := t.regs, reply := t.reply } ∧
      RegsOnly s t (fun off => ∃ d, d < 7 ∧ off = Reg.therm d) ∧
      t.reply = (List.range 7).flatMap (fun d => leBytes 2 (dies.extractLsb' (16 * d) 16).toNat) ++ leBytes 2 t.hottest ++ [pec] ∧
      ∀ d, d < 7 → t.fld (Reg.therm d) 0 16 = (dies.extractLsb' (16 * d) 16).toNat ∧
        signedOf (t.fld (Reg.therm d) 16 16) 16 = max (signedOf (s.fld (Reg.therm d) 16 16) 16) (signedOf (dies.extractLsb' (16 * d) 16).toNat 16)))

/-- R605 to R624: a package reset by PWR_OK, RESET_N or the thermal trip leaves the memories, registers and jobs as at reset, a short RESET_N pulse does nothing, and a
lost clock, a rail excursion, the power cap and the steward link act as their rules say. (A pulse between 1 and 10 µs resets or not by a free value, log entry 90.) -/
def Obligations.PinsAndPower : Prop :=
  let cleared := fun (s t : State) => t.cores = [] ∧ t.jobs = [] ∧ t.keys = [] ∧ t.bu = {} ∧ t.fbufs = [] ∧ t.reqs = [] ∧ t.rst = none ∧
    (∀ k, k < 2 ^ 64 → t.rd8 k = 0) ∧ (∀ k, 2 ^ 64 ≤ k → k < 2 ^ 65 → t.rd8 k = s.rd8 k) ∧ t.pending = s.pending ∧ t.ns = s.ns ∧ t.time = 0 ∧
    (∀ off, off < 0xB1000 ∨ 0xB1040 ≤ off → off ≠ Reg.svn → t.reg off = regReset off) ∧ t.reg Reg.svn = BitVec.ofNat 64 s.fusedSvn.toNat
  (∀ (straps : BitVec 2) (s : State), s.pins.pwrOk = false → ∃ t, exec (.pwrOkRise straps) s = .next t ∧ t = { s with pins := t.pins } ∧
    t.pins.pwrOk = true ∧ t.pins.straps = straps.toNat ∧ t.pins.link = s.pins.resetN) ∧
  (∀ s : State, ∃ t, exec .pwrOkFall s = .next t ∧ cleared s t ∧ t.inReset = true ∧ t.pins.trip = false ∧ ∀ d, d < 7 → t.reg (Reg.therm d) = regReset (Reg.therm d)) ∧
  (∀ (heldNs : Nat) (s : State), (heldNs < 1000 → exec (.resetNFall heldNs) s = .next s) ∧
    (10000 ≤ heldNs → s.pins.trip = false → ∃ t, exec (.resetNFall heldNs) s = .next t ∧ cleared s t ∧ t.inReset = true ∧ t.pins.resetN = false) ∧
    (10000 ≤ heldNs → s.pins.trip = true → exec (.resetNFall heldNs) s = .next { s with pins := { s.pins with resetN := false } }) ∧
    (1000 ≤ heldNs → heldNs < 10000 → s.pins.trip = false → ∃ t, exec (.resetNFall heldNs) s = .next t ∧ t.free = s.free + 1 ∧
      (t = { s with free := s.free + 1 } ∨ cleared s t ∧ t.pins.resetN = s.pins.resetN))) ∧
  (∀ s : State, (s.pins.pwrOk = true → exec .resetNRise s = .next { s with pins := { s.pins with resetN := true, link := !s.pins.trip } }) ∧
    (s.pins.pwrOk = false → exec .resetNRise s = .next s) ∧
    (s.pins.pwrOk = true → ∃ t, exec .thermalTrip s = .next t ∧ cleared s t ∧ t.pins.trip = true ∧ t.pins.alert = true ∧ t.inReset = true)) ∧
  (∀ s : State, s.pins.pwrOk = true → s.inReset = false →
    (s.stepOnePassed = true → ∃ t, exec (.refclkLost 0) s = .next t ∧ t.pins.lost100 = true ∧ t.stopped = true ∧ t.pins.alert = true ∧ t.mem = s.mem ∧
      ∀ c, c < 64 → (t.core c).clkOn = false ∧ ∀ e, e < 6 → (t.eng c e).st.runs = false) ∧
    (s.bu.step = 1 → s.bu.state = 1 → ∃ t, exec (.refclkLost 0) s = .next t ∧ t.bu.fail = some ⟨0x0102, 0, s.unitPkg, 0, 0⟩ ∧ t.cores = s.cores) ∧
    (¬ (s.bu.step = 1 ∧ s.bu.state = 1) → ∃ t, exec (.refclkLost 1) s = .next t ∧ t.pins.lostA = true ∧ t.mem = s.mem ∧
      ∀ g, g < 4 → s.portUsed g = true → s.portState g = 2 ∨ s.portState g = 3 ∨ s.portState g = 6 → (s.port g).kept = none → t.portState g = 4) ∧
    (¬ (s.bu.step = 1 ∧ s.bu.state = 1) → ∃ t, exec (.refclkLost 2) s = .next t ∧ t.pins.lostB = true ∧ t.mem = s.mem ∧
      ∀ g, 4 ≤ g → g < 8 → s.portUsed g = true → s.portState g = 2 ∨ s.portState g = 3 ∨ s.portState g = 6 → (s.port g).kept = none → t.portState g = 4)) ∧
  (∀ (b : Bool) (s : State), exec (.refclkReturn b) s = .next { s with pins := { s.pins with lostA := s.pins.lostA && b, lostB := s.pins.lostB && !b } }) ∧
  (∀ (rail : Fin 13) (mv : BitVec 32) (us : Nat) (s : State), s.inReset = false → s.bu.step ≠ 0 →
    (s.bu.step = 1 → s.bu.state = 1 → ∃ t, exec (.railExcursion rail mv us) s = .next t ∧ t.bu.fail = some ⟨0x0104, 0, s.unitPkg, rail, 0⟩) ∧
    (¬ (s.bu.step = 1 ∧ s.bu.state = 1) → 5 ≤ us → ∃ t, exec (.railExcursion rail mv us) s = .next t ∧ t.mem = s.mem ∧ t.cores = s.cores ∧
      Recorded s t 0 0x0C6 2 s.unitPkg (0x0100 + rail) mv.toNat) ∧
    (¬ (s.bu.step = 1 ∧ s.bu.state = 1) → us < 5 → ∃ t, exec (.railExcursion rail mv us) s = .next t ∧ t = { s with pins := t.pins } ∧
      t.pins.excursions = s.pins.excursions + 1)) ∧
  (∀ (energy : BitVec 256) (dies : BitVec 112) (s : State), let all := ((List.range 8).map (fun d => (energy.extractLsb' (32 * d) 32).toNat)).foldl (· + ·) 0
    let p := ((all :: s.cap.energy).take 1000).foldl (· + ·) 0 / 100000
    let limit := 10 * s.fld Reg.pwrLimit 0 10
    let t0 := signedOf (s.readSensors dies).hottest 16
    let hot : Int := s.fld Reg.throttle 0 10
    (s.ns < s.cap.evalAt + 1000000 → exec (.powerCapEval energy dies) s = .next s) ∧
    (s.inReset = false → s.cap.evalAt + 1000000 ≤ s.ns → ∃ t, exec (.powerCapEval energy dies) s = .next t ∧
      (∀ d, d < 8 → t.reg (Reg.energy d) = s.reg (Reg.energy d) + BitVec.ofNat 64 (energy.extractLsb' (32 * d) 32).toNat) ∧
      t.fld Reg.pwrStatus 0 16 = min p 65535 ∧ (s.bu.step < 13 ∨ s.stopped = true → t.capNow = s.capNow ∧ t.cores = s.cores) ∧
      (13 ≤ s.bu.step → s.stopped = false → (limit < p ∨ hot ≤ t0 → t.capNow = max (s.capNow - 1) (s.fld Reg.pwrLimit 10 4)) ∧
        (100 * p < 95 * limit → t0 < hot - 40 → s.cap.changed + 10000000 ≤ s.ns → t.capNow = min (s.capNow + 1) 12) ∧
        (¬ (limit < p ∨ hot ≤ t0) → s.ns < s.cap.changed + 10000000 → t.capNow = s.capNow)))) ∧
  (∀ s : State, exec .stewardLinkReset s = .next { s with busMaster := false } ∧
    (s.inReset = false → s.pins.link = true → exec .busMasterEnable s = .next { s with busMaster := true }) ∧
    (s.inReset = true ∨ s.pins.link = false → exec .busMasterEnable s = .next s))

/-! ### The machine as a whole -/

/-- A step carries out the command at the front of the queue on the queue's rest; with nothing in the queue half a nanosecond passes (DESIGN
CHOICE, log entry 2), in which memory, jobs, keys and the bring-up step stay, a core's clock passes one cycle at most, and the time base goes on, at
no more than twice its rate and never back, unless a lost clock or reset stops it. -/
def Obligations.StepFront : Prop :=
  (∀ (c : Instr) (rest : List Instr) (s : State), s.pending = c :: rest → step s = exec c { s with pending := rest }) ∧
  (∀ s : State, s.pending = [] → ∃ t, step s = .next t ∧ t.pending = [] ∧ t.half = !s.half ∧ t.ns = s.ns + boolNat s.half ∧ t.mem = s.mem ∧
    t.jobs = s.jobs ∧ t.keys = s.keys ∧ t.bu.step = s.bu.step ∧ t.bu.state = s.bu.state ∧ t.bu.ready = s.bu.ready ∧ t.bu.fail = s.bu.fail ∧
    (s.inReset = true ∨ s.pins.lost100 = true → t = { s with half := !s.half, ns := s.ns + boolNat s.half }) ∧
    (s.inReset = false → s.pins.lost100 = false → s.fld Reg.timStatus 0 2 ≠ 3 → s.tim.slew = 0 →
      t.time = s.time + BitVec.ofNat 64 (boolNat s.half)) ∧
    (∃ d, d ≤ 2 * boolNat s.half ∧ t.time = s.time + BitVec.ofNat 64 d) ∧
    (s.inReset = false → s.pins.lost100 = false → ∀ c, c < 64 → (s.core c).clkOn = true → (s.core c).clkHeld = false → (s.core c).frac < 2000 →
      2000 * (t.core c).cycles + (t.core c).frac = 2000 * (s.core c).cycles + (s.core c).frac + 600 + 50 * s.fld (Reg.coreFreq c) 16 4 ∧
      (t.core c).frac < 2000 ∧ (t.core c).cycles ≤ (s.core c).cycles + 1))

/-- R56, R79, R373: every field of an instruction stands at the bits its format gives it, and the word is as wide as the format. -/
def Obligations.EncodingFields : Prop :=
  (∀ (w : EngW) (opc : Nat), opc < 256 → let x := engEnc w opc
    x < 2 ^ 128 ∧ bitsOf x 0 8 = opc ∧ bitsOf x 8 40 = w.opnd.toNat ∧ bitsOf x 48 24 = w.wait0.toNat ∧ bitsOf x 72 24 = w.wait1.toNat ∧
    bitsOf x 96 16 = w.sig0.toNat ∧ bitsOf x 112 16 = w.sig1.toNat) ∧
  (∀ (opc : Nat), opc < 64 →
    (∀ i : FmtA, let x := encA opc i
      x < 2 ^ 32 ∧ bitsOf x 26 6 = opc ∧ bitsOf x 21 5 = i.gd.toNat ∧ bitsOf x 16 5 = i.ga.toNat ∧ bitsOf x 11 5 = i.gb.toNat ∧ bitsOf x 0 11 = i.func.toNat) ∧
    (∀ i : FmtI, let x := encI opc i
      x < 2 ^ 32 ∧ bitsOf x 26 6 = opc ∧ bitsOf x 21 5 = i.gd.toNat ∧ bitsOf x 16 5 = i.ga.toNat ∧ bitsOf x 0 16 = i.imm.toNat) ∧
    (∀ i : FmtB, let x := encB opc i
      x < 2 ^ 32 ∧ bitsOf x 26 6 = opc ∧ bitsOf x 21 5 = i.ga.toNat ∧ bitsOf x 16 5 = i.gb.toNat ∧ bitsOf x 0 16 = i.off.toNat) ∧
    (∀ i : FmtJ, let x := encJ opc i
      x < 2 ^ 32 ∧ bitsOf x 26 6 = opc ∧ bitsOf x 21 5 = i.gd.toNat ∧ bitsOf x 0 21 = i.off.toNat) ∧
    (∀ i : FmtQ, let x := encQ opc i
      x < 2 ^ 32 ∧ bitsOf x 26 6 = opc ∧ bitsOf x 21 5 = i.ga.toNat ∧ bitsOf x 16 5 = i.gb.toNat ∧ bitsOf x 13 3 = i.eng.toNat ∧ bitsOf x 0 13 = i.rsvd.toNat) ∧
    (∀ i : FmtT, let x := encT opc i
      x < 2 ^ 32 ∧ bitsOf x 26 6 = opc ∧ bitsOf x 21 5 = i.g.toNat ∧ bitsOf x 15 6 = i.tally.toNat ∧ bitsOf x 0 15 = i.imm.toNat) ∧
    (∀ i : FmtP, let x := encP opc i
      x < 2 ^ 32 ∧ bitsOf x 26 6 = opc ∧ bitsOf x 25 1 = i.take.toNat ∧ bitsOf x 12 13 = i.rsvd.toNat ∧ bitsOf x 0 12 = i.peg.toNat)) ∧
  (∀ (op : Nat) (i : CveI), op < 256 → let x := encCve op i
    x < 2 ^ 64 ∧ bitsOf x 0 8 = op ∧ bitsOf x 8 6 = i.d.toNat ∧ bitsOf x 14 6 = i.a.toNat ∧ bitsOf x 20 6 = i.b.toNat ∧ bitsOf x 26 6 = i.c.toNat ∧
    bitsOf x 32 1 = i.bp.toNat ∧ bitsOf x 33 1 = i.cp.toNat ∧ bitsOf x 34 14 = i.soff.toNat ∧ bitsOf x 48 1 = i.xr.toNat ∧ bitsOf x 49 4 = i.sub.toNat ∧
    bitsOf x 53 11 = i.rsvd.toNat)

/-- The state after reset: every register reads its table's reset value, every engine is halted, tallies and peg words are zero, no key, job, record or request
is held, no bring-up step has run, and memory and registers are in canonical form. (Memory and the registers without a reset value at zero: DESIGN CHOICE, log
entry 10.) -/
def Obligations.ResetState : Prop :=
  let s := State.reset
  s.Canonical ∧ (∀ off, s.reg off = regReset off) ∧ (∀ k, s.rd8 k = 0) ∧ (∀ c e, (s.eng c e).st = .halted ∧ (s.eng c e).loops = [] ∧ (s.eng c e).aq = []) ∧
  (∀ c n, s.tally c n = 0 ∧ s.g c n = 0) ∧ (∀ p, s.pegWord p = 0 ∧ s.pegGood p = true) ∧ (∀ d n, s.keyAt d n = 0) ∧ s.jobs = [] ∧
  (∀ d, (s.fbuf d).recs = [] ∧ (s.fbuf d).next = 0) ∧ s.reqs = [] ∧ s.inreqs = [] ∧ s.bu.step = 0 ∧ s.bu.state = 0 ∧ s.bu.ready = false ∧ s.time = 0 ∧
  (∀ c, (s.core c).clkOn = false) ∧ s.rst = none ∧ s.recov = [] ∧ s.stopped = false ∧ s.pending = []

/-- Every step keeps memory and the register file in their canonical form: keys strictly rising, and no entry equal to what an absent one reads as. -/
def Obligations.CanonicalKept : Prop :=
  ∀ s t : State, s.Canonical → step s = .next t → t.Canonical
end

