-- ==== Sys2Proof/Laws/Tab.lean ====
section
/-! SUPPORT. The laws of sparse tables: a read after a write, and that every operation keeps the canonical form. -/
namespace Sys2Proof.Laws.Tab
open Sys2Proof

variable {α : Type}

theorem get_ins_self (d : Nat → α) (t : Tab α) (k : Nat) (v : α) (h : ∀ x ∈ t, x.1 ≠ k) :
    Tab.get d (Tab.ins k v t) k = v := by
  induction t with
  | nil => simp [Tab.ins, Tab.get]
  | cons x t ih =>
    obtain ⟨a, w⟩ := x
    have ha : a ≠ k := h (a, w) (by simp)
    have ih' := ih (fun y hy => h y (by simp [hy]))
    by_cases hk : k < a
    · simp [Tab.ins, hk, Tab.get]
    · simp [Tab.ins, hk, Tab.get, ha, ih']

theorem get_ins_other (d : Nat → α) (t : Tab α) (k j : Nat) (v : α) (hj : j ≠ k) :
    Tab.get d (Tab.ins k v t) j = Tab.get d t j := by
  induction t with
  | nil => simp [Tab.ins, Tab.get, Ne.symm hj]
  | cons x t ih =>
    obtain ⟨a, w⟩ := x
    by_cases hk : k < a
    · simp [Tab.ins, hk, Tab.get, Ne.symm hj]
    · simp only [Tab.ins, hk, if_false, Tab.get, ih]

theorem mem_erase (t : Tab α) (k : Nat) : ∀ x ∈ Tab.erase k t, x.1 ≠ k := by
  induction t with
  | nil => simp [Tab.erase]
  | cons x t ih =>
    obtain ⟨a, w⟩ := x
    by_cases ha : a = k
    · simpa [Tab.erase, ha] using ih
    · intro y hy
      simp only [Tab.erase, ha, if_false, List.mem_cons] at hy
      rcases hy with rfl | hy
      · exact ha
      · exact ih y hy

theorem get_erase_self (d : Nat → α) (t : Tab α) (k : Nat) : Tab.get d (Tab.erase k t) k = d k := by
  induction t with
  | nil => rfl
  | cons x t ih =>
    obtain ⟨a, w⟩ := x
    by_cases ha : a = k
    · simpa [Tab.erase, ha] using ih
    · simp [Tab.erase, ha, Tab.get, ih]

theorem get_erase_other (d : Nat → α) (t : Tab α) (k j : Nat) (hj : j ≠ k) :
    Tab.get d (Tab.erase k t) j = Tab.get d t j := by
  induction t with
  | nil => rfl
  | cons x t ih =>
    obtain ⟨a, w⟩ := x
    by_cases ha : a = k
    · subst ha; simp [Tab.erase, Tab.get, Ne.symm hj, ih]
    · simp [Tab.erase, ha, Tab.get, ih]


/-- A read after a write of the same key gives the value written. -/
@[simp] theorem get_set_self [DecidableEq α] (d : Nat → α) (t : Tab α) (k : Nat) (v : α) :
    Tab.get d (Tab.set d t k v) k = v := by
  unfold Tab.set
  split
  · next h => rw [get_erase_self, h]
  · exact get_ins_self d _ k v (mem_erase t k)

/-- A write leaves every other key alone. -/
theorem get_set_other [DecidableEq α] (d : Nat → α) (t : Tab α) (k j : Nat) (v : α) (hj : j ≠ k) :
    Tab.get d (Tab.set d t k v) j = Tab.get d t j := by
  unfold Tab.set
  split
  · exact get_erase_other d t k j hj
  · rw [get_ins_other d _ k j v hj, get_erase_other d t k j hj]

theorem get_set [DecidableEq α] (d : Nat → α) (t : Tab α) (k j : Nat) (v : α) :
    Tab.get d (Tab.set d t k v) j = if j = k then v else Tab.get d t j := by
  split
  · next h => subst h; simp
  · next h => exact get_set_other d t k j v h

theorem erase_erase (t : Tab α) (k : Nat) : Tab.erase k (Tab.erase k t) = Tab.erase k t := by
  induction t with
  | nil => rfl
  | cons x t ih =>
    obtain ⟨a, w⟩ := x
    by_cases ha : a = k <;> simp [Tab.erase, ha, ih]

theorem erase_ins (t : Tab α) (k : Nat) (v : α) : Tab.erase k (Tab.ins k v t) = Tab.erase k t := by
  induction t with
  | nil => simp [Tab.ins, Tab.erase]
  | cons x t ih =>
    obtain ⟨a, w⟩ := x
    by_cases hk : k < a
    · simp [Tab.ins, hk, Tab.erase]
    · simp [Tab.ins, hk, Tab.erase, ih]

/-- Of two writes of one key the later counts. -/
theorem set_set [DecidableEq α] (d : Nat → α) (t : Tab α) (k : Nat) (v w : α) :
    Tab.set d (Tab.set d t k v) k w = Tab.set d t k w := by
  have h : Tab.erase k (Tab.set d t k v) = Tab.erase k t := by
    unfold Tab.set; split
    · exact erase_erase t k
    · rw [erase_ins, erase_erase]
  unfold Tab.set
  unfold Tab.set at h
  rw [h]

theorem rising_mono {t : Tab α} : ∀ {lo lo' : Nat}, lo' ≤ lo → Tab.rising lo t = true → Tab.rising lo' t = true := by
  cases t with
  | nil => intros; rfl
  | cons x t =>
    intro lo lo' hl h
    obtain ⟨a, w⟩ := x
    simp only [Tab.rising, Bool.and_eq_true, decide_eq_true_eq] at h ⊢
    exact ⟨by omega, h.2⟩

theorem rising_erase (t : Tab α) (k : Nat) : ∀ lo, Tab.rising lo t = true → Tab.rising lo (Tab.erase k t) = true := by
  induction t with
  | nil => intro lo h; exact h
  | cons x t ih =>
    obtain ⟨a, w⟩ := x
    intro lo h
    simp only [Tab.rising, Bool.and_eq_true, decide_eq_true_eq] at h
    by_cases ha : a = k
    · simp only [Tab.erase, ha, if_true]
      exact ih lo (rising_mono (by omega) h.2)
    · simp only [Tab.erase, ha, if_false, Tab.rising, Bool.and_eq_true, decide_eq_true_eq]
      exact ⟨h.1, ih _ h.2⟩

theorem rising_ins (t : Tab α) (k : Nat) (v : α) : ∀ lo, lo ≤ k → Tab.rising lo t = true →
    (∀ x ∈ t, x.1 ≠ k) → Tab.rising lo (Tab.ins k v t) = true := by
  induction t with
  | nil => intro lo hl _ _; simp [Tab.ins, Tab.rising, hl]
  | cons x t ih =>
    obtain ⟨a, w⟩ := x
    intro lo hl h hn
    simp only [Tab.rising, Bool.and_eq_true, decide_eq_true_eq] at h
    have ha : a ≠ k := hn (a, w) (by simp)
    by_cases hk : k < a
    · simp only [Tab.ins, hk, if_true, Tab.rising, Bool.and_eq_true, decide_eq_true_eq]
      exact ⟨hl, by omega, h.2⟩
    · simp only [Tab.ins, hk, if_false, Tab.rising, Bool.and_eq_true, decide_eq_true_eq]
      exact ⟨h.1, ih _ (by omega) h.2 (fun y hy => hn y (by simp [hy]))⟩

theorem lean_erase [DecidableEq α] (d : Nat → α) (t : Tab α) (k : Nat) (h : Tab.lean d t = true) : Tab.lean d (Tab.erase k t) = true := by
  induction t with
  | nil => exact h
  | cons x t ih =>
    obtain ⟨a, w⟩ := x
    simp only [Tab.lean, Bool.and_eq_true, decide_eq_true_eq] at h
    by_cases ha : a = k
    · simp only [Tab.erase, ha, if_true]; exact ih h.2
    · simp only [Tab.erase, ha, if_false, Tab.lean, Bool.and_eq_true, decide_eq_true_eq]
      exact ⟨h.1, ih h.2⟩

theorem lean_ins [DecidableEq α] (d : Nat → α) (t : Tab α) (k : Nat) (v : α) (hv : v ≠ d k) (h : Tab.lean d t = true) :
    Tab.lean d (Tab.ins k v t) = true := by
  induction t with
  | nil => simp [Tab.ins, Tab.lean, hv]
  | cons x t ih =>
    obtain ⟨a, w⟩ := x
    simp only [Tab.lean, Bool.and_eq_true, decide_eq_true_eq] at h
    by_cases hk : k < a
    · simp [Tab.ins, hk, Tab.lean, hv, h]
    · simp only [Tab.ins, hk, if_false, Tab.lean, Bool.and_eq_true, decide_eq_true_eq]
      exact ⟨h.1, ih h.2⟩

/-- A write keeps the canonical form. -/
theorem wf_set [DecidableEq α] (d : Nat → α) (t : Tab α) (k : Nat) (v : α) (h : Tab.wf d t = true) :
    Tab.wf d (Tab.set d t k v) = true := by
  simp only [Tab.wf, Bool.and_eq_true] at h ⊢
  unfold Tab.set
  split
  · exact ⟨rising_erase t k 0 h.1, lean_erase d t k h.2⟩
  · next hv =>
    exact ⟨rising_ins _ k v 0 (Nat.zero_le _) (rising_erase t k 0 h.1) (mem_erase t k),
      lean_ins d _ k v hv (lean_erase d t k h.2)⟩

theorem rising_keep (p : Nat → Bool) (t : Tab α) : ∀ lo, Tab.rising lo t = true → Tab.rising lo (Tab.keep p t) = true := by
  induction t with
  | nil => intro lo h; exact h
  | cons x t ih =>
    obtain ⟨a, w⟩ := x
    intro lo h
    simp only [Tab.rising, Bool.and_eq_true, decide_eq_true_eq] at h
    by_cases ha : p a = true
    · simp only [Tab.keep, ha, if_true, Tab.rising, Bool.and_eq_true, decide_eq_true_eq]
      exact ⟨h.1, ih _ h.2⟩
    · simp only [Tab.keep, ha]
      exact ih lo (rising_mono (by omega) h.2)

/-- Erasing a range keeps the canonical form. -/
theorem wf_keep [DecidableEq α] (d : Nat → α) (p : Nat → Bool) (t : Tab α) (h : Tab.wf d t = true) :
    Tab.wf d (Tab.keep p t) = true := by
  simp only [Tab.wf, Bool.and_eq_true] at h ⊢
  refine ⟨rising_keep p t 0 h.1, ?_⟩
  have h2 := h.2
  clear h
  induction t with
  | nil => rfl
  | cons x t ih =>
    obtain ⟨a, w⟩ := x
    simp only [Tab.lean, Bool.and_eq_true, decide_eq_true_eq] at h2
    by_cases ha : p a = true
    · simp only [Tab.keep, ha, if_true, Tab.lean, Bool.and_eq_true, decide_eq_true_eq]
      exact ⟨h2.1, ih h2.2⟩
    · simp only [Tab.keep, ha]; exact ih h2.2

theorem wf_setRange [DecidableEq α] (d : Nat → α) (vs : List α) : ∀ (t : Tab α) (k : Nat), Tab.wf d t = true →
    Tab.wf d (Tab.setRange d t k vs) = true := by
  induction vs with
  | nil => intro t k h; exact h
  | cons v vs ih => intro t k h; exact ih _ _ (wf_set d t k v h)

theorem wf_setAll [DecidableEq α] (d : Nat → α) (vs : List (Nat × α)) : ∀ (t : Tab α), Tab.wf d t = true →
    Tab.wf d (Tab.setAll d t vs) = true := by
  induction vs with
  | nil => intro t h; exact h
  | cons v vs ih => intro t h; exact ih _ (wf_set d t v.1 v.2 h)

theorem get_setRange [DecidableEq α] (d : Nat → α) (vs : List α) : ∀ (t : Tab α) (k j : Nat), (j < k ∨ k + vs.length ≤ j) →
    Tab.get d (Tab.setRange d t k vs) j = Tab.get d t j := by
  induction vs with
  | nil => intro t k j _; rfl
  | cons v vs ih =>
    intro t k j h
    simp only [List.length_cons] at h
    simp only [Tab.setRange]
    rw [ih _ _ _ (by omega), get_set_other _ _ _ _ _ (by omega)]

end Sys2Proof.Laws.Tab
end

