-- ==== Sys2Proof/Laws/Canonical.lean ====
section
/-! SUPPORT. Every operation over memory and the register file keeps their canonical form, and so do the operations built on them up to the
shared issue of an instruction. -/
namespace Sys2Proof.Machine
open Sys2Proof.Laws.Tab

/-- Memory and registers that are those of a canonical state are canonical. -/
theorem State.Canonical.congr {s t : State} (h : s.Canonical) (hm : t.mem = s.mem) (hr : t.regs = s.regs) : t.Canonical := by
  unfold State.Canonical; rw [hm, hr]; exact h

theorem State.reset_canonical : State.reset.Canonical := ⟨rfl, rfl⟩

/-- A fold of an operation that keeps the form keeps it. -/
theorem State.Canonical.foldl {α : Type} {f : State → α → State} (hf : ∀ t a, t.Canonical → (f t a).Canonical) :
    ∀ (l : List α) {s : State}, s.Canonical → (l.foldl f s).Canonical
  | [], _, h => h
  | a :: l, _, h => State.Canonical.foldl hf l (hf _ a h)

variable {s : State}

/-! ### Memory -/

theorem State.Canonical.wr (h : s.Canonical) (k : Nat) (bs : List Byte) : (s.wr k bs).Canonical := ⟨wf_setRange _ _ _ _ h.1, h.2⟩
theorem State.Canonical.wrLE (h : s.Canonical) (k n v : Nat) : (s.wrLE k n v).Canonical := h.wr _ _
theorem State.Canonical.zeroMem (h : s.Canonical) (k n : Nat) : (s.zeroMem k n).Canonical := ⟨wf_keep _ _ _ h.1, h.2⟩
theorem State.Canonical.swapMem (h : s.Canonical) (a b n : Nat) : (s.swapMem a b n).Canonical :=
  ⟨wf_setAll _ _ _ (wf_setAll _ _ _ (wf_keep _ _ _ (wf_keep _ _ _ h.1))), h.2⟩

/-! ### Registers -/

theorem State.Canonical.setReg (h : s.Canonical) (off : Nat) (v : W64) : (s.setReg off v).Canonical := ⟨h.1, wf_set _ _ _ _ h.2⟩
theorem State.Canonical.setRegN (h : s.Canonical) (off v : Nat) : (s.setRegN off v).Canonical := h.setReg _ _
theorem State.Canonical.setFld (h : s.Canonical) (off lo len v : Nat) : (s.setFld off lo len v).Canonical := h.setReg _ _
theorem State.Canonical.bump (h : s.Canonical) (off lo len : Nat) : (s.bump off lo len).Canonical := h.setFld _ _ _ _
theorem State.Canonical.orReg (h : s.Canonical) (off mask : Nat) : (s.orReg off mask).Canonical := by
  unfold State.orReg; split
  · exact h
  · exact h.setRegN _ _
theorem State.Canonical.resetRegs (h : s.Canonical) (lo hi : Nat) (kept : Nat → Bool) : (s.resetRegs lo hi kept).Canonical :=
  ⟨h.1, wf_keep _ _ _ h.2⟩
theorem State.Canonical.dieCount (h : s.Canonical) (i n : Nat) : (s.dieCount i n).Canonical := by
  unfold State.dieCount; split
  · exact h
  · exact h.setRegN _ _
theorem State.Canonical.pmu (h : s.Canonical) (c ev sub n : Nat) : (s.pmu c ev sub n).Canonical := by
  unfold State.pmu; split
  · exact h
  · refine State.Canonical.foldl (fun t i ht => ?_) _ h
    split
    · exact ht.setFld _ _ _ _
    · exact ht

/-! ### Cores, trace and records -/

theorem State.Canonical.setCore (h : s.Canonical) (c : Nat) (k : Core) : (s.setCore c k).Canonical := h
theorem State.Canonical.setEng (h : s.Canonical) (c e : Nat) (k : Eng) : (s.setEng c e k).Canonical := h
theorem State.Canonical.setOpe (h : s.Canonical) (c e : Nat) (x : Ope) : (s.setOpe c e x).Canonical := h
theorem State.Canonical.setTally (h : s.Canonical) (c t v : Nat) : (s.setTally c t v).Canonical := h
theorem State.Canonical.stir (h : s.Canonical) (c : Nat) : (s.stir c).Canonical := h
theorem State.Canonical.setFbuf (h : s.Canonical) (d : Nat) (b : FaultBuf) : (s.setFbuf d b).Canonical := h
theorem State.Canonical.setChan (h : s.Canonical) (c : Nat) (x : Chan) : (s.setChan c x).Canonical := h
theorem State.Canonical.setPort (h : s.Canonical) (g : Nat) (p : Port) : (s.setPort g p).Canonical := h
theorem State.Canonical.setG (h : s.Canonical) (c n : Nat) (v : W64) (p : Pend) : (s.setG c n v p).Canonical := by
  unfold State.setG; split <;> exact h
theorem State.Canonical.traceAdd (h : s.Canonical) (u : W32) (k : Nat) (a b : W64) : (s.traceAdd u k a b).Canonical := by
  unfold State.traceAdd; dsimp only; split
  · exact h
  · split <;> exact h
theorem State.Canonical.traceIssue (h : s.Canonical) (c e pc : Nat) : (s.traceIssue c e pc).Canonical := by
  unfold State.traceIssue; split
  · exact h.traceAdd _ _ _ _
  · exact h
theorem State.Canonical.traceTally (h : s.Canonical) (c t v : Nat) (amt : Int) : (s.traceTally c t v amt).Canonical := by
  unfold State.traceTally; split
  · exact h.traceAdd _ _ _ _
  · exact h
theorem State.Canonical.tracePeg (h : s.Canonical) (p cls : Nat) (w : W64) : (s.tracePeg p cls w).Canonical := by
  unfold State.tracePeg; dsimp only; split
  · exact (h.dieCount _ _).traceAdd _ _ _ _
  · exact h.dieCount _ _
theorem State.Canonical.logEntry (h : s.Canonical) (e : LogEntry) : (s.logEntry e).Canonical := by
  unfold State.logEntry; split
  · exact h
  · split <;> exact h
theorem State.Canonical.note (h : s.Canonical) (detail fault : Nat) (u : W32) (d0 d1 : Nat) : (s.note detail fault u d0 d1).Canonical :=
  h.logEntry _
theorem State.Canonical.entered (h : s.Canonical) (r : FaultRec) : (s.entered r).Canonical := by
  unfold State.entered; dsimp only
  have ht : ∀ a : W64, (s.traceAdd r.unit 7 a 0).Canonical := fun a => h.traceAdd _ _ _ _
  split <;> split
  · exact ht _
  · exact ht _
  · exact h
  · exact h
theorem State.Canonical.bufferRecord (h : s.Canonical) (d : Nat) (r : FaultRec) : (s.bufferRecord d r).Canonical := by
  have enter : ∀ t : State, t.Canonical → (if d = 0 then t.entered r else t).Canonical := by
    intro t ht; split
    · exact ht.entered r
    · exact ht
  unfold State.bufferRecord; dsimp only
  split
  · exact enter _ h
  · split
    · exact h
    · split
      · exact h
      · exact enter _ h
theorem State.Canonical.recordFor (h : s.Canonical) (job : Option (Nat × Nat)) (die code kind : Nat) (u : W32) (d0 d1 d2 d3 : Nat) :
    (s.recordFor job die code kind u d0 d1 d2 d3).Canonical := by
  unfold State.recordFor; split
  · exact State.Canonical.bufferRecord (s := s.setFbuf die _) h _ _
  · exact h.note _ _ _ _ _
theorem State.Canonical.record (h : s.Canonical) (die code kind : Nat) (u : W32) (d0 d1 d2 d3 : Nat) :
    (s.record die code kind u d0 d1 d2 d3).Canonical := h.recordFor _ _ _ _ _ _ _ _ _
theorem State.Canonical.event (h : s.Canonical) (die code : Nat) (u : W32) : (s.event die code u).Canonical := h.record _ _ _ _ _ _ _ _
theorem State.Canonical.recordLimited (h : s.Canonical) (die code : Nat) (u : W32) (d0 d1 d2 d3 : Nat) :
    (s.recordLimited die code u d0 d1 d2 d3).Canonical := by
  unfold State.recordLimited; dsimp only; split
  · exact h
  · refine State.Canonical.record ?_ _ _ _ _ _ _ _ _
    exact h
theorem State.Canonical.attempt (h : s.Canonical) (die code field : Nat) (u : W32) : (s.attempt die code field u).Canonical :=
  (h.bump _ _ _).recordLimited _ _ _ _ _ _ _
theorem State.Canonical.unmapped (h : s.Canonical) (off : Nat) : (s.unmapped off).Canonical := h.event _ _ _

/-! ### Faults, tallies, signals and issue -/

theorem State.Canonical.endWait (h : s.Canonical) (c e : Nat) : (s.endWait c e).Canonical := h
theorem State.Canonical.catchCore (h : s.Canonical) (c e : Nat) : (s.catchCore c e).Canonical := by
  unfold State.catchCore; split
  · refine State.Canonical.foldl (fun t x ht => ?_) _ h
    split <;> exact ht
  · exact h
theorem State.Canonical.precise (h : s.Canonical) (c e code x d2 d3 : Nat) : (s.precise c e code x d2 d3).Canonical := by
  unfold State.precise; dsimp only
  refine State.Canonical.catchCore (State.Canonical.setEng (State.Canonical.endWait ?_ _ _) _ _ _) _ _
  split
  · exact State.Canonical.congr (h.record _ _ _ _ _ _ _ _) rfl rfl
  · exact h.record _ _ _ _ _ _ _ _
theorem State.Canonical.late (h : s.Canonical) (c e pc code x d2 d3 : Nat) : (s.late c e pc code x d2 d3).Canonical := by
  unfold State.late; dsimp only
  exact State.Canonical.catchCore (State.Canonical.setEng (h.record _ _ _ _ _ _ _ _) _ _ _) _ _
theorem State.Canonical.tallyOp (h : s.Canonical) (c e pc t : Nat) (amt : Int) : (s.tallyOp c e pc t amt).Canonical := by
  unfold State.tallyOp; dsimp only; split
  · exact h.late _ _ _ _ _ _ _
  · split
    · exact h.late _ _ _ _ _ _ _
    · exact (h.setTally _ _ _).traceTally _ _ _ _
theorem State.Canonical.applyOp (h : s.Canonical) (c : Nat) (o : TallyOp) : (s.applyOp c o).Canonical := by
  unfold State.applyOp; split
  · exact (h.setTally _ _ _).traceTally _ _ _ _
  · exact h.setTally _ _ _
  · exact h.tallyOp _ _ _ _ _
theorem State.Canonical.applyOps (h : s.Canonical) (c : Nat) : (s.applyOps c).Canonical :=
  State.Canonical.foldl (fun _ o ht => ht.applyOp c o) _ (h.setCore _ _)
theorem State.Canonical.postOp (h : s.Canonical) (c : Nat) (o : TallyOp) : (s.postOp c o).Canonical := h
theorem State.Canonical.signals (h : s.Canonical) (c e pc : Nat) (point : Bool) (f0 f1 : BitVec 16) : (s.signals c e pc point f0 f1).Canonical := by
  have one : ∀ {t : State} (f : BitVec 16), t.Canonical → (t.signal c e pc point f).Canonical := by
    intro t f ht; unfold State.signal; split <;> exact ht
  exact one f1 (one f0 h)
theorem State.Canonical.takeWaits (h : s.Canonical) (c e : Nat) (w : EngW) : (s.takeWaits c e w).Canonical := by
  have one : ∀ {t : State} (f : BitVec 24), t.Canonical → (t.waitTakeOne c e f).Canonical := by
    intro t f ht; unfold State.waitTakeOne; split <;> exact ht
  exact State.Canonical.endWait (one w.wait1 (one w.wait0 h)) _ _
theorem State.Canonical.finish (h : s.Canonical) (c e pc : Nat) (f0 f1 : BitVec 16) (target : Option Nat) (left : Option Issued) :
    (s.finish c e pc f0 f1 target left).Canonical := by
  unfold State.finish; dsimp only
  have go := State.Canonical.signals (State.Canonical.pmu (State.Canonical.traceIssue
    (State.Canonical.setCore h c ((s.core c).afterIssue e target left)) c e pc) c 2 e 1) c e pc false f0 f1
  cases left with
  | none => exact State.Canonical.signals go _ _ _ _ _ _
  | some i => exact go

/-- An engine instruction whose own part keeps the form keeps it. -/
theorem State.Canonical.issue {c e opc : Nat} {w : EngW} {own : Bool} {body : State → IssueRes} {u : State} (h : s.Canonical)
    (hb : ∀ t target left, body s = .go t target left → t.Canonical) (hu : s.issue c e opc w own body = .next u) : u.Canonical := by
  unfold State.issue at hu
  split at hu
  · cases hu; exact h
  · cases hu; exact h.setEng _ _ _
  · cases hu; exact h.precise _ _ _ _ _ _
  · split at hu
    · cases hu; exact h.precise _ _ _ _ _ _
    · split at hu
      · cases hu; exact h.setEng _ _ _
      · split at hu
        · cases hu; exact h.setEng _ _ _
        · cases hu; exact h.precise _ _ _ _ _ _
        · rename_i t target left ht
          cases hu
          exact ((hb t target left ht).takeWaits _ _ _).finish _ _ _ _ _ _ _

/-- A write that passes or is refused by the guard keeps the form where its own effect does. -/
theorem State.Canonical.guard {path : Path} {off : Nat} {t : State} (h : s.Canonical) (ht : s.guard path off = some t) : t.Canonical := by
  cases path <;> simp only [State.guard] at ht
  all_goals
    repeat' split at ht
    all_goals first
      | (cases ht; exact h)
      | (cases ht; exact h.attempt _ _ _ _)
      | (cases ht; exact h.note _ _ _ _ _)
      | (cases ht; exact h.unmapped _)
      | cases ht

theorem State.Canonical.accessed (h : s.Canonical) (path : Path) : (s.accessed path).Canonical := by
  unfold State.accessed; split <;> exact h

theorem State.Canonical.guarded {path : Path} {off : Nat} {f : State → State} {u : State} (h : s.Canonical)
    (hf : (f (s.accessed path)).Canonical) (hu : s.guarded path off f = .next u) : u.Canonical := by
  unfold State.guarded at hu; dsimp only at hu
  split at hu
  · rename_i t ht; cases hu; exact (h.accessed path).guard ht
  · cases hu; exact hf

end Sys2Proof.Machine
end

