-- ==== Sys2Proof/Laws/State.lean ====
section
/-! SUPPORT. One lemma per field per update of the state. -/
namespace Sys2Proof.Machine

variable (s : State)

@[simp] theorem State.wr_pending (k : Nat) (bs : List Byte) : (s.wr k bs).pending = s.pending := rfl
@[simp] theorem State.wr_ns (k : Nat) (bs : List Byte) : (s.wr k bs).ns = s.ns := rfl
@[simp] theorem State.wr_half (k : Nat) (bs : List Byte) : (s.wr k bs).half = s.half := rfl
@[simp] theorem State.wr_time (k : Nat) (bs : List Byte) : (s.wr k bs).time = s.time := rfl
@[simp] theorem State.wr_regs (k : Nat) (bs : List Byte) : (s.wr k bs).regs = s.regs := rfl
@[simp] theorem State.wr_cores (k : Nat) (bs : List Byte) : (s.wr k bs).cores = s.cores := rfl
@[simp] theorem State.wr_tlb (k : Nat) (bs : List Byte) : (s.wr k bs).tlb = s.tlb := rfl
@[simp] theorem State.wr_sealed (k : Nat) (bs : List Byte) : (s.wr k bs).sealed = s.sealed := rfl
@[simp] theorem State.wr_keys (k : Nat) (bs : List Byte) : (s.wr k bs).keys = s.keys := rfl
@[simp] theorem State.wr_cellars (k : Nat) (bs : List Byte) : (s.wr k bs).cellars = s.cellars := rfl
@[simp] theorem State.wr_reqs (k : Nat) (bs : List Byte) : (s.wr k bs).reqs = s.reqs := rfl
@[simp] theorem State.wr_inreqs (k : Nat) (bs : List Byte) : (s.wr k bs).inreqs = s.inreqs := rfl
@[simp] theorem State.wr_ports (k : Nat) (bs : List Byte) : (s.wr k bs).ports = s.ports := rfl
@[simp] theorem State.wr_inbox (k : Nat) (bs : List Byte) : (s.wr k bs).inbox = s.inbox := rfl
@[simp] theorem State.wr_chans (k : Nat) (bs : List Byte) : (s.wr k bs).chans = s.chans := rfl
@[simp] theorem State.wr_linkMap (k : Nat) (bs : List Byte) : (s.wr k bs).linkMap = s.linkMap := rfl
@[simp] theorem State.wr_lsSeen (k : Nat) (bs : List Byte) : (s.wr k bs).lsSeen = s.lsSeen := rfl
@[simp] theorem State.wr_conns (k : Nat) (bs : List Byte) : (s.wr k bs).conns = s.conns := rfl
@[simp] theorem State.wr_taken (k : Nat) (bs : List Byte) : (s.wr k bs).taken = s.taken := rfl
@[simp] theorem State.wr_pairOut (k : Nat) (bs : List Byte) : (s.wr k bs).pairOut = s.pairOut := rfl
@[simp] theorem State.wr_pairIn (k : Nat) (bs : List Byte) : (s.wr k bs).pairIn = s.pairIn := rfl
@[simp] theorem State.wr_tim (k : Nat) (bs : List Byte) : (s.wr k bs).tim = s.tim := rfl
@[simp] theorem State.wr_pegs (k : Nat) (bs : List Byte) : (s.wr k bs).pegs = s.pegs := rfl
@[simp] theorem State.wr_fbufs (k : Nat) (bs : List Byte) : (s.wr k bs).fbufs = s.fbufs := rfl
@[simp] theorem State.wr_jobs (k : Nat) (bs : List Byte) : (s.wr k bs).jobs = s.jobs := rfl
@[simp] theorem State.wr_sup (k : Nat) (bs : List Byte) : (s.wr k bs).sup = s.sup := rfl
@[simp] theorem State.wr_coreDone (k : Nat) (bs : List Byte) : (s.wr k bs).coreDone = s.coreDone := rfl
@[simp] theorem State.wr_stopped (k : Nat) (bs : List Byte) : (s.wr k bs).stopped = s.stopped := rfl
@[simp] theorem State.wr_busMaster (k : Nat) (bs : List Byte) : (s.wr k bs).busMaster = s.busMaster := rfl
@[simp] theorem State.wr_notices (k : Nat) (bs : List Byte) : (s.wr k bs).notices = s.notices := rfl
@[simp] theorem State.wr_latch (k : Nat) (bs : List Byte) : (s.wr k bs).latch = s.latch := rfl
@[simp] theorem State.wr_bu (k : Nat) (bs : List Byte) : (s.wr k bs).bu = s.bu := rfl
@[simp] theorem State.wr_recov (k : Nat) (bs : List Byte) : (s.wr k bs).recov = s.recov := rfl
@[simp] theorem State.wr_recq (k : Nat) (bs : List Byte) : (s.wr k bs).recq = s.recq := rfl
@[simp] theorem State.wr_caughtRecs (k : Nat) (bs : List Byte) : (s.wr k bs).caughtRecs = s.caughtRecs := rfl
@[simp] theorem State.wr_missed (k : Nat) (bs : List Byte) : (s.wr k bs).missed = s.missed := rfl
@[simp] theorem State.wr_rst (k : Nat) (bs : List Byte) : (s.wr k bs).rst = s.rst := rfl
@[simp] theorem State.wr_guyOpen (k : Nat) (bs : List Byte) : (s.wr k bs).guyOpen = s.guyOpen := rfl
@[simp] theorem State.wr_beat (k : Nat) (bs : List Byte) : (s.wr k bs).beat = s.beat := rfl
@[simp] theorem State.wr_quote (k : Nat) (bs : List Byte) : (s.wr k bs).quote = s.quote := rfl
@[simp] theorem State.wr_trace (k : Nat) (bs : List Byte) : (s.wr k bs).trace = s.trace := rfl
@[simp] theorem State.wr_tap (k : Nat) (bs : List Byte) : (s.wr k bs).tap = s.tap := rfl
@[simp] theorem State.wr_pins (k : Nat) (bs : List Byte) : (s.wr k bs).pins = s.pins := rfl
@[simp] theorem State.wr_cap (k : Nat) (bs : List Byte) : (s.wr k bs).cap = s.cap := rfl
@[simp] theorem State.wr_spares (k : Nat) (bs : List Byte) : (s.wr k bs).spares = s.spares := rfl
@[simp] theorem State.wr_fusedSvn (k : Nat) (bs : List Byte) : (s.wr k bs).fusedSvn = s.fusedSvn := rfl
@[simp] theorem State.wr_revoked (k : Nat) (bs : List Byte) : (s.wr k bs).revoked = s.revoked := rfl
@[simp] theorem State.wr_reply (k : Nat) (bs : List Byte) : (s.wr k bs).reply = s.reply := rfl
@[simp] theorem State.wr_lastRec (k : Nat) (bs : List Byte) : (s.wr k bs).lastRec = s.lastRec := rfl
@[simp] theorem State.wr_free (k : Nat) (bs : List Byte) : (s.wr k bs).free = s.free := rfl

@[simp] theorem State.zeroMem_pending (k n : Nat) : (s.zeroMem k n).pending = s.pending := rfl
@[simp] theorem State.zeroMem_ns (k n : Nat) : (s.zeroMem k n).ns = s.ns := rfl
@[simp] theorem State.zeroMem_half (k n : Nat) : (s.zeroMem k n).half = s.half := rfl
@[simp] theorem State.zeroMem_time (k n : Nat) : (s.zeroMem k n).time = s.time := rfl
@[simp] theorem State.zeroMem_regs (k n : Nat) : (s.zeroMem k n).regs = s.regs := rfl
@[simp] theorem State.zeroMem_cores (k n : Nat) : (s.zeroMem k n).cores = s.cores := rfl
@[simp] theorem State.zeroMem_tlb (k n : Nat) : (s.zeroMem k n).tlb = s.tlb := rfl
@[simp] theorem State.zeroMem_sealed (k n : Nat) : (s.zeroMem k n).sealed = s.sealed := rfl
@[simp] theorem State.zeroMem_keys (k n : Nat) : (s.zeroMem k n).keys = s.keys := rfl
@[simp] theorem State.zeroMem_cellars (k n : Nat) : (s.zeroMem k n).cellars = s.cellars := rfl
@[simp] theorem State.zeroMem_reqs (k n : Nat) : (s.zeroMem k n).reqs = s.reqs := rfl
@[simp] theorem State.zeroMem_inreqs (k n : Nat) : (s.zeroMem k n).inreqs = s.inreqs := rfl
@[simp] theorem State.zeroMem_ports (k n : Nat) : (s.zeroMem k n).ports = s.ports := rfl
@[simp] theorem State.zeroMem_inbox (k n : Nat) : (s.zeroMem k n).inbox = s.inbox := rfl
@[simp] theorem State.zeroMem_chans (k n : Nat) : (s.zeroMem k n).chans = s.chans := rfl
@[simp] theorem State.zeroMem_linkMap (k n : Nat) : (s.zeroMem k n).linkMap = s.linkMap := rfl
@[simp] theorem State.zeroMem_lsSeen (k n : Nat) : (s.zeroMem k n).lsSeen = s.lsSeen := rfl
@[simp] theorem State.zeroMem_conns (k n : Nat) : (s.zeroMem k n).conns = s.conns := rfl
@[simp] theorem State.zeroMem_taken (k n : Nat) : (s.zeroMem k n).taken = s.taken := rfl
@[simp] theorem State.zeroMem_pairOut (k n : Nat) : (s.zeroMem k n).pairOut = s.pairOut := rfl
@[simp] theorem State.zeroMem_pairIn (k n : Nat) : (s.zeroMem k n).pairIn = s.pairIn := rfl
@[simp] theorem State.zeroMem_tim (k n : Nat) : (s.zeroMem k n).tim = s.tim := rfl
@[simp] theorem State.zeroMem_pegs (k n : Nat) : (s.zeroMem k n).pegs = s.pegs := rfl
@[simp] theorem State.zeroMem_fbufs (k n : Nat) : (s.zeroMem k n).fbufs = s.fbufs := rfl
@[simp] theorem State.zeroMem_jobs (k n : Nat) : (s.zeroMem k n).jobs = s.jobs := rfl
@[simp] theorem State.zeroMem_sup (k n : Nat) : (s.zeroMem k n).sup = s.sup := rfl
@[simp] theorem State.zeroMem_coreDone (k n : Nat) : (s.zeroMem k n).coreDone = s.coreDone := rfl
@[simp] theorem State.zeroMem_stopped (k n : Nat) : (s.zeroMem k n).stopped = s.stopped := rfl
@[simp] theorem State.zeroMem_busMaster (k n : Nat) : (s.zeroMem k n).busMaster = s.busMaster := rfl
@[simp] theorem State.zeroMem_notices (k n : Nat) : (s.zeroMem k n).notices = s.notices := rfl
@[simp] theorem State.zeroMem_latch (k n : Nat) : (s.zeroMem k n).latch = s.latch := rfl
@[simp] theorem State.zeroMem_bu (k n : Nat) : (s.zeroMem k n).bu = s.bu := rfl
@[simp] theorem State.zeroMem_recov (k n : Nat) : (s.zeroMem k n).recov = s.recov := rfl
@[simp] theorem State.zeroMem_recq (k n : Nat) : (s.zeroMem k n).recq = s.recq := rfl
@[simp] theorem State.zeroMem_caughtRecs (k n : Nat) : (s.zeroMem k n).caughtRecs = s.caughtRecs := rfl
@[simp] theorem State.zeroMem_missed (k n : Nat) : (s.zeroMem k n).missed = s.missed := rfl
@[simp] theorem State.zeroMem_rst (k n : Nat) : (s.zeroMem k n).rst = s.rst := rfl
@[simp] theorem State.zeroMem_guyOpen (k n : Nat) : (s.zeroMem k n).guyOpen = s.guyOpen := rfl
@[simp] theorem State.zeroMem_beat (k n : Nat) : (s.zeroMem k n).beat = s.beat := rfl
@[simp] theorem State.zeroMem_quote (k n : Nat) : (s.zeroMem k n).quote = s.quote := rfl
@[simp] theorem State.zeroMem_trace (k n : Nat) : (s.zeroMem k n).trace = s.trace := rfl
@[simp] theorem State.zeroMem_tap (k n : Nat) : (s.zeroMem k n).tap = s.tap := rfl
@[simp] theorem State.zeroMem_pins (k n : Nat) : (s.zeroMem k n).pins = s.pins := rfl
@[simp] theorem State.zeroMem_cap (k n : Nat) : (s.zeroMem k n).cap = s.cap := rfl
@[simp] theorem State.zeroMem_spares (k n : Nat) : (s.zeroMem k n).spares = s.spares := rfl
@[simp] theorem State.zeroMem_fusedSvn (k n : Nat) : (s.zeroMem k n).fusedSvn = s.fusedSvn := rfl
@[simp] theorem State.zeroMem_revoked (k n : Nat) : (s.zeroMem k n).revoked = s.revoked := rfl
@[simp] theorem State.zeroMem_reply (k n : Nat) : (s.zeroMem k n).reply = s.reply := rfl
@[simp] theorem State.zeroMem_lastRec (k n : Nat) : (s.zeroMem k n).lastRec = s.lastRec := rfl
@[simp] theorem State.zeroMem_free (k n : Nat) : (s.zeroMem k n).free = s.free := rfl

@[simp] theorem State.setReg_pending (off : Nat) (v : W64) : (s.setReg off v).pending = s.pending := rfl
@[simp] theorem State.setReg_ns (off : Nat) (v : W64) : (s.setReg off v).ns = s.ns := rfl
@[simp] theorem State.setReg_half (off : Nat) (v : W64) : (s.setReg off v).half = s.half := rfl
@[simp] theorem State.setReg_time (off : Nat) (v : W64) : (s.setReg off v).time = s.time := rfl
@[simp] theorem State.setReg_cores (off : Nat) (v : W64) : (s.setReg off v).cores = s.cores := rfl
@[simp] theorem State.setReg_mem (off : Nat) (v : W64) : (s.setReg off v).mem = s.mem := rfl
@[simp] theorem State.setReg_tlb (off : Nat) (v : W64) : (s.setReg off v).tlb = s.tlb := rfl
@[simp] theorem State.setReg_sealed (off : Nat) (v : W64) : (s.setReg off v).sealed = s.sealed := rfl
@[simp] theorem State.setReg_keys (off : Nat) (v : W64) : (s.setReg off v).keys = s.keys := rfl
@[simp] theorem State.setReg_cellars (off : Nat) (v : W64) : (s.setReg off v).cellars = s.cellars := rfl
@[simp] theorem State.setReg_reqs (off : Nat) (v : W64) : (s.setReg off v).reqs = s.reqs := rfl
@[simp] theorem State.setReg_inreqs (off : Nat) (v : W64) : (s.setReg off v).inreqs = s.inreqs := rfl
@[simp] theorem State.setReg_ports (off : Nat) (v : W64) : (s.setReg off v).ports = s.ports := rfl
@[simp] theorem State.setReg_inbox (off : Nat) (v : W64) : (s.setReg off v).inbox = s.inbox := rfl
@[simp] theorem State.setReg_chans (off : Nat) (v : W64) : (s.setReg off v).chans = s.chans := rfl
@[simp] theorem State.setReg_linkMap (off : Nat) (v : W64) : (s.setReg off v).linkMap = s.linkMap := rfl
@[simp] theorem State.setReg_lsSeen (off : Nat) (v : W64) : (s.setReg off v).lsSeen = s.lsSeen := rfl
@[simp] theorem State.setReg_conns (off : Nat) (v : W64) : (s.setReg off v).conns = s.conns := rfl
@[simp] theorem State.setReg_taken (off : Nat) (v : W64) : (s.setReg off v).taken = s.taken := rfl
@[simp] theorem State.setReg_pairOut (off : Nat) (v : W64) : (s.setReg off v).pairOut = s.pairOut := rfl
@[simp] theorem State.setReg_pairIn (off : Nat) (v : W64) : (s.setReg off v).pairIn = s.pairIn := rfl
@[simp] theorem State.setReg_tim (off : Nat) (v : W64) : (s.setReg off v).tim = s.tim := rfl
@[simp] theorem State.setReg_pegs (off : Nat) (v : W64) : (s.setReg off v).pegs = s.pegs := rfl
@[simp] theorem State.setReg_fbufs (off : Nat) (v : W64) : (s.setReg off v).fbufs = s.fbufs := rfl
@[simp] theorem State.setReg_jobs (off : Nat) (v : W64) : (s.setReg off v).jobs = s.jobs := rfl
@[simp] theorem State.setReg_sup (off : Nat) (v : W64) : (s.setReg off v).sup = s.sup := rfl
@[simp] theorem State.setReg_coreDone (off : Nat) (v : W64) : (s.setReg off v).coreDone = s.coreDone := rfl
@[simp] theorem State.setReg_stopped (off : Nat) (v : W64) : (s.setReg off v).stopped = s.stopped := rfl
@[simp] theorem State.setReg_busMaster (off : Nat) (v : W64) : (s.setReg off v).busMaster = s.busMaster := rfl
@[simp] theorem State.setReg_notices (off : Nat) (v : W64) : (s.setReg off v).notices = s.notices := rfl
@[simp] theorem State.setReg_latch (off : Nat) (v : W64) : (s.setReg off v).latch = s.latch := rfl
@[simp] theorem State.setReg_bu (off : Nat) (v : W64) : (s.setReg off v).bu = s.bu := rfl
@[simp] theorem State.setReg_recov (off : Nat) (v : W64) : (s.setReg off v).recov = s.recov := rfl
@[simp] theorem State.setReg_recq (off : Nat) (v : W64) : (s.setReg off v).recq = s.recq := rfl
@[simp] theorem State.setReg_caughtRecs (off : Nat) (v : W64) : (s.setReg off v).caughtRecs = s.caughtRecs := rfl
@[simp] theorem State.setReg_missed (off : Nat) (v : W64) : (s.setReg off v).missed = s.missed := rfl
@[simp] theorem State.setReg_rst (off : Nat) (v : W64) : (s.setReg off v).rst = s.rst := rfl
@[simp] theorem State.setReg_guyOpen (off : Nat) (v : W64) : (s.setReg off v).guyOpen = s.guyOpen := rfl
@[simp] theorem State.setReg_beat (off : Nat) (v : W64) : (s.setReg off v).beat = s.beat := rfl
@[simp] theorem State.setReg_quote (off : Nat) (v : W64) : (s.setReg off v).quote = s.quote := rfl
@[simp] theorem State.setReg_trace (off : Nat) (v : W64) : (s.setReg off v).trace = s.trace := rfl
@[simp] theorem State.setReg_tap (off : Nat) (v : W64) : (s.setReg off v).tap = s.tap := rfl
@[simp] theorem State.setReg_pins (off : Nat) (v : W64) : (s.setReg off v).pins = s.pins := rfl
@[simp] theorem State.setReg_cap (off : Nat) (v : W64) : (s.setReg off v).cap = s.cap := rfl
@[simp] theorem State.setReg_spares (off : Nat) (v : W64) : (s.setReg off v).spares = s.spares := rfl
@[simp] theorem State.setReg_fusedSvn (off : Nat) (v : W64) : (s.setReg off v).fusedSvn = s.fusedSvn := rfl
@[simp] theorem State.setReg_revoked (off : Nat) (v : W64) : (s.setReg off v).revoked = s.revoked := rfl
@[simp] theorem State.setReg_reply (off : Nat) (v : W64) : (s.setReg off v).reply = s.reply := rfl
@[simp] theorem State.setReg_lastRec (off : Nat) (v : W64) : (s.setReg off v).lastRec = s.lastRec := rfl
@[simp] theorem State.setReg_free (off : Nat) (v : W64) : (s.setReg off v).free = s.free := rfl

@[simp] theorem State.setRegN_pending (off v : Nat) : (s.setRegN off v).pending = s.pending := rfl
@[simp] theorem State.setRegN_ns (off v : Nat) : (s.setRegN off v).ns = s.ns := rfl
@[simp] theorem State.setRegN_half (off v : Nat) : (s.setRegN off v).half = s.half := rfl
@[simp] theorem State.setRegN_time (off v : Nat) : (s.setRegN off v).time = s.time := rfl
@[simp] theorem State.setRegN_cores (off v : Nat) : (s.setRegN off v).cores = s.cores := rfl
@[simp] theorem State.setRegN_mem (off v : Nat) : (s.setRegN off v).mem = s.mem := rfl
@[simp] theorem State.setRegN_tlb (off v : Nat) : (s.setRegN off v).tlb = s.tlb := rfl
@[simp] theorem State.setRegN_sealed (off v : Nat) : (s.setRegN off v).sealed = s.sealed := rfl
@[simp] theorem State.setRegN_keys (off v : Nat) : (s.setRegN off v).keys = s.keys := rfl
@[simp] theorem State.setRegN_cellars (off v : Nat) : (s.setRegN off v).cellars = s.cellars := rfl
@[simp] theorem State.setRegN_reqs (off v : Nat) : (s.setRegN off v).reqs = s.reqs := rfl
@[simp] theorem State.setRegN_inreqs (off v : Nat) : (s.setRegN off v).inreqs = s.inreqs := rfl
@[simp] theorem State.setRegN_ports (off v : Nat) : (s.setRegN off v).ports = s.ports := rfl
@[simp] theorem State.setRegN_inbox (off v : Nat) : (s.setRegN off v).inbox = s.inbox := rfl
@[simp] theorem State.setRegN_chans (off v : Nat) : (s.setRegN off v).chans = s.chans := rfl
@[simp] theorem State.setRegN_linkMap (off v : Nat) : (s.setRegN off v).linkMap = s.linkMap := rfl
@[simp] theorem State.setRegN_lsSeen (off v : Nat) : (s.setRegN off v).lsSeen = s.lsSeen := rfl
@[simp] theorem State.setRegN_conns (off v : Nat) : (s.setRegN off v).conns = s.conns := rfl
@[simp] theorem State.setRegN_taken (off v : Nat) : (s.setRegN off v).taken = s.taken := rfl
@[simp] theorem State.setRegN_pairOut (off v : Nat) : (s.setRegN off v).pairOut = s.pairOut := rfl
@[simp] theorem State.setRegN_pairIn (off v : Nat) : (s.setRegN off v).pairIn = s.pairIn := rfl
@[simp] theorem State.setRegN_tim (off v : Nat) : (s.setRegN off v).tim = s.tim := rfl
@[simp] theorem State.setRegN_pegs (off v : Nat) : (s.setRegN off v).pegs = s.pegs := rfl
@[simp] theorem State.setRegN_fbufs (off v : Nat) : (s.setRegN off v).fbufs = s.fbufs := rfl
@[simp] theorem State.setRegN_jobs (off v : Nat) : (s.setRegN off v).jobs = s.jobs := rfl
@[simp] theorem State.setRegN_sup (off v : Nat) : (s.setRegN off v).sup = s.sup := rfl
@[simp] theorem State.setRegN_coreDone (off v : Nat) : (s.setRegN off v).coreDone = s.coreDone := rfl
@[simp] theorem State.setRegN_stopped (off v : Nat) : (s.setRegN off v).stopped = s.stopped := rfl
@[simp] theorem State.setRegN_busMaster (off v : Nat) : (s.setRegN off v).busMaster = s.busMaster := rfl
@[simp] theorem State.setRegN_notices (off v : Nat) : (s.setRegN off v).notices = s.notices := rfl
@[simp] theorem State.setRegN_latch (off v : Nat) : (s.setRegN off v).latch = s.latch := rfl
@[simp] theorem State.setRegN_bu (off v : Nat) : (s.setRegN off v).bu = s.bu := rfl
@[simp] theorem State.setRegN_recov (off v : Nat) : (s.setRegN off v).recov = s.recov := rfl
@[simp] theorem State.setRegN_recq (off v : Nat) : (s.setRegN off v).recq = s.recq := rfl
@[simp] theorem State.setRegN_caughtRecs (off v : Nat) : (s.setRegN off v).caughtRecs = s.caughtRecs := rfl
@[simp] theorem State.setRegN_missed (off v : Nat) : (s.setRegN off v).missed = s.missed := rfl
@[simp] theorem State.setRegN_rst (off v : Nat) : (s.setRegN off v).rst = s.rst := rfl
@[simp] theorem State.setRegN_guyOpen (off v : Nat) : (s.setRegN off v).guyOpen = s.guyOpen := rfl
@[simp] theorem State.setRegN_beat (off v : Nat) : (s.setRegN off v).beat = s.beat := rfl
@[simp] theorem State.setRegN_quote (off v : Nat) : (s.setRegN off v).quote = s.quote := rfl
@[simp] theorem State.setRegN_trace (off v : Nat) : (s.setRegN off v).trace = s.trace := rfl
@[simp] theorem State.setRegN_tap (off v : Nat) : (s.setRegN off v).tap = s.tap := rfl
@[simp] theorem State.setRegN_pins (off v : Nat) : (s.setRegN off v).pins = s.pins := rfl
@[simp] theorem State.setRegN_cap (off v : Nat) : (s.setRegN off v).cap = s.cap := rfl
@[simp] theorem State.setRegN_spares (off v : Nat) : (s.setRegN off v).spares = s.spares := rfl
@[simp] theorem State.setRegN_fusedSvn (off v : Nat) : (s.setRegN off v).fusedSvn = s.fusedSvn := rfl
@[simp] theorem State.setRegN_revoked (off v : Nat) : (s.setRegN off v).revoked = s.revoked := rfl
@[simp] theorem State.setRegN_reply (off v : Nat) : (s.setRegN off v).reply = s.reply := rfl
@[simp] theorem State.setRegN_lastRec (off v : Nat) : (s.setRegN off v).lastRec = s.lastRec := rfl
@[simp] theorem State.setRegN_free (off v : Nat) : (s.setRegN off v).free = s.free := rfl

@[simp] theorem State.setFld_pending (off lo len v : Nat) : (s.setFld off lo len v).pending = s.pending := rfl
@[simp] theorem State.setFld_ns (off lo len v : Nat) : (s.setFld off lo len v).ns = s.ns := rfl
@[simp] theorem State.setFld_half (off lo len v : Nat) : (s.setFld off lo len v).half = s.half := rfl
@[simp] theorem State.setFld_time (off lo len v : Nat) : (s.setFld off lo len v).time = s.time := rfl
@[simp] theorem State.setFld_cores (off lo len v : Nat) : (s.setFld off lo len v).cores = s.cores := rfl
@[simp] theorem State.setFld_mem (off lo len v : Nat) : (s.setFld off lo len v).mem = s.mem := rfl
@[simp] theorem State.setFld_tlb (off lo len v : Nat) : (s.setFld off lo len v).tlb = s.tlb := rfl
@[simp] theorem State.setFld_sealed (off lo len v : Nat) : (s.setFld off lo len v).sealed = s.sealed := rfl
@[simp] theorem State.setFld_keys (off lo len v : Nat) : (s.setFld off lo len v).keys = s.keys := rfl
@[simp] theorem State.setFld_cellars (off lo len v : Nat) : (s.setFld off lo len v).cellars = s.cellars := rfl
@[simp] theorem State.setFld_reqs (off lo len v : Nat) : (s.setFld off lo len v).reqs = s.reqs := rfl
@[simp] theorem State.setFld_inreqs (off lo len v : Nat) : (s.setFld off lo len v).inreqs = s.inreqs := rfl
@[simp] theorem State.setFld_ports (off lo len v : Nat) : (s.setFld off lo len v).ports = s.ports := rfl
@[simp] theorem State.setFld_inbox (off lo len v : Nat) : (s.setFld off lo len v).inbox = s.inbox := rfl
@[simp] theorem State.setFld_chans (off lo len v : Nat) : (s.setFld off lo len v).chans = s.chans := rfl
@[simp] theorem State.setFld_linkMap (off lo len v : Nat) : (s.setFld off lo len v).linkMap = s.linkMap := rfl
@[simp] theorem State.setFld_lsSeen (off lo len v : Nat) : (s.setFld off lo len v).lsSeen = s.lsSeen := rfl
@[simp] theorem State.setFld_conns (off lo len v : Nat) : (s.setFld off lo len v).conns = s.conns := rfl
@[simp] theorem State.setFld_taken (off lo len v : Nat) : (s.setFld off lo len v).taken = s.taken := rfl
@[simp] theorem State.setFld_pairOut (off lo len v : Nat) : (s.setFld off lo len v).pairOut = s.pairOut := rfl
@[simp] theorem State.setFld_pairIn (off lo len v : Nat) : (s.setFld off lo len v).pairIn = s.pairIn := rfl
@[simp] theorem State.setFld_tim (off lo len v : Nat) : (s.setFld off lo len v).tim = s.tim := rfl
@[simp] theorem State.setFld_pegs (off lo len v : Nat) : (s.setFld off lo len v).pegs = s.pegs := rfl
@[simp] theorem State.setFld_fbufs (off lo len v : Nat) : (s.setFld off lo len v).fbufs = s.fbufs := rfl
@[simp] theorem State.setFld_jobs (off lo len v : Nat) : (s.setFld off lo len v).jobs = s.jobs := rfl
@[simp] theorem State.setFld_sup (off lo len v : Nat) : (s.setFld off lo len v).sup = s.sup := rfl
@[simp] theorem State.setFld_coreDone (off lo len v : Nat) : (s.setFld off lo len v).coreDone = s.coreDone := rfl
@[simp] theorem State.setFld_stopped (off lo len v : Nat) : (s.setFld off lo len v).stopped = s.stopped := rfl
@[simp] theorem State.setFld_busMaster (off lo len v : Nat) : (s.setFld off lo len v).busMaster = s.busMaster := rfl
@[simp] theorem State.setFld_notices (off lo len v : Nat) : (s.setFld off lo len v).notices = s.notices := rfl
@[simp] theorem State.setFld_latch (off lo len v : Nat) : (s.setFld off lo len v).latch = s.latch := rfl
@[simp] theorem State.setFld_bu (off lo len v : Nat) : (s.setFld off lo len v).bu = s.bu := rfl
@[simp] theorem State.setFld_recov (off lo len v : Nat) : (s.setFld off lo len v).recov = s.recov := rfl
@[simp] theorem State.setFld_recq (off lo len v : Nat) : (s.setFld off lo len v).recq = s.recq := rfl
@[simp] theorem State.setFld_caughtRecs (off lo len v : Nat) : (s.setFld off lo len v).caughtRecs = s.caughtRecs := rfl
@[simp] theorem State.setFld_missed (off lo len v : Nat) : (s.setFld off lo len v).missed = s.missed := rfl
@[simp] theorem State.setFld_rst (off lo len v : Nat) : (s.setFld off lo len v).rst = s.rst := rfl
@[simp] theorem State.setFld_guyOpen (off lo len v : Nat) : (s.setFld off lo len v).guyOpen = s.guyOpen := rfl
@[simp] theorem State.setFld_beat (off lo len v : Nat) : (s.setFld off lo len v).beat = s.beat := rfl
@[simp] theorem State.setFld_quote (off lo len v : Nat) : (s.setFld off lo len v).quote = s.quote := rfl
@[simp] theorem State.setFld_trace (off lo len v : Nat) : (s.setFld off lo len v).trace = s.trace := rfl
@[simp] theorem State.setFld_tap (off lo len v : Nat) : (s.setFld off lo len v).tap = s.tap := rfl
@[simp] theorem State.setFld_pins (off lo len v : Nat) : (s.setFld off lo len v).pins = s.pins := rfl
@[simp] theorem State.setFld_cap (off lo len v : Nat) : (s.setFld off lo len v).cap = s.cap := rfl
@[simp] theorem State.setFld_spares (off lo len v : Nat) : (s.setFld off lo len v).spares = s.spares := rfl
@[simp] theorem State.setFld_fusedSvn (off lo len v : Nat) : (s.setFld off lo len v).fusedSvn = s.fusedSvn := rfl
@[simp] theorem State.setFld_revoked (off lo len v : Nat) : (s.setFld off lo len v).revoked = s.revoked := rfl
@[simp] theorem State.setFld_reply (off lo len v : Nat) : (s.setFld off lo len v).reply = s.reply := rfl
@[simp] theorem State.setFld_lastRec (off lo len v : Nat) : (s.setFld off lo len v).lastRec = s.lastRec := rfl
@[simp] theorem State.setFld_free (off lo len v : Nat) : (s.setFld off lo len v).free = s.free := rfl

@[simp] theorem State.bump_pending (off lo len : Nat) : (s.bump off lo len).pending = s.pending := rfl
@[simp] theorem State.bump_ns (off lo len : Nat) : (s.bump off lo len).ns = s.ns := rfl
@[simp] theorem State.bump_half (off lo len : Nat) : (s.bump off lo len).half = s.half := rfl
@[simp] theorem State.bump_time (off lo len : Nat) : (s.bump off lo len).time = s.time := rfl
@[simp] theorem State.bump_cores (off lo len : Nat) : (s.bump off lo len).cores = s.cores := rfl
@[simp] theorem State.bump_mem (off lo len : Nat) : (s.bump off lo len).mem = s.mem := rfl
@[simp] theorem State.bump_tlb (off lo len : Nat) : (s.bump off lo len).tlb = s.tlb := rfl
@[simp] theorem State.bump_sealed (off lo len : Nat) : (s.bump off lo len).sealed = s.sealed := rfl
@[simp] theorem State.bump_keys (off lo len : Nat) : (s.bump off lo len).keys = s.keys := rfl
@[simp] theorem State.bump_cellars (off lo len : Nat) : (s.bump off lo len).cellars = s.cellars := rfl
@[simp] theorem State.bump_reqs (off lo len : Nat) : (s.bump off lo len).reqs = s.reqs := rfl
@[simp] theorem State.bump_inreqs (off lo len : Nat) : (s.bump off lo len).inreqs = s.inreqs := rfl
@[simp] theorem State.bump_ports (off lo len : Nat) : (s.bump off lo len).ports = s.ports := rfl
@[simp] theorem State.bump_inbox (off lo len : Nat) : (s.bump off lo len).inbox = s.inbox := rfl
@[simp] theorem State.bump_chans (off lo len : Nat) : (s.bump off lo len).chans = s.chans := rfl
@[simp] theorem State.bump_linkMap (off lo len : Nat) : (s.bump off lo len).linkMap = s.linkMap := rfl
@[simp] theorem State.bump_lsSeen (off lo len : Nat) : (s.bump off lo len).lsSeen = s.lsSeen := rfl
@[simp] theorem State.bump_conns (off lo len : Nat) : (s.bump off lo len).conns = s.conns := rfl
@[simp] theorem State.bump_taken (off lo len : Nat) : (s.bump off lo len).taken = s.taken := rfl
@[simp] theorem State.bump_pairOut (off lo len : Nat) : (s.bump off lo len).pairOut = s.pairOut := rfl
@[simp] theorem State.bump_pairIn (off lo len : Nat) : (s.bump off lo len).pairIn = s.pairIn := rfl
@[simp] theorem State.bump_tim (off lo len : Nat) : (s.bump off lo len).tim = s.tim := rfl
@[simp] theorem State.bump_pegs (off lo len : Nat) : (s.bump off lo len).pegs = s.pegs := rfl
@[simp] theorem State.bump_fbufs (off lo len : Nat) : (s.bump off lo len).fbufs = s.fbufs := rfl
@[simp] theorem State.bump_jobs (off lo len : Nat) : (s.bump off lo len).jobs = s.jobs := rfl
@[simp] theorem State.bump_sup (off lo len : Nat) : (s.bump off lo len).sup = s.sup := rfl
@[simp] theorem State.bump_coreDone (off lo len : Nat) : (s.bump off lo len).coreDone = s.coreDone := rfl
@[simp] theorem State.bump_stopped (off lo len : Nat) : (s.bump off lo len).stopped = s.stopped := rfl
@[simp] theorem State.bump_busMaster (off lo len : Nat) : (s.bump off lo len).busMaster = s.busMaster := rfl
@[simp] theorem State.bump_notices (off lo len : Nat) : (s.bump off lo len).notices = s.notices := rfl
@[simp] theorem State.bump_latch (off lo len : Nat) : (s.bump off lo len).latch = s.latch := rfl
@[simp] theorem State.bump_bu (off lo len : Nat) : (s.bump off lo len).bu = s.bu := rfl
@[simp] theorem State.bump_recov (off lo len : Nat) : (s.bump off lo len).recov = s.recov := rfl
@[simp] theorem State.bump_recq (off lo len : Nat) : (s.bump off lo len).recq = s.recq := rfl
@[simp] theorem State.bump_caughtRecs (off lo len : Nat) : (s.bump off lo len).caughtRecs = s.caughtRecs := rfl
@[simp] theorem State.bump_missed (off lo len : Nat) : (s.bump off lo len).missed = s.missed := rfl
@[simp] theorem State.bump_rst (off lo len : Nat) : (s.bump off lo len).rst = s.rst := rfl
@[simp] theorem State.bump_guyOpen (off lo len : Nat) : (s.bump off lo len).guyOpen = s.guyOpen := rfl
@[simp] theorem State.bump_beat (off lo len : Nat) : (s.bump off lo len).beat = s.beat := rfl
@[simp] theorem State.bump_quote (off lo len : Nat) : (s.bump off lo len).quote = s.quote := rfl
@[simp] theorem State.bump_trace (off lo len : Nat) : (s.bump off lo len).trace = s.trace := rfl
@[simp] theorem State.bump_tap (off lo len : Nat) : (s.bump off lo len).tap = s.tap := rfl
@[simp] theorem State.bump_pins (off lo len : Nat) : (s.bump off lo len).pins = s.pins := rfl
@[simp] theorem State.bump_cap (off lo len : Nat) : (s.bump off lo len).cap = s.cap := rfl
@[simp] theorem State.bump_spares (off lo len : Nat) : (s.bump off lo len).spares = s.spares := rfl
@[simp] theorem State.bump_fusedSvn (off lo len : Nat) : (s.bump off lo len).fusedSvn = s.fusedSvn := rfl
@[simp] theorem State.bump_revoked (off lo len : Nat) : (s.bump off lo len).revoked = s.revoked := rfl
@[simp] theorem State.bump_reply (off lo len : Nat) : (s.bump off lo len).reply = s.reply := rfl
@[simp] theorem State.bump_lastRec (off lo len : Nat) : (s.bump off lo len).lastRec = s.lastRec := rfl
@[simp] theorem State.bump_free (off lo len : Nat) : (s.bump off lo len).free = s.free := rfl

@[simp] theorem State.setCore_pending (c : Nat) (x : Core) : (s.setCore c x).pending = s.pending := rfl
@[simp] theorem State.setCore_ns (c : Nat) (x : Core) : (s.setCore c x).ns = s.ns := rfl
@[simp] theorem State.setCore_half (c : Nat) (x : Core) : (s.setCore c x).half = s.half := rfl
@[simp] theorem State.setCore_time (c : Nat) (x : Core) : (s.setCore c x).time = s.time := rfl
@[simp] theorem State.setCore_regs (c : Nat) (x : Core) : (s.setCore c x).regs = s.regs := rfl
@[simp] theorem State.setCore_mem (c : Nat) (x : Core) : (s.setCore c x).mem = s.mem := rfl
@[simp] theorem State.setCore_tlb (c : Nat) (x : Core) : (s.setCore c x).tlb = s.tlb := rfl
@[simp] theorem State.setCore_sealed (c : Nat) (x : Core) : (s.setCore c x).sealed = s.sealed := rfl
@[simp] theorem State.setCore_keys (c : Nat) (x : Core) : (s.setCore c x).keys = s.keys := rfl
@[simp] theorem State.setCore_cellars (c : Nat) (x : Core) : (s.setCore c x).cellars = s.cellars := rfl
@[simp] theorem State.setCore_reqs (c : Nat) (x : Core) : (s.setCore c x).reqs = s.reqs := rfl
@[simp] theorem State.setCore_inreqs (c : Nat) (x : Core) : (s.setCore c x).inreqs = s.inreqs := rfl
@[simp] theorem State.setCore_ports (c : Nat) (x : Core) : (s.setCore c x).ports = s.ports := rfl
@[simp] theorem State.setCore_inbox (c : Nat) (x : Core) : (s.setCore c x).inbox = s.inbox := rfl
@[simp] theorem State.setCore_chans (c : Nat) (x : Core) : (s.setCore c x).chans = s.chans := rfl
@[simp] theorem State.setCore_linkMap (c : Nat) (x : Core) : (s.setCore c x).linkMap = s.linkMap := rfl
@[simp] theorem State.setCore_lsSeen (c : Nat) (x : Core) : (s.setCore c x).lsSeen = s.lsSeen := rfl
@[simp] theorem State.setCore_conns (c : Nat) (x : Core) : (s.setCore c x).conns = s.conns := rfl
@[simp] theorem State.setCore_taken (c : Nat) (x : Core) : (s.setCore c x).taken = s.taken := rfl
@[simp] theorem State.setCore_pairOut (c : Nat) (x : Core) : (s.setCore c x).pairOut = s.pairOut := rfl
@[simp] theorem State.setCore_pairIn (c : Nat) (x : Core) : (s.setCore c x).pairIn = s.pairIn := rfl
@[simp] theorem State.setCore_tim (c : Nat) (x : Core) : (s.setCore c x).tim = s.tim := rfl
@[simp] theorem State.setCore_pegs (c : Nat) (x : Core) : (s.setCore c x).pegs = s.pegs := rfl
@[simp] theorem State.setCore_fbufs (c : Nat) (x : Core) : (s.setCore c x).fbufs = s.fbufs := rfl
@[simp] theorem State.setCore_jobs (c : Nat) (x : Core) : (s.setCore c x).jobs = s.jobs := rfl
@[simp] theorem State.setCore_sup (c : Nat) (x : Core) : (s.setCore c x).sup = s.sup := rfl
@[simp] theorem State.setCore_coreDone (c : Nat) (x : Core) : (s.setCore c x).coreDone = s.coreDone := rfl
@[simp] theorem State.setCore_stopped (c : Nat) (x : Core) : (s.setCore c x).stopped = s.stopped := rfl
@[simp] theorem State.setCore_busMaster (c : Nat) (x : Core) : (s.setCore c x).busMaster = s.busMaster := rfl
@[simp] theorem State.setCore_notices (c : Nat) (x : Core) : (s.setCore c x).notices = s.notices := rfl
@[simp] theorem State.setCore_latch (c : Nat) (x : Core) : (s.setCore c x).latch = s.latch := rfl
@[simp] theorem State.setCore_bu (c : Nat) (x : Core) : (s.setCore c x).bu = s.bu := rfl
@[simp] theorem State.setCore_recov (c : Nat) (x : Core) : (s.setCore c x).recov = s.recov := rfl
@[simp] theorem State.setCore_recq (c : Nat) (x : Core) : (s.setCore c x).recq = s.recq := rfl
@[simp] theorem State.setCore_caughtRecs (c : Nat) (x : Core) : (s.setCore c x).caughtRecs = s.caughtRecs := rfl
@[simp] theorem State.setCore_missed (c : Nat) (x : Core) : (s.setCore c x).missed = s.missed := rfl
@[simp] theorem State.setCore_rst (c : Nat) (x : Core) : (s.setCore c x).rst = s.rst := rfl
@[simp] theorem State.setCore_guyOpen (c : Nat) (x : Core) : (s.setCore c x).guyOpen = s.guyOpen := rfl
@[simp] theorem State.setCore_beat (c : Nat) (x : Core) : (s.setCore c x).beat = s.beat := rfl
@[simp] theorem State.setCore_quote (c : Nat) (x : Core) : (s.setCore c x).quote = s.quote := rfl
@[simp] theorem State.setCore_trace (c : Nat) (x : Core) : (s.setCore c x).trace = s.trace := rfl
@[simp] theorem State.setCore_tap (c : Nat) (x : Core) : (s.setCore c x).tap = s.tap := rfl
@[simp] theorem State.setCore_pins (c : Nat) (x : Core) : (s.setCore c x).pins = s.pins := rfl
@[simp] theorem State.setCore_cap (c : Nat) (x : Core) : (s.setCore c x).cap = s.cap := rfl
@[simp] theorem State.setCore_spares (c : Nat) (x : Core) : (s.setCore c x).spares = s.spares := rfl
@[simp] theorem State.setCore_fusedSvn (c : Nat) (x : Core) : (s.setCore c x).fusedSvn = s.fusedSvn := rfl
@[simp] theorem State.setCore_revoked (c : Nat) (x : Core) : (s.setCore c x).revoked = s.revoked := rfl
@[simp] theorem State.setCore_reply (c : Nat) (x : Core) : (s.setCore c x).reply = s.reply := rfl
@[simp] theorem State.setCore_lastRec (c : Nat) (x : Core) : (s.setCore c x).lastRec = s.lastRec := rfl
@[simp] theorem State.setCore_free (c : Nat) (x : Core) : (s.setCore c x).free = s.free := rfl

@[simp] theorem State.setEng_pending (c e : Nat) (x : Eng) : (s.setEng c e x).pending = s.pending := rfl
@[simp] theorem State.setEng_ns (c e : Nat) (x : Eng) : (s.setEng c e x).ns = s.ns := rfl
@[simp] theorem State.setEng_half (c e : Nat) (x : Eng) : (s.setEng c e x).half = s.half := rfl
@[simp] theorem State.setEng_time (c e : Nat) (x : Eng) : (s.setEng c e x).time = s.time := rfl
@[simp] theorem State.setEng_regs (c e : Nat) (x : Eng) : (s.setEng c e x).regs = s.regs := rfl
@[simp] theorem State.setEng_mem (c e : Nat) (x : Eng) : (s.setEng c e x).mem = s.mem := rfl
@[simp] theorem State.setEng_tlb (c e : Nat) (x : Eng) : (s.setEng c e x).tlb = s.tlb := rfl
@[simp] theorem State.setEng_sealed (c e : Nat) (x : Eng) : (s.setEng c e x).sealed = s.sealed := rfl
@[simp] theorem State.setEng_keys (c e : Nat) (x : Eng) : (s.setEng c e x).keys = s.keys := rfl
@[simp] theorem State.setEng_cellars (c e : Nat) (x : Eng) : (s.setEng c e x).cellars = s.cellars := rfl
@[simp] theorem State.setEng_reqs (c e : Nat) (x : Eng) : (s.setEng c e x).reqs = s.reqs := rfl
@[simp] theorem State.setEng_inreqs (c e : Nat) (x : Eng) : (s.setEng c e x).inreqs = s.inreqs := rfl
@[simp] theorem State.setEng_ports (c e : Nat) (x : Eng) : (s.setEng c e x).ports = s.ports := rfl
@[simp] theorem State.setEng_inbox (c e : Nat) (x : Eng) : (s.setEng c e x).inbox = s.inbox := rfl
@[simp] theorem State.setEng_chans (c e : Nat) (x : Eng) : (s.setEng c e x).chans = s.chans := rfl
@[simp] theorem State.setEng_linkMap (c e : Nat) (x : Eng) : (s.setEng c e x).linkMap = s.linkMap := rfl
@[simp] theorem State.setEng_lsSeen (c e : Nat) (x : Eng) : (s.setEng c e x).lsSeen = s.lsSeen := rfl
@[simp] theorem State.setEng_conns (c e : Nat) (x : Eng) : (s.setEng c e x).conns = s.conns := rfl
@[simp] theorem State.setEng_taken (c e : Nat) (x : Eng) : (s.setEng c e x).taken = s.taken := rfl
@[simp] theorem State.setEng_pairOut (c e : Nat) (x : Eng) : (s.setEng c e x).pairOut = s.pairOut := rfl
@[simp] theorem State.setEng_pairIn (c e : Nat) (x : Eng) : (s.setEng c e x).pairIn = s.pairIn := rfl
@[simp] theorem State.setEng_tim (c e : Nat) (x : Eng) : (s.setEng c e x).tim = s.tim := rfl
@[simp] theorem State.setEng_pegs (c e : Nat) (x : Eng) : (s.setEng c e x).pegs = s.pegs := rfl
@[simp] theorem State.setEng_fbufs (c e : Nat) (x : Eng) : (s.setEng c e x).fbufs = s.fbufs := rfl
@[simp] theorem State.setEng_jobs (c e : Nat) (x : Eng) : (s.setEng c e x).jobs = s.jobs := rfl
@[simp] theorem State.setEng_sup (c e : Nat) (x : Eng) : (s.setEng c e x).sup = s.sup := rfl
@[simp] theorem State.setEng_coreDone (c e : Nat) (x : Eng) : (s.setEng c e x).coreDone = s.coreDone := rfl
@[simp] theorem State.setEng_stopped (c e : Nat) (x : Eng) : (s.setEng c e x).stopped = s.stopped := rfl
@[simp] theorem State.setEng_busMaster (c e : Nat) (x : Eng) : (s.setEng c e x).busMaster = s.busMaster := rfl
@[simp] theorem State.setEng_notices (c e : Nat) (x : Eng) : (s.setEng c e x).notices = s.notices := rfl
@[simp] theorem State.setEng_latch (c e : Nat) (x : Eng) : (s.setEng c e x).latch = s.latch := rfl
@[simp] theorem State.setEng_bu (c e : Nat) (x : Eng) : (s.setEng c e x).bu = s.bu := rfl
@[simp] theorem State.setEng_recov (c e : Nat) (x : Eng) : (s.setEng c e x).recov = s.recov := rfl
@[simp] theorem State.setEng_recq (c e : Nat) (x : Eng) : (s.setEng c e x).recq = s.recq := rfl
@[simp] theorem State.setEng_caughtRecs (c e : Nat) (x : Eng) : (s.setEng c e x).caughtRecs = s.caughtRecs := rfl
@[simp] theorem State.setEng_missed (c e : Nat) (x : Eng) : (s.setEng c e x).missed = s.missed := rfl
@[simp] theorem State.setEng_rst (c e : Nat) (x : Eng) : (s.setEng c e x).rst = s.rst := rfl
@[simp] theorem State.setEng_guyOpen (c e : Nat) (x : Eng) : (s.setEng c e x).guyOpen = s.guyOpen := rfl
@[simp] theorem State.setEng_beat (c e : Nat) (x : Eng) : (s.setEng c e x).beat = s.beat := rfl
@[simp] theorem State.setEng_quote (c e : Nat) (x : Eng) : (s.setEng c e x).quote = s.quote := rfl
@[simp] theorem State.setEng_trace (c e : Nat) (x : Eng) : (s.setEng c e x).trace = s.trace := rfl
@[simp] theorem State.setEng_tap (c e : Nat) (x : Eng) : (s.setEng c e x).tap = s.tap := rfl
@[simp] theorem State.setEng_pins (c e : Nat) (x : Eng) : (s.setEng c e x).pins = s.pins := rfl
@[simp] theorem State.setEng_cap (c e : Nat) (x : Eng) : (s.setEng c e x).cap = s.cap := rfl
@[simp] theorem State.setEng_spares (c e : Nat) (x : Eng) : (s.setEng c e x).spares = s.spares := rfl
@[simp] theorem State.setEng_fusedSvn (c e : Nat) (x : Eng) : (s.setEng c e x).fusedSvn = s.fusedSvn := rfl
@[simp] theorem State.setEng_revoked (c e : Nat) (x : Eng) : (s.setEng c e x).revoked = s.revoked := rfl
@[simp] theorem State.setEng_reply (c e : Nat) (x : Eng) : (s.setEng c e x).reply = s.reply := rfl
@[simp] theorem State.setEng_lastRec (c e : Nat) (x : Eng) : (s.setEng c e x).lastRec = s.lastRec := rfl
@[simp] theorem State.setEng_free (c e : Nat) (x : Eng) : (s.setEng c e x).free = s.free := rfl

@[simp] theorem State.setOpe_pending (c e : Nat) (x : Ope) : (s.setOpe c e x).pending = s.pending := rfl
@[simp] theorem State.setOpe_ns (c e : Nat) (x : Ope) : (s.setOpe c e x).ns = s.ns := rfl
@[simp] theorem State.setOpe_half (c e : Nat) (x : Ope) : (s.setOpe c e x).half = s.half := rfl
@[simp] theorem State.setOpe_time (c e : Nat) (x : Ope) : (s.setOpe c e x).time = s.time := rfl
@[simp] theorem State.setOpe_regs (c e : Nat) (x : Ope) : (s.setOpe c e x).regs = s.regs := rfl
@[simp] theorem State.setOpe_mem (c e : Nat) (x : Ope) : (s.setOpe c e x).mem = s.mem := rfl
@[simp] theorem State.setOpe_tlb (c e : Nat) (x : Ope) : (s.setOpe c e x).tlb = s.tlb := rfl
@[simp] theorem State.setOpe_sealed (c e : Nat) (x : Ope) : (s.setOpe c e x).sealed = s.sealed := rfl
@[simp] theorem State.setOpe_keys (c e : Nat) (x : Ope) : (s.setOpe c e x).keys = s.keys := rfl
@[simp] theorem State.setOpe_cellars (c e : Nat) (x : Ope) : (s.setOpe c e x).cellars = s.cellars := rfl
@[simp] theorem State.setOpe_reqs (c e : Nat) (x : Ope) : (s.setOpe c e x).reqs = s.reqs := rfl
@[simp] theorem State.setOpe_inreqs (c e : Nat) (x : Ope) : (s.setOpe c e x).inreqs = s.inreqs := rfl
@[simp] theorem State.setOpe_ports (c e : Nat) (x : Ope) : (s.setOpe c e x).ports = s.ports := rfl
@[simp] theorem State.setOpe_inbox (c e : Nat) (x : Ope) : (s.setOpe c e x).inbox = s.inbox := rfl
@[simp] theorem State.setOpe_chans (c e : Nat) (x : Ope) : (s.setOpe c e x).chans = s.chans := rfl
@[simp] theorem State.setOpe_linkMap (c e : Nat) (x : Ope) : (s.setOpe c e x).linkMap = s.linkMap := rfl
@[simp] theorem State.setOpe_lsSeen (c e : Nat) (x : Ope) : (s.setOpe c e x).lsSeen = s.lsSeen := rfl
@[simp] theorem State.setOpe_conns (c e : Nat) (x : Ope) : (s.setOpe c e x).conns = s.conns := rfl
@[simp] theorem State.setOpe_taken (c e : Nat) (x : Ope) : (s.setOpe c e x).taken = s.taken := rfl
@[simp] theorem State.setOpe_pairOut (c e : Nat) (x : Ope) : (s.setOpe c e x).pairOut = s.pairOut := rfl
@[simp] theorem State.setOpe_pairIn (c e : Nat) (x : Ope) : (s.setOpe c e x).pairIn = s.pairIn := rfl
@[simp] theorem State.setOpe_tim (c e : Nat) (x : Ope) : (s.setOpe c e x).tim = s.tim := rfl
@[simp] theorem State.setOpe_pegs (c e : Nat) (x : Ope) : (s.setOpe c e x).pegs = s.pegs := rfl
@[simp] theorem State.setOpe_fbufs (c e : Nat) (x : Ope) : (s.setOpe c e x).fbufs = s.fbufs := rfl
@[simp] theorem State.setOpe_jobs (c e : Nat) (x : Ope) : (s.setOpe c e x).jobs = s.jobs := rfl
@[simp] theorem State.setOpe_sup (c e : Nat) (x : Ope) : (s.setOpe c e x).sup = s.sup := rfl
@[simp] theorem State.setOpe_coreDone (c e : Nat) (x : Ope) : (s.setOpe c e x).coreDone = s.coreDone := rfl
@[simp] theorem State.setOpe_stopped (c e : Nat) (x : Ope) : (s.setOpe c e x).stopped = s.stopped := rfl
@[simp] theorem State.setOpe_busMaster (c e : Nat) (x : Ope) : (s.setOpe c e x).busMaster = s.busMaster := rfl
@[simp] theorem State.setOpe_notices (c e : Nat) (x : Ope) : (s.setOpe c e x).notices = s.notices := rfl
@[simp] theorem State.setOpe_latch (c e : Nat) (x : Ope) : (s.setOpe c e x).latch = s.latch := rfl
@[simp] theorem State.setOpe_bu (c e : Nat) (x : Ope) : (s.setOpe c e x).bu = s.bu := rfl
@[simp] theorem State.setOpe_recov (c e : Nat) (x : Ope) : (s.setOpe c e x).recov = s.recov := rfl
@[simp] theorem State.setOpe_recq (c e : Nat) (x : Ope) : (s.setOpe c e x).recq = s.recq := rfl
@[simp] theorem State.setOpe_caughtRecs (c e : Nat) (x : Ope) : (s.setOpe c e x).caughtRecs = s.caughtRecs := rfl
@[simp] theorem State.setOpe_missed (c e : Nat) (x : Ope) : (s.setOpe c e x).missed = s.missed := rfl
@[simp] theorem State.setOpe_rst (c e : Nat) (x : Ope) : (s.setOpe c e x).rst = s.rst := rfl
@[simp] theorem State.setOpe_guyOpen (c e : Nat) (x : Ope) : (s.setOpe c e x).guyOpen = s.guyOpen := rfl
@[simp] theorem State.setOpe_beat (c e : Nat) (x : Ope) : (s.setOpe c e x).beat = s.beat := rfl
@[simp] theorem State.setOpe_quote (c e : Nat) (x : Ope) : (s.setOpe c e x).quote = s.quote := rfl
@[simp] theorem State.setOpe_trace (c e : Nat) (x : Ope) : (s.setOpe c e x).trace = s.trace := rfl
@[simp] theorem State.setOpe_tap (c e : Nat) (x : Ope) : (s.setOpe c e x).tap = s.tap := rfl
@[simp] theorem State.setOpe_pins (c e : Nat) (x : Ope) : (s.setOpe c e x).pins = s.pins := rfl
@[simp] theorem State.setOpe_cap (c e : Nat) (x : Ope) : (s.setOpe c e x).cap = s.cap := rfl
@[simp] theorem State.setOpe_spares (c e : Nat) (x : Ope) : (s.setOpe c e x).spares = s.spares := rfl
@[simp] theorem State.setOpe_fusedSvn (c e : Nat) (x : Ope) : (s.setOpe c e x).fusedSvn = s.fusedSvn := rfl
@[simp] theorem State.setOpe_revoked (c e : Nat) (x : Ope) : (s.setOpe c e x).revoked = s.revoked := rfl
@[simp] theorem State.setOpe_reply (c e : Nat) (x : Ope) : (s.setOpe c e x).reply = s.reply := rfl
@[simp] theorem State.setOpe_lastRec (c e : Nat) (x : Ope) : (s.setOpe c e x).lastRec = s.lastRec := rfl
@[simp] theorem State.setOpe_free (c e : Nat) (x : Ope) : (s.setOpe c e x).free = s.free := rfl

@[simp] theorem State.setTally_pending (c k v : Nat) : (s.setTally c k v).pending = s.pending := rfl
@[simp] theorem State.setTally_ns (c k v : Nat) : (s.setTally c k v).ns = s.ns := rfl
@[simp] theorem State.setTally_half (c k v : Nat) : (s.setTally c k v).half = s.half := rfl
@[simp] theorem State.setTally_time (c k v : Nat) : (s.setTally c k v).time = s.time := rfl
@[simp] theorem State.setTally_regs (c k v : Nat) : (s.setTally c k v).regs = s.regs := rfl
@[simp] theorem State.setTally_mem (c k v : Nat) : (s.setTally c k v).mem = s.mem := rfl
@[simp] theorem State.setTally_tlb (c k v : Nat) : (s.setTally c k v).tlb = s.tlb := rfl
@[simp] theorem State.setTally_sealed (c k v : Nat) : (s.setTally c k v).sealed = s.sealed := rfl
@[simp] theorem State.setTally_keys (c k v : Nat) : (s.setTally c k v).keys = s.keys := rfl
@[simp] theorem State.setTally_cellars (c k v : Nat) : (s.setTally c k v).cellars = s.cellars := rfl
@[simp] theorem State.setTally_reqs (c k v : Nat) : (s.setTally c k v).reqs = s.reqs := rfl
@[simp] theorem State.setTally_inreqs (c k v : Nat) : (s.setTally c k v).inreqs = s.inreqs := rfl
@[simp] theorem State.setTally_ports (c k v : Nat) : (s.setTally c k v).ports = s.ports := rfl
@[simp] theorem State.setTally_inbox (c k v : Nat) : (s.setTally c k v).inbox = s.inbox := rfl
@[simp] theorem State.setTally_chans (c k v : Nat) : (s.setTally c k v).chans = s.chans := rfl
@[simp] theorem State.setTally_linkMap (c k v : Nat) : (s.setTally c k v).linkMap = s.linkMap := rfl
@[simp] theorem State.setTally_lsSeen (c k v : Nat) : (s.setTally c k v).lsSeen = s.lsSeen := rfl
@[simp] theorem State.setTally_conns (c k v : Nat) : (s.setTally c k v).conns = s.conns := rfl
@[simp] theorem State.setTally_taken (c k v : Nat) : (s.setTally c k v).taken = s.taken := rfl
@[simp] theorem State.setTally_pairOut (c k v : Nat) : (s.setTally c k v).pairOut = s.pairOut := rfl
@[simp] theorem State.setTally_pairIn (c k v : Nat) : (s.setTally c k v).pairIn = s.pairIn := rfl
@[simp] theorem State.setTally_tim (c k v : Nat) : (s.setTally c k v).tim = s.tim := rfl
@[simp] theorem State.setTally_pegs (c k v : Nat) : (s.setTally c k v).pegs = s.pegs := rfl
@[simp] theorem State.setTally_fbufs (c k v : Nat) : (s.setTally c k v).fbufs = s.fbufs := rfl
@[simp] theorem State.setTally_jobs (c k v : Nat) : (s.setTally c k v).jobs = s.jobs := rfl
@[simp] theorem State.setTally_sup (c k v : Nat) : (s.setTally c k v).sup = s.sup := rfl
@[simp] theorem State.setTally_coreDone (c k v : Nat) : (s.setTally c k v).coreDone = s.coreDone := rfl
@[simp] theorem State.setTally_stopped (c k v : Nat) : (s.setTally c k v).stopped = s.stopped := rfl
@[simp] theorem State.setTally_busMaster (c k v : Nat) : (s.setTally c k v).busMaster = s.busMaster := rfl
@[simp] theorem State.setTally_notices (c k v : Nat) : (s.setTally c k v).notices = s.notices := rfl
@[simp] theorem State.setTally_latch (c k v : Nat) : (s.setTally c k v).latch = s.latch := rfl
@[simp] theorem State.setTally_bu (c k v : Nat) : (s.setTally c k v).bu = s.bu := rfl
@[simp] theorem State.setTally_recov (c k v : Nat) : (s.setTally c k v).recov = s.recov := rfl
@[simp] theorem State.setTally_recq (c k v : Nat) : (s.setTally c k v).recq = s.recq := rfl
@[simp] theorem State.setTally_caughtRecs (c k v : Nat) : (s.setTally c k v).caughtRecs = s.caughtRecs := rfl
@[simp] theorem State.setTally_missed (c k v : Nat) : (s.setTally c k v).missed = s.missed := rfl
@[simp] theorem State.setTally_rst (c k v : Nat) : (s.setTally c k v).rst = s.rst := rfl
@[simp] theorem State.setTally_guyOpen (c k v : Nat) : (s.setTally c k v).guyOpen = s.guyOpen := rfl
@[simp] theorem State.setTally_beat (c k v : Nat) : (s.setTally c k v).beat = s.beat := rfl
@[simp] theorem State.setTally_quote (c k v : Nat) : (s.setTally c k v).quote = s.quote := rfl
@[simp] theorem State.setTally_trace (c k v : Nat) : (s.setTally c k v).trace = s.trace := rfl
@[simp] theorem State.setTally_tap (c k v : Nat) : (s.setTally c k v).tap = s.tap := rfl
@[simp] theorem State.setTally_pins (c k v : Nat) : (s.setTally c k v).pins = s.pins := rfl
@[simp] theorem State.setTally_cap (c k v : Nat) : (s.setTally c k v).cap = s.cap := rfl
@[simp] theorem State.setTally_spares (c k v : Nat) : (s.setTally c k v).spares = s.spares := rfl
@[simp] theorem State.setTally_fusedSvn (c k v : Nat) : (s.setTally c k v).fusedSvn = s.fusedSvn := rfl
@[simp] theorem State.setTally_revoked (c k v : Nat) : (s.setTally c k v).revoked = s.revoked := rfl
@[simp] theorem State.setTally_reply (c k v : Nat) : (s.setTally c k v).reply = s.reply := rfl
@[simp] theorem State.setTally_lastRec (c k v : Nat) : (s.setTally c k v).lastRec = s.lastRec := rfl
@[simp] theorem State.setTally_free (c k v : Nat) : (s.setTally c k v).free = s.free := rfl

@[simp] theorem State.stir_pending (c : Nat) : (s.stir c).pending = s.pending := rfl
@[simp] theorem State.stir_ns (c : Nat) : (s.stir c).ns = s.ns := rfl
@[simp] theorem State.stir_half (c : Nat) : (s.stir c).half = s.half := rfl
@[simp] theorem State.stir_time (c : Nat) : (s.stir c).time = s.time := rfl
@[simp] theorem State.stir_regs (c : Nat) : (s.stir c).regs = s.regs := rfl
@[simp] theorem State.stir_mem (c : Nat) : (s.stir c).mem = s.mem := rfl
@[simp] theorem State.stir_tlb (c : Nat) : (s.stir c).tlb = s.tlb := rfl
@[simp] theorem State.stir_sealed (c : Nat) : (s.stir c).sealed = s.sealed := rfl
@[simp] theorem State.stir_keys (c : Nat) : (s.stir c).keys = s.keys := rfl
@[simp] theorem State.stir_cellars (c : Nat) : (s.stir c).cellars = s.cellars := rfl
@[simp] theorem State.stir_reqs (c : Nat) : (s.stir c).reqs = s.reqs := rfl
@[simp] theorem State.stir_inreqs (c : Nat) : (s.stir c).inreqs = s.inreqs := rfl
@[simp] theorem State.stir_ports (c : Nat) : (s.stir c).ports = s.ports := rfl
@[simp] theorem State.stir_inbox (c : Nat) : (s.stir c).inbox = s.inbox := rfl
@[simp] theorem State.stir_chans (c : Nat) : (s.stir c).chans = s.chans := rfl
@[simp] theorem State.stir_linkMap (c : Nat) : (s.stir c).linkMap = s.linkMap := rfl
@[simp] theorem State.stir_lsSeen (c : Nat) : (s.stir c).lsSeen = s.lsSeen := rfl
@[simp] theorem State.stir_conns (c : Nat) : (s.stir c).conns = s.conns := rfl
@[simp] theorem State.stir_taken (c : Nat) : (s.stir c).taken = s.taken := rfl
@[simp] theorem State.stir_pairOut (c : Nat) : (s.stir c).pairOut = s.pairOut := rfl
@[simp] theorem State.stir_pairIn (c : Nat) : (s.stir c).pairIn = s.pairIn := rfl
@[simp] theorem State.stir_tim (c : Nat) : (s.stir c).tim = s.tim := rfl
@[simp] theorem State.stir_pegs (c : Nat) : (s.stir c).pegs = s.pegs := rfl
@[simp] theorem State.stir_fbufs (c : Nat) : (s.stir c).fbufs = s.fbufs := rfl
@[simp] theorem State.stir_jobs (c : Nat) : (s.stir c).jobs = s.jobs := rfl
@[simp] theorem State.stir_sup (c : Nat) : (s.stir c).sup = s.sup := rfl
@[simp] theorem State.stir_coreDone (c : Nat) : (s.stir c).coreDone = s.coreDone := rfl
@[simp] theorem State.stir_stopped (c : Nat) : (s.stir c).stopped = s.stopped := rfl
@[simp] theorem State.stir_busMaster (c : Nat) : (s.stir c).busMaster = s.busMaster := rfl
@[simp] theorem State.stir_notices (c : Nat) : (s.stir c).notices = s.notices := rfl
@[simp] theorem State.stir_latch (c : Nat) : (s.stir c).latch = s.latch := rfl
@[simp] theorem State.stir_bu (c : Nat) : (s.stir c).bu = s.bu := rfl
@[simp] theorem State.stir_recov (c : Nat) : (s.stir c).recov = s.recov := rfl
@[simp] theorem State.stir_recq (c : Nat) : (s.stir c).recq = s.recq := rfl
@[simp] theorem State.stir_caughtRecs (c : Nat) : (s.stir c).caughtRecs = s.caughtRecs := rfl
@[simp] theorem State.stir_missed (c : Nat) : (s.stir c).missed = s.missed := rfl
@[simp] theorem State.stir_rst (c : Nat) : (s.stir c).rst = s.rst := rfl
@[simp] theorem State.stir_guyOpen (c : Nat) : (s.stir c).guyOpen = s.guyOpen := rfl
@[simp] theorem State.stir_beat (c : Nat) : (s.stir c).beat = s.beat := rfl
@[simp] theorem State.stir_quote (c : Nat) : (s.stir c).quote = s.quote := rfl
@[simp] theorem State.stir_trace (c : Nat) : (s.stir c).trace = s.trace := rfl
@[simp] theorem State.stir_tap (c : Nat) : (s.stir c).tap = s.tap := rfl
@[simp] theorem State.stir_pins (c : Nat) : (s.stir c).pins = s.pins := rfl
@[simp] theorem State.stir_cap (c : Nat) : (s.stir c).cap = s.cap := rfl
@[simp] theorem State.stir_spares (c : Nat) : (s.stir c).spares = s.spares := rfl
@[simp] theorem State.stir_fusedSvn (c : Nat) : (s.stir c).fusedSvn = s.fusedSvn := rfl
@[simp] theorem State.stir_revoked (c : Nat) : (s.stir c).revoked = s.revoked := rfl
@[simp] theorem State.stir_reply (c : Nat) : (s.stir c).reply = s.reply := rfl
@[simp] theorem State.stir_lastRec (c : Nat) : (s.stir c).lastRec = s.lastRec := rfl
@[simp] theorem State.stir_free (c : Nat) : (s.stir c).free = s.free := rfl

@[simp] theorem State.popA_pending (c e : Nat) : (s.popA c e).pending = s.pending := rfl
@[simp] theorem State.popA_ns (c e : Nat) : (s.popA c e).ns = s.ns := rfl
@[simp] theorem State.popA_half (c e : Nat) : (s.popA c e).half = s.half := rfl
@[simp] theorem State.popA_time (c e : Nat) : (s.popA c e).time = s.time := rfl
@[simp] theorem State.popA_regs (c e : Nat) : (s.popA c e).regs = s.regs := rfl
@[simp] theorem State.popA_mem (c e : Nat) : (s.popA c e).mem = s.mem := rfl
@[simp] theorem State.popA_tlb (c e : Nat) : (s.popA c e).tlb = s.tlb := rfl
@[simp] theorem State.popA_sealed (c e : Nat) : (s.popA c e).sealed = s.sealed := rfl
@[simp] theorem State.popA_keys (c e : Nat) : (s.popA c e).keys = s.keys := rfl
@[simp] theorem State.popA_cellars (c e : Nat) : (s.popA c e).cellars = s.cellars := rfl
@[simp] theorem State.popA_reqs (c e : Nat) : (s.popA c e).reqs = s.reqs := rfl
@[simp] theorem State.popA_inreqs (c e : Nat) : (s.popA c e).inreqs = s.inreqs := rfl
@[simp] theorem State.popA_ports (c e : Nat) : (s.popA c e).ports = s.ports := rfl
@[simp] theorem State.popA_inbox (c e : Nat) : (s.popA c e).inbox = s.inbox := rfl
@[simp] theorem State.popA_chans (c e : Nat) : (s.popA c e).chans = s.chans := rfl
@[simp] theorem State.popA_linkMap (c e : Nat) : (s.popA c e).linkMap = s.linkMap := rfl
@[simp] theorem State.popA_lsSeen (c e : Nat) : (s.popA c e).lsSeen = s.lsSeen := rfl
@[simp] theorem State.popA_conns (c e : Nat) : (s.popA c e).conns = s.conns := rfl
@[simp] theorem State.popA_taken (c e : Nat) : (s.popA c e).taken = s.taken := rfl
@[simp] theorem State.popA_pairOut (c e : Nat) : (s.popA c e).pairOut = s.pairOut := rfl
@[simp] theorem State.popA_pairIn (c e : Nat) : (s.popA c e).pairIn = s.pairIn := rfl
@[simp] theorem State.popA_tim (c e : Nat) : (s.popA c e).tim = s.tim := rfl
@[simp] theorem State.popA_pegs (c e : Nat) : (s.popA c e).pegs = s.pegs := rfl
@[simp] theorem State.popA_fbufs (c e : Nat) : (s.popA c e).fbufs = s.fbufs := rfl
@[simp] theorem State.popA_jobs (c e : Nat) : (s.popA c e).jobs = s.jobs := rfl
@[simp] theorem State.popA_sup (c e : Nat) : (s.popA c e).sup = s.sup := rfl
@[simp] theorem State.popA_coreDone (c e : Nat) : (s.popA c e).coreDone = s.coreDone := rfl
@[simp] theorem State.popA_stopped (c e : Nat) : (s.popA c e).stopped = s.stopped := rfl
@[simp] theorem State.popA_busMaster (c e : Nat) : (s.popA c e).busMaster = s.busMaster := rfl
@[simp] theorem State.popA_notices (c e : Nat) : (s.popA c e).notices = s.notices := rfl
@[simp] theorem State.popA_latch (c e : Nat) : (s.popA c e).latch = s.latch := rfl
@[simp] theorem State.popA_bu (c e : Nat) : (s.popA c e).bu = s.bu := rfl
@[simp] theorem State.popA_recov (c e : Nat) : (s.popA c e).recov = s.recov := rfl
@[simp] theorem State.popA_recq (c e : Nat) : (s.popA c e).recq = s.recq := rfl
@[simp] theorem State.popA_caughtRecs (c e : Nat) : (s.popA c e).caughtRecs = s.caughtRecs := rfl
@[simp] theorem State.popA_missed (c e : Nat) : (s.popA c e).missed = s.missed := rfl
@[simp] theorem State.popA_rst (c e : Nat) : (s.popA c e).rst = s.rst := rfl
@[simp] theorem State.popA_guyOpen (c e : Nat) : (s.popA c e).guyOpen = s.guyOpen := rfl
@[simp] theorem State.popA_beat (c e : Nat) : (s.popA c e).beat = s.beat := rfl
@[simp] theorem State.popA_quote (c e : Nat) : (s.popA c e).quote = s.quote := rfl
@[simp] theorem State.popA_trace (c e : Nat) : (s.popA c e).trace = s.trace := rfl
@[simp] theorem State.popA_tap (c e : Nat) : (s.popA c e).tap = s.tap := rfl
@[simp] theorem State.popA_pins (c e : Nat) : (s.popA c e).pins = s.pins := rfl
@[simp] theorem State.popA_cap (c e : Nat) : (s.popA c e).cap = s.cap := rfl
@[simp] theorem State.popA_spares (c e : Nat) : (s.popA c e).spares = s.spares := rfl
@[simp] theorem State.popA_fusedSvn (c e : Nat) : (s.popA c e).fusedSvn = s.fusedSvn := rfl
@[simp] theorem State.popA_revoked (c e : Nat) : (s.popA c e).revoked = s.revoked := rfl
@[simp] theorem State.popA_reply (c e : Nat) : (s.popA c e).reply = s.reply := rfl
@[simp] theorem State.popA_lastRec (c e : Nat) : (s.popA c e).lastRec = s.lastRec := rfl
@[simp] theorem State.popA_free (c e : Nat) : (s.popA c e).free = s.free := rfl

@[simp] theorem State.popP_pending (c e : Nat) : (s.popP c e).pending = s.pending := rfl
@[simp] theorem State.popP_ns (c e : Nat) : (s.popP c e).ns = s.ns := rfl
@[simp] theorem State.popP_half (c e : Nat) : (s.popP c e).half = s.half := rfl
@[simp] theorem State.popP_time (c e : Nat) : (s.popP c e).time = s.time := rfl
@[simp] theorem State.popP_regs (c e : Nat) : (s.popP c e).regs = s.regs := rfl
@[simp] theorem State.popP_mem (c e : Nat) : (s.popP c e).mem = s.mem := rfl
@[simp] theorem State.popP_tlb (c e : Nat) : (s.popP c e).tlb = s.tlb := rfl
@[simp] theorem State.popP_sealed (c e : Nat) : (s.popP c e).sealed = s.sealed := rfl
@[simp] theorem State.popP_keys (c e : Nat) : (s.popP c e).keys = s.keys := rfl
@[simp] theorem State.popP_cellars (c e : Nat) : (s.popP c e).cellars = s.cellars := rfl
@[simp] theorem State.popP_reqs (c e : Nat) : (s.popP c e).reqs = s.reqs := rfl
@[simp] theorem State.popP_inreqs (c e : Nat) : (s.popP c e).inreqs = s.inreqs := rfl
@[simp] theorem State.popP_ports (c e : Nat) : (s.popP c e).ports = s.ports := rfl
@[simp] theorem State.popP_inbox (c e : Nat) : (s.popP c e).inbox = s.inbox := rfl
@[simp] theorem State.popP_chans (c e : Nat) : (s.popP c e).chans = s.chans := rfl
@[simp] theorem State.popP_linkMap (c e : Nat) : (s.popP c e).linkMap = s.linkMap := rfl
@[simp] theorem State.popP_lsSeen (c e : Nat) : (s.popP c e).lsSeen = s.lsSeen := rfl
@[simp] theorem State.popP_conns (c e : Nat) : (s.popP c e).conns = s.conns := rfl
@[simp] theorem State.popP_taken (c e : Nat) : (s.popP c e).taken = s.taken := rfl
@[simp] theorem State.popP_pairOut (c e : Nat) : (s.popP c e).pairOut = s.pairOut := rfl
@[simp] theorem State.popP_pairIn (c e : Nat) : (s.popP c e).pairIn = s.pairIn := rfl
@[simp] theorem State.popP_tim (c e : Nat) : (s.popP c e).tim = s.tim := rfl
@[simp] theorem State.popP_pegs (c e : Nat) : (s.popP c e).pegs = s.pegs := rfl
@[simp] theorem State.popP_fbufs (c e : Nat) : (s.popP c e).fbufs = s.fbufs := rfl
@[simp] theorem State.popP_jobs (c e : Nat) : (s.popP c e).jobs = s.jobs := rfl
@[simp] theorem State.popP_sup (c e : Nat) : (s.popP c e).sup = s.sup := rfl
@[simp] theorem State.popP_coreDone (c e : Nat) : (s.popP c e).coreDone = s.coreDone := rfl
@[simp] theorem State.popP_stopped (c e : Nat) : (s.popP c e).stopped = s.stopped := rfl
@[simp] theorem State.popP_busMaster (c e : Nat) : (s.popP c e).busMaster = s.busMaster := rfl
@[simp] theorem State.popP_notices (c e : Nat) : (s.popP c e).notices = s.notices := rfl
@[simp] theorem State.popP_latch (c e : Nat) : (s.popP c e).latch = s.latch := rfl
@[simp] theorem State.popP_bu (c e : Nat) : (s.popP c e).bu = s.bu := rfl
@[simp] theorem State.popP_recov (c e : Nat) : (s.popP c e).recov = s.recov := rfl
@[simp] theorem State.popP_recq (c e : Nat) : (s.popP c e).recq = s.recq := rfl
@[simp] theorem State.popP_caughtRecs (c e : Nat) : (s.popP c e).caughtRecs = s.caughtRecs := rfl
@[simp] theorem State.popP_missed (c e : Nat) : (s.popP c e).missed = s.missed := rfl
@[simp] theorem State.popP_rst (c e : Nat) : (s.popP c e).rst = s.rst := rfl
@[simp] theorem State.popP_guyOpen (c e : Nat) : (s.popP c e).guyOpen = s.guyOpen := rfl
@[simp] theorem State.popP_beat (c e : Nat) : (s.popP c e).beat = s.beat := rfl
@[simp] theorem State.popP_quote (c e : Nat) : (s.popP c e).quote = s.quote := rfl
@[simp] theorem State.popP_trace (c e : Nat) : (s.popP c e).trace = s.trace := rfl
@[simp] theorem State.popP_tap (c e : Nat) : (s.popP c e).tap = s.tap := rfl
@[simp] theorem State.popP_pins (c e : Nat) : (s.popP c e).pins = s.pins := rfl
@[simp] theorem State.popP_cap (c e : Nat) : (s.popP c e).cap = s.cap := rfl
@[simp] theorem State.popP_spares (c e : Nat) : (s.popP c e).spares = s.spares := rfl
@[simp] theorem State.popP_fusedSvn (c e : Nat) : (s.popP c e).fusedSvn = s.fusedSvn := rfl
@[simp] theorem State.popP_revoked (c e : Nat) : (s.popP c e).revoked = s.revoked := rfl
@[simp] theorem State.popP_reply (c e : Nat) : (s.popP c e).reply = s.reply := rfl
@[simp] theorem State.popP_lastRec (c e : Nat) : (s.popP c e).lastRec = s.lastRec := rfl
@[simp] theorem State.popP_free (c e : Nat) : (s.popP c e).free = s.free := rfl

@[simp] theorem State.setFbuf_pending (d : Nat) (b : FaultBuf) : (s.setFbuf d b).pending = s.pending := rfl
@[simp] theorem State.setFbuf_ns (d : Nat) (b : FaultBuf) : (s.setFbuf d b).ns = s.ns := rfl
@[simp] theorem State.setFbuf_half (d : Nat) (b : FaultBuf) : (s.setFbuf d b).half = s.half := rfl
@[simp] theorem State.setFbuf_time (d : Nat) (b : FaultBuf) : (s.setFbuf d b).time = s.time := rfl
@[simp] theorem State.setFbuf_regs (d : Nat) (b : FaultBuf) : (s.setFbuf d b).regs = s.regs := rfl
@[simp] theorem State.setFbuf_cores (d : Nat) (b : FaultBuf) : (s.setFbuf d b).cores = s.cores := rfl
@[simp] theorem State.setFbuf_mem (d : Nat) (b : FaultBuf) : (s.setFbuf d b).mem = s.mem := rfl
@[simp] theorem State.setFbuf_tlb (d : Nat) (b : FaultBuf) : (s.setFbuf d b).tlb = s.tlb := rfl
@[simp] theorem State.setFbuf_sealed (d : Nat) (b : FaultBuf) : (s.setFbuf d b).sealed = s.sealed := rfl
@[simp] theorem State.setFbuf_keys (d : Nat) (b : FaultBuf) : (s.setFbuf d b).keys = s.keys := rfl
@[simp] theorem State.setFbuf_cellars (d : Nat) (b : FaultBuf) : (s.setFbuf d b).cellars = s.cellars := rfl
@[simp] theorem State.setFbuf_reqs (d : Nat) (b : FaultBuf) : (s.setFbuf d b).reqs = s.reqs := rfl
@[simp] theorem State.setFbuf_inreqs (d : Nat) (b : FaultBuf) : (s.setFbuf d b).inreqs = s.inreqs := rfl
@[simp] theorem State.setFbuf_ports (d : Nat) (b : FaultBuf) : (s.setFbuf d b).ports = s.ports := rfl
@[simp] theorem State.setFbuf_inbox (d : Nat) (b : FaultBuf) : (s.setFbuf d b).inbox = s.inbox := rfl
@[simp] theorem State.setFbuf_chans (d : Nat) (b : FaultBuf) : (s.setFbuf d b).chans = s.chans := rfl
@[simp] theorem State.setFbuf_linkMap (d : Nat) (b : FaultBuf) : (s.setFbuf d b).linkMap = s.linkMap := rfl
@[simp] theorem State.setFbuf_lsSeen (d : Nat) (b : FaultBuf) : (s.setFbuf d b).lsSeen = s.lsSeen := rfl
@[simp] theorem State.setFbuf_conns (d : Nat) (b : FaultBuf) : (s.setFbuf d b).conns = s.conns := rfl
@[simp] theorem State.setFbuf_taken (d : Nat) (b : FaultBuf) : (s.setFbuf d b).taken = s.taken := rfl
@[simp] theorem State.setFbuf_pairOut (d : Nat) (b : FaultBuf) : (s.setFbuf d b).pairOut = s.pairOut := rfl
@[simp] theorem State.setFbuf_pairIn (d : Nat) (b : FaultBuf) : (s.setFbuf d b).pairIn = s.pairIn := rfl
@[simp] theorem State.setFbuf_tim (d : Nat) (b : FaultBuf) : (s.setFbuf d b).tim = s.tim := rfl
@[simp] theorem State.setFbuf_pegs (d : Nat) (b : FaultBuf) : (s.setFbuf d b).pegs = s.pegs := rfl
@[simp] theorem State.setFbuf_jobs (d : Nat) (b : FaultBuf) : (s.setFbuf d b).jobs = s.jobs := rfl
@[simp] theorem State.setFbuf_sup (d : Nat) (b : FaultBuf) : (s.setFbuf d b).sup = s.sup := rfl
@[simp] theorem State.setFbuf_coreDone (d : Nat) (b : FaultBuf) : (s.setFbuf d b).coreDone = s.coreDone := rfl
@[simp] theorem State.setFbuf_stopped (d : Nat) (b : FaultBuf) : (s.setFbuf d b).stopped = s.stopped := rfl
@[simp] theorem State.setFbuf_busMaster (d : Nat) (b : FaultBuf) : (s.setFbuf d b).busMaster = s.busMaster := rfl
@[simp] theorem State.setFbuf_notices (d : Nat) (b : FaultBuf) : (s.setFbuf d b).notices = s.notices := rfl
@[simp] theorem State.setFbuf_latch (d : Nat) (b : FaultBuf) : (s.setFbuf d b).latch = s.latch := rfl
@[simp] theorem State.setFbuf_bu (d : Nat) (b : FaultBuf) : (s.setFbuf d b).bu = s.bu := rfl
@[simp] theorem State.setFbuf_recov (d : Nat) (b : FaultBuf) : (s.setFbuf d b).recov = s.recov := rfl
@[simp] theorem State.setFbuf_recq (d : Nat) (b : FaultBuf) : (s.setFbuf d b).recq = s.recq := rfl
@[simp] theorem State.setFbuf_caughtRecs (d : Nat) (b : FaultBuf) : (s.setFbuf d b).caughtRecs = s.caughtRecs := rfl
@[simp] theorem State.setFbuf_missed (d : Nat) (b : FaultBuf) : (s.setFbuf d b).missed = s.missed := rfl
@[simp] theorem State.setFbuf_rst (d : Nat) (b : FaultBuf) : (s.setFbuf d b).rst = s.rst := rfl
@[simp] theorem State.setFbuf_guyOpen (d : Nat) (b : FaultBuf) : (s.setFbuf d b).guyOpen = s.guyOpen := rfl
@[simp] theorem State.setFbuf_beat (d : Nat) (b : FaultBuf) : (s.setFbuf d b).beat = s.beat := rfl
@[simp] theorem State.setFbuf_quote (d : Nat) (b : FaultBuf) : (s.setFbuf d b).quote = s.quote := rfl
@[simp] theorem State.setFbuf_trace (d : Nat) (b : FaultBuf) : (s.setFbuf d b).trace = s.trace := rfl
@[simp] theorem State.setFbuf_tap (d : Nat) (b : FaultBuf) : (s.setFbuf d b).tap = s.tap := rfl
@[simp] theorem State.setFbuf_pins (d : Nat) (b : FaultBuf) : (s.setFbuf d b).pins = s.pins := rfl
@[simp] theorem State.setFbuf_cap (d : Nat) (b : FaultBuf) : (s.setFbuf d b).cap = s.cap := rfl
@[simp] theorem State.setFbuf_spares (d : Nat) (b : FaultBuf) : (s.setFbuf d b).spares = s.spares := rfl
@[simp] theorem State.setFbuf_fusedSvn (d : Nat) (b : FaultBuf) : (s.setFbuf d b).fusedSvn = s.fusedSvn := rfl
@[simp] theorem State.setFbuf_revoked (d : Nat) (b : FaultBuf) : (s.setFbuf d b).revoked = s.revoked := rfl
@[simp] theorem State.setFbuf_reply (d : Nat) (b : FaultBuf) : (s.setFbuf d b).reply = s.reply := rfl
@[simp] theorem State.setFbuf_lastRec (d : Nat) (b : FaultBuf) : (s.setFbuf d b).lastRec = s.lastRec := rfl
@[simp] theorem State.setFbuf_free (d : Nat) (b : FaultBuf) : (s.setFbuf d b).free = s.free := rfl

@[simp] theorem State.setChan_pending (c : Nat) (x : Chan) : (s.setChan c x).pending = s.pending := rfl
@[simp] theorem State.setChan_ns (c : Nat) (x : Chan) : (s.setChan c x).ns = s.ns := rfl
@[simp] theorem State.setChan_half (c : Nat) (x : Chan) : (s.setChan c x).half = s.half := rfl
@[simp] theorem State.setChan_time (c : Nat) (x : Chan) : (s.setChan c x).time = s.time := rfl
@[simp] theorem State.setChan_regs (c : Nat) (x : Chan) : (s.setChan c x).regs = s.regs := rfl
@[simp] theorem State.setChan_cores (c : Nat) (x : Chan) : (s.setChan c x).cores = s.cores := rfl
@[simp] theorem State.setChan_mem (c : Nat) (x : Chan) : (s.setChan c x).mem = s.mem := rfl
@[simp] theorem State.setChan_tlb (c : Nat) (x : Chan) : (s.setChan c x).tlb = s.tlb := rfl
@[simp] theorem State.setChan_sealed (c : Nat) (x : Chan) : (s.setChan c x).sealed = s.sealed := rfl
@[simp] theorem State.setChan_keys (c : Nat) (x : Chan) : (s.setChan c x).keys = s.keys := rfl
@[simp] theorem State.setChan_cellars (c : Nat) (x : Chan) : (s.setChan c x).cellars = s.cellars := rfl
@[simp] theorem State.setChan_reqs (c : Nat) (x : Chan) : (s.setChan c x).reqs = s.reqs := rfl
@[simp] theorem State.setChan_inreqs (c : Nat) (x : Chan) : (s.setChan c x).inreqs = s.inreqs := rfl
@[simp] theorem State.setChan_ports (c : Nat) (x : Chan) : (s.setChan c x).ports = s.ports := rfl
@[simp] theorem State.setChan_inbox (c : Nat) (x : Chan) : (s.setChan c x).inbox = s.inbox := rfl
@[simp] theorem State.setChan_linkMap (c : Nat) (x : Chan) : (s.setChan c x).linkMap = s.linkMap := rfl
@[simp] theorem State.setChan_lsSeen (c : Nat) (x : Chan) : (s.setChan c x).lsSeen = s.lsSeen := rfl
@[simp] theorem State.setChan_conns (c : Nat) (x : Chan) : (s.setChan c x).conns = s.conns := rfl
@[simp] theorem State.setChan_taken (c : Nat) (x : Chan) : (s.setChan c x).taken = s.taken := rfl
@[simp] theorem State.setChan_pairOut (c : Nat) (x : Chan) : (s.setChan c x).pairOut = s.pairOut := rfl
@[simp] theorem State.setChan_pairIn (c : Nat) (x : Chan) : (s.setChan c x).pairIn = s.pairIn := rfl
@[simp] theorem State.setChan_tim (c : Nat) (x : Chan) : (s.setChan c x).tim = s.tim := rfl
@[simp] theorem State.setChan_pegs (c : Nat) (x : Chan) : (s.setChan c x).pegs = s.pegs := rfl
@[simp] theorem State.setChan_fbufs (c : Nat) (x : Chan) : (s.setChan c x).fbufs = s.fbufs := rfl
@[simp] theorem State.setChan_jobs (c : Nat) (x : Chan) : (s.setChan c x).jobs = s.jobs := rfl
@[simp] theorem State.setChan_sup (c : Nat) (x : Chan) : (s.setChan c x).sup = s.sup := rfl
@[simp] theorem State.setChan_coreDone (c : Nat) (x : Chan) : (s.setChan c x).coreDone = s.coreDone := rfl
@[simp] theorem State.setChan_stopped (c : Nat) (x : Chan) : (s.setChan c x).stopped = s.stopped := rfl
@[simp] theorem State.setChan_busMaster (c : Nat) (x : Chan) : (s.setChan c x).busMaster = s.busMaster := rfl
@[simp] theorem State.setChan_notices (c : Nat) (x : Chan) : (s.setChan c x).notices = s.notices := rfl
@[simp] theorem State.setChan_latch (c : Nat) (x : Chan) : (s.setChan c x).latch = s.latch := rfl
@[simp] theorem State.setChan_bu (c : Nat) (x : Chan) : (s.setChan c x).bu = s.bu := rfl
@[simp] theorem State.setChan_recov (c : Nat) (x : Chan) : (s.setChan c x).recov = s.recov := rfl
@[simp] theorem State.setChan_recq (c : Nat) (x : Chan) : (s.setChan c x).recq = s.recq := rfl
@[simp] theorem State.setChan_caughtRecs (c : Nat) (x : Chan) : (s.setChan c x).caughtRecs = s.caughtRecs := rfl
@[simp] theorem State.setChan_missed (c : Nat) (x : Chan) : (s.setChan c x).missed = s.missed := rfl
@[simp] theorem State.setChan_rst (c : Nat) (x : Chan) : (s.setChan c x).rst = s.rst := rfl
@[simp] theorem State.setChan_guyOpen (c : Nat) (x : Chan) : (s.setChan c x).guyOpen = s.guyOpen := rfl
@[simp] theorem State.setChan_beat (c : Nat) (x : Chan) : (s.setChan c x).beat = s.beat := rfl
@[simp] theorem State.setChan_quote (c : Nat) (x : Chan) : (s.setChan c x).quote = s.quote := rfl
@[simp] theorem State.setChan_trace (c : Nat) (x : Chan) : (s.setChan c x).trace = s.trace := rfl
@[simp] theorem State.setChan_tap (c : Nat) (x : Chan) : (s.setChan c x).tap = s.tap := rfl
@[simp] theorem State.setChan_pins (c : Nat) (x : Chan) : (s.setChan c x).pins = s.pins := rfl
@[simp] theorem State.setChan_cap (c : Nat) (x : Chan) : (s.setChan c x).cap = s.cap := rfl
@[simp] theorem State.setChan_spares (c : Nat) (x : Chan) : (s.setChan c x).spares = s.spares := rfl
@[simp] theorem State.setChan_fusedSvn (c : Nat) (x : Chan) : (s.setChan c x).fusedSvn = s.fusedSvn := rfl
@[simp] theorem State.setChan_revoked (c : Nat) (x : Chan) : (s.setChan c x).revoked = s.revoked := rfl
@[simp] theorem State.setChan_reply (c : Nat) (x : Chan) : (s.setChan c x).reply = s.reply := rfl
@[simp] theorem State.setChan_lastRec (c : Nat) (x : Chan) : (s.setChan c x).lastRec = s.lastRec := rfl
@[simp] theorem State.setChan_free (c : Nat) (x : Chan) : (s.setChan c x).free = s.free := rfl

@[simp] theorem State.setPort_pending (g : Nat) (p : Port) : (s.setPort g p).pending = s.pending := rfl
@[simp] theorem State.setPort_ns (g : Nat) (p : Port) : (s.setPort g p).ns = s.ns := rfl
@[simp] theorem State.setPort_half (g : Nat) (p : Port) : (s.setPort g p).half = s.half := rfl
@[simp] theorem State.setPort_time (g : Nat) (p : Port) : (s.setPort g p).time = s.time := rfl
@[simp] theorem State.setPort_regs (g : Nat) (p : Port) : (s.setPort g p).regs = s.regs := rfl
@[simp] theorem State.setPort_cores (g : Nat) (p : Port) : (s.setPort g p).cores = s.cores := rfl
@[simp] theorem State.setPort_mem (g : Nat) (p : Port) : (s.setPort g p).mem = s.mem := rfl
@[simp] theorem State.setPort_tlb (g : Nat) (p : Port) : (s.setPort g p).tlb = s.tlb := rfl
@[simp] theorem State.setPort_sealed (g : Nat) (p : Port) : (s.setPort g p).sealed = s.sealed := rfl
@[simp] theorem State.setPort_keys (g : Nat) (p : Port) : (s.setPort g p).keys = s.keys := rfl
@[simp] theorem State.setPort_cellars (g : Nat) (p : Port) : (s.setPort g p).cellars = s.cellars := rfl
@[simp] theorem State.setPort_reqs (g : Nat) (p : Port) : (s.setPort g p).reqs = s.reqs := rfl
@[simp] theorem State.setPort_inreqs (g : Nat) (p : Port) : (s.setPort g p).inreqs = s.inreqs := rfl
@[simp] theorem State.setPort_inbox (g : Nat) (p : Port) : (s.setPort g p).inbox = s.inbox := rfl
@[simp] theorem State.setPort_chans (g : Nat) (p : Port) : (s.setPort g p).chans = s.chans := rfl
@[simp] theorem State.setPort_linkMap (g : Nat) (p : Port) : (s.setPort g p).linkMap = s.linkMap := rfl
@[simp] theorem State.setPort_lsSeen (g : Nat) (p : Port) : (s.setPort g p).lsSeen = s.lsSeen := rfl
@[simp] theorem State.setPort_conns (g : Nat) (p : Port) : (s.setPort g p).conns = s.conns := rfl
@[simp] theorem State.setPort_taken (g : Nat) (p : Port) : (s.setPort g p).taken = s.taken := rfl
@[simp] theorem State.setPort_pairOut (g : Nat) (p : Port) : (s.setPort g p).pairOut = s.pairOut := rfl
@[simp] theorem State.setPort_pairIn (g : Nat) (p : Port) : (s.setPort g p).pairIn = s.pairIn := rfl
@[simp] theorem State.setPort_tim (g : Nat) (p : Port) : (s.setPort g p).tim = s.tim := rfl
@[simp] theorem State.setPort_pegs (g : Nat) (p : Port) : (s.setPort g p).pegs = s.pegs := rfl
@[simp] theorem State.setPort_fbufs (g : Nat) (p : Port) : (s.setPort g p).fbufs = s.fbufs := rfl
@[simp] theorem State.setPort_jobs (g : Nat) (p : Port) : (s.setPort g p).jobs = s.jobs := rfl
@[simp] theorem State.setPort_sup (g : Nat) (p : Port) : (s.setPort g p).sup = s.sup := rfl
@[simp] theorem State.setPort_coreDone (g : Nat) (p : Port) : (s.setPort g p).coreDone = s.coreDone := rfl
@[simp] theorem State.setPort_stopped (g : Nat) (p : Port) : (s.setPort g p).stopped = s.stopped := rfl
@[simp] theorem State.setPort_busMaster (g : Nat) (p : Port) : (s.setPort g p).busMaster = s.busMaster := rfl
@[simp] theorem State.setPort_notices (g : Nat) (p : Port) : (s.setPort g p).notices = s.notices := rfl
@[simp] theorem State.setPort_latch (g : Nat) (p : Port) : (s.setPort g p).latch = s.latch := rfl
@[simp] theorem State.setPort_bu (g : Nat) (p : Port) : (s.setPort g p).bu = s.bu := rfl
@[simp] theorem State.setPort_recov (g : Nat) (p : Port) : (s.setPort g p).recov = s.recov := rfl
@[simp] theorem State.setPort_recq (g : Nat) (p : Port) : (s.setPort g p).recq = s.recq := rfl
@[simp] theorem State.setPort_caughtRecs (g : Nat) (p : Port) : (s.setPort g p).caughtRecs = s.caughtRecs := rfl
@[simp] theorem State.setPort_missed (g : Nat) (p : Port) : (s.setPort g p).missed = s.missed := rfl
@[simp] theorem State.setPort_rst (g : Nat) (p : Port) : (s.setPort g p).rst = s.rst := rfl
@[simp] theorem State.setPort_guyOpen (g : Nat) (p : Port) : (s.setPort g p).guyOpen = s.guyOpen := rfl
@[simp] theorem State.setPort_beat (g : Nat) (p : Port) : (s.setPort g p).beat = s.beat := rfl
@[simp] theorem State.setPort_quote (g : Nat) (p : Port) : (s.setPort g p).quote = s.quote := rfl
@[simp] theorem State.setPort_trace (g : Nat) (p : Port) : (s.setPort g p).trace = s.trace := rfl
@[simp] theorem State.setPort_tap (g : Nat) (p : Port) : (s.setPort g p).tap = s.tap := rfl
@[simp] theorem State.setPort_pins (g : Nat) (p : Port) : (s.setPort g p).pins = s.pins := rfl
@[simp] theorem State.setPort_cap (g : Nat) (p : Port) : (s.setPort g p).cap = s.cap := rfl
@[simp] theorem State.setPort_spares (g : Nat) (p : Port) : (s.setPort g p).spares = s.spares := rfl
@[simp] theorem State.setPort_fusedSvn (g : Nat) (p : Port) : (s.setPort g p).fusedSvn = s.fusedSvn := rfl
@[simp] theorem State.setPort_revoked (g : Nat) (p : Port) : (s.setPort g p).revoked = s.revoked := rfl
@[simp] theorem State.setPort_reply (g : Nat) (p : Port) : (s.setPort g p).reply = s.reply := rfl
@[simp] theorem State.setPort_lastRec (g : Nat) (p : Port) : (s.setPort g p).lastRec = s.lastRec := rfl
@[simp] theorem State.setPort_free (g : Nat) (p : Port) : (s.setPort g p).free = s.free := rfl

@[simp] theorem State.tickFree_pending : (s.tickFree).pending = s.pending := rfl
@[simp] theorem State.tickFree_ns : (s.tickFree).ns = s.ns := rfl
@[simp] theorem State.tickFree_half : (s.tickFree).half = s.half := rfl
@[simp] theorem State.tickFree_time : (s.tickFree).time = s.time := rfl
@[simp] theorem State.tickFree_regs : (s.tickFree).regs = s.regs := rfl
@[simp] theorem State.tickFree_cores : (s.tickFree).cores = s.cores := rfl
@[simp] theorem State.tickFree_mem : (s.tickFree).mem = s.mem := rfl
@[simp] theorem State.tickFree_tlb : (s.tickFree).tlb = s.tlb := rfl
@[simp] theorem State.tickFree_sealed : (s.tickFree).sealed = s.sealed := rfl
@[simp] theorem State.tickFree_keys : (s.tickFree).keys = s.keys := rfl
@[simp] theorem State.tickFree_cellars : (s.tickFree).cellars = s.cellars := rfl
@[simp] theorem State.tickFree_reqs : (s.tickFree).reqs = s.reqs := rfl
@[simp] theorem State.tickFree_inreqs : (s.tickFree).inreqs = s.inreqs := rfl
@[simp] theorem State.tickFree_ports : (s.tickFree).ports = s.ports := rfl
@[simp] theorem State.tickFree_inbox : (s.tickFree).inbox = s.inbox := rfl
@[simp] theorem State.tickFree_chans : (s.tickFree).chans = s.chans := rfl
@[simp] theorem State.tickFree_linkMap : (s.tickFree).linkMap = s.linkMap := rfl
@[simp] theorem State.tickFree_lsSeen : (s.tickFree).lsSeen = s.lsSeen := rfl
@[simp] theorem State.tickFree_conns : (s.tickFree).conns = s.conns := rfl
@[simp] theorem State.tickFree_taken : (s.tickFree).taken = s.taken := rfl
@[simp] theorem State.tickFree_pairOut : (s.tickFree).pairOut = s.pairOut := rfl
@[simp] theorem State.tickFree_pairIn : (s.tickFree).pairIn = s.pairIn := rfl
@[simp] theorem State.tickFree_tim : (s.tickFree).tim = s.tim := rfl
@[simp] theorem State.tickFree_pegs : (s.tickFree).pegs = s.pegs := rfl
@[simp] theorem State.tickFree_fbufs : (s.tickFree).fbufs = s.fbufs := rfl
@[simp] theorem State.tickFree_jobs : (s.tickFree).jobs = s.jobs := rfl
@[simp] theorem State.tickFree_sup : (s.tickFree).sup = s.sup := rfl
@[simp] theorem State.tickFree_coreDone : (s.tickFree).coreDone = s.coreDone := rfl
@[simp] theorem State.tickFree_stopped : (s.tickFree).stopped = s.stopped := rfl
@[simp] theorem State.tickFree_busMaster : (s.tickFree).busMaster = s.busMaster := rfl
@[simp] theorem State.tickFree_notices : (s.tickFree).notices = s.notices := rfl
@[simp] theorem State.tickFree_latch : (s.tickFree).latch = s.latch := rfl
@[simp] theorem State.tickFree_bu : (s.tickFree).bu = s.bu := rfl
@[simp] theorem State.tickFree_recov : (s.tickFree).recov = s.recov := rfl
@[simp] theorem State.tickFree_recq : (s.tickFree).recq = s.recq := rfl
@[simp] theorem State.tickFree_caughtRecs : (s.tickFree).caughtRecs = s.caughtRecs := rfl
@[simp] theorem State.tickFree_missed : (s.tickFree).missed = s.missed := rfl
@[simp] theorem State.tickFree_rst : (s.tickFree).rst = s.rst := rfl
@[simp] theorem State.tickFree_guyOpen : (s.tickFree).guyOpen = s.guyOpen := rfl
@[simp] theorem State.tickFree_beat : (s.tickFree).beat = s.beat := rfl
@[simp] theorem State.tickFree_quote : (s.tickFree).quote = s.quote := rfl
@[simp] theorem State.tickFree_trace : (s.tickFree).trace = s.trace := rfl
@[simp] theorem State.tickFree_tap : (s.tickFree).tap = s.tap := rfl
@[simp] theorem State.tickFree_pins : (s.tickFree).pins = s.pins := rfl
@[simp] theorem State.tickFree_cap : (s.tickFree).cap = s.cap := rfl
@[simp] theorem State.tickFree_spares : (s.tickFree).spares = s.spares := rfl
@[simp] theorem State.tickFree_fusedSvn : (s.tickFree).fusedSvn = s.fusedSvn := rfl
@[simp] theorem State.tickFree_revoked : (s.tickFree).revoked = s.revoked := rfl
@[simp] theorem State.tickFree_reply : (s.tickFree).reply = s.reply := rfl
@[simp] theorem State.tickFree_lastRec : (s.tickFree).lastRec = s.lastRec := rfl

end Sys2Proof.Machine
end

