-- ==== Sys2Proof/Laws/Core.lean ====
section
/-! SUPPORT. Reading cores, engines, registers and memory after they are written, and what the shared operations of issue
leave alone. -/
namespace Sys2Proof.Machine
open Sys2Proof.Laws.Tab

variable (s : State)

/-! ### Reads after writes -/

theorem State.core_setCore (c d : Nat) (x : Core) : (s.setCore c x).core d = if d = c then x else s.core d :=
  get_set _ _ _ _ _

@[simp] theorem State.core_setCore_self (c : Nat) (x : Core) : (s.setCore c x).core c = x := by simp [core_setCore]

theorem Core.eng_setEng (k : Core) (e f : Nat) (x : Eng) : (k.setEng e x).eng f = if f = e then x else k.eng f :=
  get_set _ _ _ _ _

@[simp] theorem Core.eng_setEng_self (k : Core) (e : Nat) (x : Eng) : (k.setEng e x).eng e = x := by simp [eng_setEng]

theorem State.eng_setEng (c e d f : Nat) (x : Eng) :
    (s.setEng c e x).eng d f = if d = c ∧ f = e then x else s.eng d f := by
  by_cases hd : d = c
  · subst hd; simp [State.setEng, State.eng, Core.eng_setEng]
  · simp [State.setEng, State.eng, State.core_setCore, hd]

@[simp] theorem State.eng_setEng_self (c e : Nat) (x : Eng) : (s.setEng c e x).eng c e = x := by simp [eng_setEng]

theorem State.reg_setReg (a b : Nat) (v : W64) : (s.setReg a v).reg b = if b = a then v else s.reg b := get_set _ _ _ _ _

@[simp] theorem State.reg_setReg_self (a : Nat) (v : W64) : (s.setReg a v).reg a = v := by simp [reg_setReg]

theorem State.reg_setFld (a lo len v b : Nat) (h : b ≠ a) : (s.setFld a lo len v).reg b = s.reg b := by
  simp [State.setFld, State.setRegN, State.reg_setReg, h]

theorem State.rd8_wr (k : Nat) (bs : List Byte) (j : Nat) (h : j < k ∨ k + bs.length ≤ j) : (s.wr k bs).rd8 j = s.rd8 j :=
  get_setRange _ _ _ _ _ h

/-! ### Frames -/

theorem CoreOnly.refl : CoreOnly s s := rfl

theorem CoreOnly.trans {s t u : State} (h : CoreOnly s t) (g : CoreOnly t u) : CoreOnly s u := by
  unfold CoreOnly at *; rw [g]; rw [h]

theorem CoreOnly.setCore (c : Nat) (x : Core) : CoreOnly s (s.setCore c x) := rfl
theorem CoreOnly.setReg (a : Nat) (v : W64) : CoreOnly s (s.setReg a v) := rfl
theorem CoreOnly.setFld (a lo len v : Nat) : CoreOnly s (s.setFld a lo len v) := rfl

theorem CoreOnly.mem {s t : State} (h : CoreOnly s t) : t.mem = s.mem := by rw [h]
theorem CoreOnly.pegs {s t : State} (h : CoreOnly s t) : t.pegs = s.pegs := by rw [h]

theorem CoreOnly.traceAdd (u : W32) (k : Nat) (a b : W64) : CoreOnly s (s.traceAdd u k a b) := by
  unfold State.traceAdd; dsimp only; split
  · rfl
  · split <;> rfl

theorem CoreOnly.traceIssue (c e pc : Nat) : CoreOnly s (s.traceIssue c e pc) := by
  unfold State.traceIssue; split
  · exact CoreOnly.traceAdd _ _ _ _ _
  · rfl

theorem CoreOnly.pmu (c ev sub n : Nat) : CoreOnly s (s.pmu c ev sub n) := by
  unfold State.pmu
  split
  · rfl
  · generalize List.range 4 = l
    revert s
    induction l with
    | nil => intro s; rfl
    | cons i l ih =>
      intro s
      simp only [List.foldl_cons]
      refine CoreOnly.trans ?_ (ih _)
      split
      · exact CoreOnly.setFld _ _ _ _ _
      · rfl

@[simp] theorem State.traceAdd_cores (u : W32) (k : Nat) (a b : W64) : (s.traceAdd u k a b).cores = s.cores := by
  unfold State.traceAdd; dsimp only; split
  · rfl
  · split <;> rfl

@[simp] theorem State.traceAdd_regs (u : W32) (k : Nat) (a b : W64) : (s.traceAdd u k a b).regs = s.regs := by
  unfold State.traceAdd; dsimp only; split
  · rfl
  · split <;> rfl

@[simp] theorem State.traceIssue_cores (c e pc : Nat) : (s.traceIssue c e pc).cores = s.cores := by
  unfold State.traceIssue; split <;> simp

@[simp] theorem State.traceIssue_regs (c e pc : Nat) : (s.traceIssue c e pc).regs = s.regs := by
  unfold State.traceIssue; split <;> simp

@[simp] theorem State.traceTally_cores (c k v : Nat) (amt : Int) : (s.traceTally c k v amt).cores = s.cores := by
  unfold State.traceTally; split <;> simp

@[simp] theorem State.pmu_cores (c ev sub n : Nat) : (s.pmu c ev sub n).cores = s.cores := by
  have h := CoreOnly.pmu s c ev sub n
  unfold State.pmu at *
  split
  · rfl
  · clear h
    generalize List.range 4 = l
    revert s
    induction l with
    | nil => intro s; rfl
    | cons i l ih =>
      intro s
      simp only [List.foldl_cons]
      rw [ih]
      split
      · exact State.setFld_cores _ _ _ _ _
      · rfl

/-- A counter event changes only the counters of its core. -/
theorem State.pmu_reg (c ev sub n off : Nat) (h : ¬ PmuOf c off) : (s.pmu c ev sub n).reg off = s.reg off := by
  unfold State.pmu
  split
  · rfl
  · have hl : ∀ i ∈ List.range 4, i < 4 := fun i hi => by simpa using hi
    generalize List.range 4 = l at hl
    revert s
    induction l with
    | nil => intro s; rfl
    | cons i l ih =>
      intro s
      simp only [List.foldl_cons]
      rw [ih (fun j hj => hl j (by simp [hj]))]
      split
      · exact State.reg_setFld _ _ _ _ _ _ (fun he => h ⟨i, hl i (by simp), he⟩)
      · rfl

end Sys2Proof.Machine
end

