-- ==== Sys2Proof/Laws/Issue.lean ====
section
/-! SUPPORT. What the issue of an instruction does: when the front end lets it pass, and what an issue without signals leaves. -/
namespace Sys2Proof.Machine
open Sys2Proof.Laws.Tab

theorem State.front_of_atWord {s : State} {c e word : Nat} (h : s.atWord c e word = true) : s.front c e word = .ok := by
  simp only [State.atWord, Bool.and_eq_true, List.all_eq_true, bne_iff_ne, beq_iff_eq, decide_eq_true_eq] at h
  obtain ⟨⟨⟨⟨h1, h2⟩, h3⟩, h4⟩, h5⟩ := h
  have h3' : (s.eng c e).out.any (fun i => i.opc == haltOpc e) = false := by
    simpa [List.any_eq_false] using h3
  simp [State.front, h1, Nat.not_lt.mpr h2, h3', h4, h5]

/-- An engine instruction that may issue does so: the state after its own part, its takes, and the issue itself. -/
theorem State.issue_go {s t : State} {c e opc : Nat} {w : EngW} {own : Bool} {body : State → IssueRes} {target : Option Nat}
    {left : Option Issued} (h : s.mayIssue c e opc w = true) (ho : own = true) (hb : body s = .go t target left) :
    s.issue c e opc w own body = .next (s.issued t c e w target left) := by
  simp only [State.mayIssue, Bool.and_eq_true] at h
  obtain ⟨⟨h1, h2⟩, h3⟩ := h
  simp [State.issue, State.front_of_atWord h1, ho, h2, h3, hb, State.issued]

theorem State.regsUse_ok {s : State} {c : Nat} : ∀ {l : List Nat}, s.regsReady c l = true → s.regsUse c l = .ok := by
  intro l
  induction l with
  | nil => intro _; rfl
  | cons n l ih =>
    intro h
    simp only [State.regsReady, List.all_cons, Bool.and_eq_true] at h
    have hn : s.regUse c n = .ok := by
      unfold State.regUse
      rw [if_pos]
      simpa using h.1
    simp only [State.regsUse, hn]
    exact ih h.2

theorem State.gate_ok {s : State} {c : Nat} (h : s.gateOpen c = true) : s.storeGate c = .ok := by
  simp only [State.gateOpen, Bool.and_eq_true, List.isEmpty_iff, List.all_eq_true, Bool.not_eq_true'] at h
  have h2 : (s.core c).stores.any (·.held) = false := by simpa [List.any_eq_false] using h.2
  simp [State.storeGate, h.1, h2]

/-- A control-core instruction that may issue does so. -/
theorem State.ctl_go {s t : State} {c word : Nat} {own gate : Bool} {stall : Option EngSt} {regs : List Nat}
    {body : State → IssueRes} {post : State → State} {target : Option Nat} {left : Option Issued}
    (h : s.atWord c 5 word = true) (ho : own = true) (hg : gate = true → s.gateOpen c = true) (hs : stall = none)
    (hr : s.regsReady c regs = true) (hb : body s = .go t target left) :
    s.ctl c word own gate stall regs body post = .next (post (s.ctlIssued t c target left)) := by
  have hgate : (if gate = true then s.storeGate c else RegUse.ok) = .ok := by
    cases gate with
    | true => simp [State.gate_ok (hg rfl)]
    | false => simp
  simp [State.ctl, State.front_of_atWord h, ho, hgate, hs, State.regsUse_ok hr, hb, State.ctlIssued]

@[simp] theorem State.signals_zero (s : State) (c e pc : Nat) (p : Bool) : s.signals c e pc p 0 0 = s := by
  simp [State.signals, State.signal]

theorem State.finish_zero (t : State) (c e pc : Nat) (target : Option Nat) (left : Option Issued) :
    t.finish c e pc 0 0 target left = (((t.setCore c ((t.core c).afterIssue e target left)).traceIssue c e pc).pmu c 2 e 1) := by
  cases left <;> simp only [State.finish, State.signals_zero]

/-- An issue without signals: the core after it. -/
theorem State.finish_core (t : State) (c e pc : Nat) (target : Option Nat) (left : Option Issued) (d : Nat) :
    (t.finish c e pc 0 0 target left).core d = if d = c then (t.core c).afterIssue e target left else t.core d := by
  have h : ∀ u v : State, u.cores = v.cores → u.core d = v.core d := fun u v e => by unfold State.core; rw [e]
  rw [State.finish_zero, h _ _ (State.pmu_cores _ _ _ _ _), h _ _ (State.traceIssue_cores _ _ _ _), State.core_setCore]

theorem State.finish_only (t : State) (c e pc : Nat) (target : Option Nat) (left : Option Issued) :
    CoreOnly t (t.finish c e pc 0 0 target left) := by
  rw [State.finish_zero]
  exact ((CoreOnly.setCore _ _ _).trans (CoreOnly.traceIssue _ _ _ _)).trans (CoreOnly.pmu _ _ _ _ _)

theorem State.finish_reg (t : State) (c e pc : Nat) (target : Option Nat) (left : Option Issued) (off : Nat) (h : ¬ PmuOf c off) :
    (t.finish c e pc 0 0 target left).reg off = t.reg off := by
  have hr : ∀ u v : State, u.regs = v.regs → u.reg off = v.reg off := fun u v e => by unfold State.reg; rw [e]
  rw [State.finish_zero, State.pmu_reg _ _ _ _ _ _ h]
  exact hr _ _ (by simp)

/-- What an issue of engine e of core c without signals makes of the state. -/
structure Finished (t u : State) (c e pc : Nat) (target : Option Nat) (left : Option Issued) : Prop where
  core : u.core c = (t.core c).afterIssue e target left
  others : OtherCores t u c
  only : CoreOnly t u
  regs : RegsOnly t u (PmuOf c)

theorem State.finish_spec (t : State) (c e pc : Nat) (target : Option Nat) (left : Option Issued) :
    Finished t (t.finish c e pc 0 0 target left) c e pc target left :=
  ⟨(State.finish_core t c e pc target left c).trans (if_pos rfl),
   fun d hd => (State.finish_core t c e pc target left d).trans (if_neg hd),
   State.finish_only t c e pc target left, fun off h => State.finish_reg t c e pc target left off h⟩

theorem Finished.eng {t u : State} {c e pc : Nat} {target : Option Nat} {left : Option Issued} (h : Finished t u c e pc target left)
    (f : Nat) : u.eng c f = if f = e then (t.eng c e).moved e (t.core c).cycles target left else t.eng c f :=
  (congrArg (fun k => Core.eng k f) h.core).trans (Core.eng_setEng _ _ _ _)

end Sys2Proof.Machine
end

