-- ==== Sys2Proof/Laws/Control.lean ====
section
/-! SUPPORT. What the control core's shared operations do once an instruction issues. -/
namespace Sys2Proof.Machine
open Sys2Proof.Laws.Tab

theorem Eng.moved_seq (k : Eng) (e n : Nat) : (k.moved e n none none).st = .issuing ∧
    (k.moved e n none none).pc = (advance (insnSize e) k.pc k.loops).2.1 ∧
    (k.moved e n none none).loops =
      (if k.refetches e then loseLoops true (advance (insnSize e) k.pc k.loops).1 else (advance (insnSize e) k.pc k.loops).1) := by
  unfold Eng.moved Eng.goNext
  by_cases h : k.refetches e = true <;> simp [h]

/-- What a control-core instruction without a target leaves when its own part changed only the core's registers. -/
theorem ctl_seq {s t u : State} {c : Nat} (hu : Finished t u c 5 (s.eng c 5).pc none none) (ho : CoreOnly s t) (hr : t.regs = s.regs)
    (hc : OtherCores s t c) (he : ∀ e, t.eng c e = s.eng c e)
    (hk : t.core c = { s.core c with g := (t.core c).g, gpend := (t.core c).gpend }) :
    InSequence s u c 5 ∧ CtlFrame s u c ∧ (u.core c).g = (t.core c).g ∧ (u.core c).gpend = (t.core c).gpend := by
  have h5 := hu.eng 5
  rw [if_pos rfl] at h5
  refine ⟨?_, ⟨ho.trans hu.only, ?_, ?_, ?_, ?_⟩, ?_, ?_⟩
  · unfold InSequence; rw [h5, ← he 5]; exact Eng.moved_seq _ _ _
  · intro d hd; rw [hu.others d hd]; exact hc d hd
  · intro off h; rw [hu.regs off h]; unfold State.reg; rw [hr]
  · intro e h; rw [hu.eng e, if_neg h]; exact he e
  · rw [hu.core, hk]; rfl
  · rw [hu.core]; rfl
  · rw [hu.core]; rfl

theorem State.g_of {s t : State} {c : Nat} (h : (t.core c).g = (s.core c).g) (n : Nat) : t.g c n = s.g c n := by
  unfold State.g; rw [h]

theorem State.setG_frame (s : State) (c gd : Nat) (v : W64) (p : Pend) :
    CoreOnly s (s.setG c gd v p) ∧ (s.setG c gd v p).regs = s.regs ∧ OtherCores s (s.setG c gd v p) c ∧
    (∀ e, (s.setG c gd v p).eng c e = s.eng c e) ∧
    (s.setG c gd v p).core c = { s.core c with g := ((s.setG c gd v p).core c).g, gpend := ((s.setG c gd v p).core c).gpend } := by
  unfold State.setG
  split
  · exact ⟨rfl, rfl, fun _ _ => rfl, fun _ => rfl, rfl⟩
  · refine ⟨rfl, rfl, fun d hd => by simp [State.core_setCore, hd], fun e => ?_, ?_⟩
    · simp [State.eng, Core.eng]
    · simp

theorem State.setG_g (s : State) (c gd : Nat) (v : W64) (p : Pend) (n : Nat) :
    (s.setG c gd v p).g c n = if n = gd ∧ n ≠ 0 then v else s.g c n := by
  unfold State.setG
  by_cases h0 : gd = 0
  · rw [if_pos h0, if_neg (by omega)]
  · by_cases hn : n = 0
    · simp [hn, State.g]
    · simp [State.g, h0, hn, get_set]

theorem State.setG_gpend (s : State) (c gd : Nat) (v : W64) (p : Pend) (n : Nat) :
    (s.setG c gd v p).gpend c n = if n = gd ∧ n ≠ 0 then p else s.gpend c n := by
  unfold State.setG
  by_cases h0 : gd = 0
  · rw [if_pos h0, if_neg (by omega)]
  · by_cases hn : n = gd
    · subst hn; simp [State.gpend, h0]
    · simp [State.gpend, h0, hn, get_set]

theorem State.gpend_of {s t : State} {c : Nat} (h : (t.core c).gpend = (s.core c).gpend) (n : Nat) : t.gpend c n = s.gpend c n := by
  unfold State.gpend; rw [h]

/-- A register written by an instruction that goes on in sequence. -/
theorem result_computes (s : State) (c gd : Nat) (v : W64) (lat : Nat) :
    CtlComputes s (s.ctlIssued (s.result c gd v lat) c none none) c gd v lat := by
  have h := State.setG_frame s c gd v (.fixed ((s.core c).cycles + lat))
  have hg := State.setG_g s c gd v (.fixed ((s.core c).cycles + lat))
  have hp := State.setG_gpend s c gd v (.fixed ((s.core c).cycles + lat))
  have hu := State.finish_spec (s.result c gd v lat) c 5 (s.eng c 5).pc none none
  unfold State.ctlIssued
  generalize (s.result c gd v lat).finish c 5 (s.eng c 5).pc 0 0 none none = u at *
  unfold State.result at hu
  generalize s.setG c gd v (.fixed ((s.core c).cycles + lat)) = t at *
  obtain ⟨h1, h2, h3, h4⟩ := ctl_seq hu h.1 h.2.1 h.2.2.1 h.2.2.2.1 h.2.2.2.2
  refine ⟨⟨fun n => ?_, fun hz => ?_, fun n hn => ?_⟩, h1, h2⟩
  · rw [State.g_of h3, hg]
  · rw [State.gpend_of h4, hp, if_pos ⟨rfl, hz⟩]
  · rw [State.gpend_of h4, hp, if_neg (fun x => hn x.1)]

/-- An instruction that computes a register from registers, once it may issue. -/
theorem State.compute_spec {s : State} {c word : Nat} {own : Bool} (reads : List Nat) (gd lat : Nat) (f : State → W64)
    (h : s.atWord c 5 word = true) (ho : own = true) (hr : s.regsReady c (reads ++ [gd]) = true) :
    ∃ t, s.compute c word own reads gd lat f = .next t ∧ CtlComputes s t c gd (f s) lat := by
  refine ⟨s.ctlIssued (s.result c gd (f s) lat) c none none, ?_, result_computes s c gd (f s) lat⟩
  have hgo := State.ctl_go (s := s) (t := s.result c gd (f s) lat) (c := c) (word := word) (own := own) (gate := false) (stall := none)
    (regs := reads ++ [gd]) (body := fun t => .go (t.result c gd (f t) lat) none none) (post := fun t => t) (target := none) (left := none)
    h ho (fun x => nomatch x) rfl hr rfl
  exact hgo

theorem State.immOp_spec {s : State} {c opc : Nat} {i : FmtI} {own : Bool} (f : W64 → W64) (ho : own = true)
    (h : s.atWord c 5 (encI opc i) = true) (hr : s.regsReady c [i.ga.toNat, i.gd.toNat] = true) :
    ∃ t, s.immOp c opc i own f = .next t ∧ CtlComputes s t c i.gd.toNat (f (s.g c i.ga.toNat)) 1 :=
  State.compute_spec [i.ga.toNat] i.gd.toNat 1 (fun t => f (t.g c i.ga.toNat)) h ho hr

end Sys2Proof.Machine
end

