-- ==== Sys2Proof/Laws/Net.lean ====
section
/-! SUPPORT. Payload encryption undone: the packet that a sender sealed reads in the clear at its destination (R570). -/
namespace Sys2Proof.Laws
open Sys2Proof Sys2Proof.Machine

theorem cryptByte_twice (key base i : Nat) (b : Byte) : cryptByte key base i (cryptByte key base i b) = b := by
  simp [cryptByte, BitVec.xor_assoc]

/-- Two byte lists that agree on their first 32 bytes agree on every header field. -/
theorem fieldAt_of_take (a b : List Byte) (h : a.take 32 = b.take 32) (i n : Nat) (hn : i + n ≤ 32) : fieldAt a i n = fieldAt b i n := by
  have key : ∀ l : List Byte, (l.drop i).take n = ((l.take 32).drop i).take n := by
    intro l
    rw [List.drop_take, List.take_take, Nat.min_eq_left (by omega)]
  unfold fieldAt
  rw [key a, key b, h]

/-- A packet with its payload encrypted under k: the payload, encrypted again, is the plain one. -/
theorem crypt_withPayload (p : Pkt) (k : Nat) (h3 : p.typ ≠ 3) (hlen : 32 + p.len ≤ p.bytes.length) :
    (p.withPayload (p.crypt k)).crypt k = p.payload := by
  have hpay : p.payload.length = p.len := by simp [Pkt.payload, h3]; omega
  have hc : (p.crypt k).length = p.len := by simp [Pkt.crypt, hpay]
  have htake : (p.withPayload (p.crypt k)).bytes.take 32 = p.bytes.take 32 := by
    simp [Pkt.withPayload, List.take_append, List.take_take]
    omega
  have hf : ∀ i n, i + n ≤ 32 → (p.withPayload (p.crypt k)).field i n = p.field i n := fun i n hn =>
    fieldAt_of_take _ _ htake i n hn
  have htyp : (p.withPayload (p.crypt k)).typ = p.typ := hf 4 1 (by omega)
  have hl : (p.withPayload (p.crypt k)).len = p.len := by unfold Pkt.len; rw [hf 6 2 (by omega)]
  have hbase : counterBase (p.withPayload (p.crypt k)) = counterBase p := by
    unfold counterBase Pkt.addr Pkt.tag
    rw [hf 2 2 (by omega), hf 0 2 (by omega), hf 16 6 (by omega), hf 24 4 (by omega), htyp]
  have hp : (p.withPayload (p.crypt k)).payload = p.crypt k := by
    unfold Pkt.payload
    rw [htyp, hl, if_neg h3]
    have h32 : (p.bytes.take 32).length = 32 := by simp; omega
    simp only [Pkt.withPayload, List.append_assoc]
    rw [List.drop_append_of_le_length (by omega), List.drop_eq_nil_of_le (by omega), List.nil_append, List.take_append_of_le_length (by omega),
      List.take_of_length_le (by omega)]
  unfold Pkt.crypt at *
  rw [hp, hbase]
  simp [List.mapIdx_mapIdx, Function.comp_def, cryptByte_twice]
  apply List.ext_getElem <;> simp

/-- A packet sealed by its sender is clear to the receiver that holds the key. -/
theorem clear_sealed (s : State) (p : Pkt) (k : Nat) (h3 : p.typ ≠ 3) (hlen : 32 + p.len ≤ p.bytes.length) (he : encrypted p.typ = true)
    (hk : p.key ≠ 0) (hs : s.guyKey (guyDie (p.gin % 8)) p.key = k) : s.clear (p.withPayload (p.crypt k)) = p.payload := by
  have htake : (p.withPayload (p.crypt k)).bytes.take 32 = p.bytes.take 32 := by
    simp [Pkt.withPayload, List.take_append, List.take_take]
    omega
  have htyp : (p.withPayload (p.crypt k)).typ = p.typ := fieldAt_of_take _ _ htake 4 1 (by omega)
  have hkey : (p.withPayload (p.crypt k)).key = p.key := by
    unfold Pkt.key Pkt.field
    rw [fieldAt_of_take _ _ htake 9 1 (by omega)]
  have hgin : (p.withPayload (p.crypt k)).gin = p.gin := rfl
  unfold State.clear
  rw [htyp, hkey, hgin, hs, he]
  simp [hk, crypt_withPayload p k h3 hlen]

end Sys2Proof.Laws
end

