-- ==== Sys2Proof/Laws/Rings.lean ====
section
/-! SUPPORT. Ring entries: what is written little-endian reads back, and an entry formed for a key and sequence number passes its check and its
tag test (R463, R572). -/
namespace Sys2Proof.Laws
open Sys2Proof Sys2Proof.Machine

theorem leBytes_length (n v : Nat) : (leBytes n v).length = n := by
  induction n generalizing v with
  | zero => rfl
  | succ n ih => simp [leBytes, ih]

theorem leNat_leBytes (n v : Nat) : leNat (leBytes n v) = v % 256 ^ n := by
  induction n generalizing v with
  | zero => simp [leBytes, leNat, Nat.mod_one]
  | succ n ih =>
    simp only [leBytes, leNat, ih, BitVec.toNat_ofNat]
    rw [show 256 ^ (n + 1) = 256 * 256 ^ n by rw [Nat.pow_succ, Nat.mul_comm], Nat.mod_mul]
    omega

theorem crcBitR_lt {poly c : Nat} (hp : poly < 2 ^ 32) (hc : c < 2 ^ 32) : crcBitR poly c < 2 ^ 32 := by
  have h : c >>> 1 < 2 ^ 32 := Nat.lt_of_le_of_lt (by simp [Nat.shiftRight_eq_div_pow]; omega) hc
  unfold crcBitR
  split
  · exact Nat.xor_lt_two_pow h hp
  · exact h

theorem check32c_lt (bs : List Byte) (f : Nat) : check32c bs f < 2 ^ 32 := by
  have hs : ∀ c b : Nat, c < 2 ^ 32 → b < 256 → crcStepR 0x82F63B78 c b < 2 ^ 32 := by
    intro c b hc hb
    unfold crcStepR crc8
    iterate 8 apply crcBitR_lt (by decide)
    exact Nat.xor_lt_two_pow hc (Nat.lt_trans hb (by decide))
  have hf : ∀ (l : List Byte) (c : Nat), c < 2 ^ 32 → l.foldl (fun c b => crcStepR 0x82F63B78 c b.toNat) c < 2 ^ 32 := by
    intro l
    induction l with
    | nil => exact fun c hc => hc
    | cons b l ih => exact fun c hc => ih _ (hs c _ hc b.isLt)
  exact Nat.xor_lt_two_pow (hf _ _ (by decide)) (by decide)

/-- The 52 bytes of an entry that its tag covers. -/
theorem mkEntry_split (etype flags job : Nat) (body : List Byte) (key seq pass : Nat) : ∃ a : List Byte, a.length = 52 ∧
    mkEntry etype flags job body key seq pass = (a ++ leBytes 8 (entTag key a seq pass)) ++ leBytes 4 (check32c (a ++ leBytes 8 (entTag key a seq pass)) seq) :=
  ⟨leBytes 1 etype ++ leBytes 1 flags ++ [0, 0] ++ leBytes 4 job ++ (body ++ List.replicate 44 0).take 44, by simp [leBytes_length], rfl⟩

/-- An entry's check holds for the sequence number it was formed for. -/
theorem mkEntry_check (etype flags job : Nat) (body : List Byte) (key seq pass : Nat) : entCheckOk (mkEntry etype flags job body key seq pass) seq = true := by
  obtain ⟨a, ha, h⟩ := mkEntry_split etype flags job body key seq pass
  have hb : (a ++ leBytes 8 (entTag key a seq pass)).length = 60 := by simp [ha, leBytes_length]
  have hc : (leBytes 4 (check32c (a ++ leBytes 8 (entTag key a seq pass)) seq)).length = 4 := leBytes_length _ _
  rw [h]
  generalize a ++ leBytes 8 (entTag key a seq pass) = b at hb hc
  simp only [entCheckOk, fieldAt, List.length_append, hb, hc, List.drop_append_of_le_length (Nat.le_of_eq hb.symm), List.drop_eq_nil_of_le (Nat.le_of_eq hb),
    List.nil_append, List.take_append_of_le_length (Nat.le_of_eq hb.symm), List.take_of_length_le (Nat.le_of_eq hb), List.take_of_length_le (Nat.le_of_eq hc), leNat_leBytes]
  simp [Nat.mod_eq_of_lt (show check32c b seq < 4294967296 from check32c_lt b seq)]

/-- An entry carries the tag of its key, sequence number and pass. -/
theorem mkEntry_tag (etype flags job : Nat) (body : List Byte) (key seq pass : Nat) :
    fieldAt (mkEntry etype flags job body key seq pass) 52 8 = entTag key (mkEntry etype flags job body key seq pass) seq pass := by
  obtain ⟨a, ha, h⟩ := mkEntry_split etype flags job body key seq pass
  have ht : ∀ l, (a ++ l).take 52 = a := fun l => by rw [List.take_append_of_le_length (Nat.le_of_eq ha.symm), List.take_of_length_le (Nat.le_of_eq ha)]
  have hd : ∀ l, (a ++ l).drop 52 = l := fun l => by rw [List.drop_append_of_le_length (Nat.le_of_eq ha.symm), List.drop_eq_nil_of_le (Nat.le_of_eq ha), List.nil_append]
  have hk : entTag key a seq pass < 256 ^ 8 := by
    unfold entTag
    split
    · decide
    · exact Nat.mod_lt _ (by decide)
  have htag : ∀ l, entTag key (a ++ l) seq pass = entTag key a seq pass := fun l => by
    unfold entTag
    rw [ht, List.take_of_length_le (Nat.le_of_eq ha)]
  rw [h, List.append_assoc]
  simp only [fieldAt, hd, htag]
  rw [List.take_append_of_le_length (Nat.le_of_eq (leBytes_length _ _).symm), List.take_of_length_le (Nat.le_of_eq (leBytes_length _ _)), leNat_leBytes, Nat.mod_eq_of_lt hk]

end Sys2Proof.Laws
end

