-- ==== Sys2Proof/Tests/Slice0.lean ====
section
/-! SUPPORT. Small tests, each one command on a small state: for every statement with hypotheses a state and operands that meet them, clause by
clause, and what the command then leaves; words written out from the encodings of the spec; and for each check of WellFormed a command it
refuses. -/
set_option Elab.async false

namespace Sys2Proof.Tests
open Sys2Proof Sys2Proof.Machine

/-- The command answers a next state, and the state passes the test. -/
def runs (o : Out) (p : State → Bool) : Bool :=
  match o with
  | .next t => p t
  | _ => false

/-- The command answers the state given, as to everything that these tests look at. -/
def runsTo (o : Out) (t : State) : Bool := runs o (fun u => u == t)

/-- A core whose engine e issues at address 0 with this word queued. -/
def engCore (e word : Nat) : Core := { engs := [(e, { st := .issuing, iq := [(0, word)] })] }

/-- Core 0 alone, with its code region open. -/
def coreState (k : Core) : State := { cores := [(0, k)], regs := [(Reg.coreCode 0, 0x10000)] }

/-- The control core of core 0 at a word, with these registers. -/
def ctlAt (word : Nat) (g : Tab W64 := []) : State := coreState { engCore 5 word with g := g }

/-- Engine e of core 0 at a word, with this parameter queue. -/
def engAt (e word : Nat) (pq : List W32 := []) : State :=
  coreState { engs := [(e, { st := .issuing, iq := [(0, word)], pq := pq })] }

/-! ### The control core -/

theorem words_of_the_encodings : encA 0x01 { gd := 1, ga := 2, gb := 3, func := 0x010 } = 0b00000100001000100001100000010000 ∧
    encI 0x02 { gd := 1, ga := 2, imm := 0xFFFF } = 0b00001000001000101111111111111111 ∧
    encB 0x20 { ga := 1, gb := 2, off := 4 } = 0b10000000001000100000000000000100 ∧
    encT 0x34 { g := 0, tally := 5, imm := 1 } = 0b11010000000000101000000000000001 ∧
    engEnc { opnd := 1 } 2 = 0x102 := by decide +kernel

def aluTable : List (Nat × W64) :=
  [(0x000, 12), (0x001, -2), (0x002, 5), (0x003, 7), (0x004, 2), (0x005, 640), (0x006, 0), (0x007, 0), (0x008, 1), (0x009, 1), (0x00A, 5), (0x00B, 7),
   (0x00C, 5), (0x00D, 7), (0x010, 35), (0x011, 0)]

theorem witness_AluFunctions : aluTable.all (fun x =>
    let i : FmtA := { gd := 1, ga := 2, gb := 3, func := BitVec.ofNat 11 x.1 }
    let s := ctlAt (encA 1 i) [(2, 5), (3, 7)]
    s.atWord 0 5 (encA 1 i) && s.regsReady 0 [2, 3, 1] && runs (exec (.alu 0 i) s) (fun t => t.g 0 1 == x.2 && (t.eng 0 5).pc == 4)) = true := by
  decide +kernel

theorem test_alu_min_signed : runs (exec (.alu 0 { gd := 1, ga := 2, gb := 3, func := 0x00A })
    (ctlAt (encA 1 { gd := 1, ga := 2, gb := 3, func := 0x00A }) [(2, -1), (3, 1)])) (fun t => t.g 0 1 == -1) = true := by decide +kernel

theorem test_alu_discards_g0 : runs (exec (.alu 0 { gd := 0, ga := 2, gb := 3 }) (ctlAt (encA 1 { gd := 0, ga := 2, gb := 3 }) [(2, 1), (3, 1)]))
    (fun t => t.g 0 0 == 0) = true := by decide +kernel

def immTable : List (Nat × BitVec 16 × W64 × (FmtI → Instr)) :=
  [(0x02, 0xFFFF, 4, fun i => .addi 0 i), (0x03, 0xFFFF, 5, fun i => .andi 0 i), (0x04, 8, 13, fun i => .ori 0 i), (0x05, 1, 4, fun i => .xori 0 i),
   (0x06, 0xFFFF, 0, fun i => .slti 0 i), (0x07, 0xFFFF, 1, fun i => .sltiu 0 i), (0x08, 2, 20, fun i => .shi 0 i), (0x08, 65, 2, fun i => .shi 0 i),
   (0x08, 129, 2, fun i => .shi 0 i), (0x0A, 1, 0x100000005, fun i => .lih 0 i), (0x0B, 1, 0x1000000000005, fun i => .lit 0 i)]

theorem witness_ImmediatesAndValueReads :
    immTable.all (fun x =>
      let i : FmtI := { gd := 1, ga := 2, imm := x.2.1 }
      let s := ctlAt (encI x.1 i) [(2, 5)]
      s.atWord 0 5 (encI x.1 i) && s.regsReady 0 [2, 1] && runs (exec (x.2.2.2 i) s) (fun t => t.g 0 1 == x.2.2.1)) = true ∧
    (let i : FmtI := { gd := 1, ga := 0, imm := 0x8000 }
     let s := ctlAt (encI 0x09 i)
     s.atWord 0 5 (encI 0x09 i) && s.regsReady 0 [0, 1] && runs (exec (.lui 0 i) s) (fun t => t.g 0 1 == 0xFFFFFFFF80000000)) = true ∧
    (let i : FmtT := { g := 1, tally := 63 }
     let s := coreState { engCore 5 (encT 0x37 i) with tally := [(63, 9)] }
     s.atWord 0 5 (encT 0x37 i) && s.regsReady 0 [1] && runs (exec (.trd 0 i) s) (fun t => t.g 0 1 == 9)) = true ∧
    [0, 1, 2, 3, 4, 5].all (fun (n : Nat) =>
      let i : FmtI := { gd := 1, ga := 0, imm := BitVec.ofNat 16 n }
      let s : State := { coreState { engCore 5 (encI 0x3C i) with cycles := 77 } with time := 88 }
      s.atWord 0 5 (encI 0x3C i) && s.regsReady 0 [1] && runs (exec (.rds 0 i) s) (fun t =>
        t.g 0 1 == [0, 0, 0x290, 77, 88, 0].getD n 1)) = true := by decide +kernel

def loadTable : List (Nat × Nat × Bool × W64 × (FmtI → Instr)) :=
  [(0x10, 1, true, -1, fun i => .lb 0 i), (0x11, 1, false, 0xFF, fun i => .lbu 0 i), (0x12, 2, true, -257, fun i => .lh 0 i),
   (0x13, 2, false, 0xFEFF, fun i => .lhu 0 i), (0x14, 4, true, 0xFFFFFFFFFCFDFEFF, fun i => .lw 0 i), (0x15, 4, false, 0xFCFDFEFF, fun i => .lwu 0 i),
   (0x16, 8, false, 0xF8F9FAFBFCFDFEFF, fun i => .ld 0 i)]

def someBytes : List Byte := [0xFF, 0xFE, 0xFD, 0xFC, 0xFB, 0xFA, 0xF9, 0xF8]

theorem witness_ControlLoads :
    loadTable.all (fun x =>
      let i : FmtI := { gd := 1, ga := 2, imm := 8 }
      let s := (ctlAt (encI x.1 i) [(2, 0x100)]).wr (storeKey 0 0x108) someBytes
      s.atWord 0 5 (encI x.1 i) && s.regsReady 0 [2, 1] && s.gateOpen 0 && (s.ctlAddrFault 0 0x108 x.2.1 false).isNone && addrPkg 0x108 == s.pkg &&
      s.window 0x108 == .store 0 0x108 && runs (exec (x.2.2.2.2 i) s) (fun t => t.g 0 1 == x.2.2.2.1)) = true ∧
    loadTable.all (fun x =>
      let i : FmtI := { gd := 1, ga := 2, imm := 0 }
      let s := ctlAt (encI x.1 i) [(2, 0x6000000)]
      s.atWord 0 5 (encI x.1 i) && s.regsReady 0 [2, 1] && s.gateOpen 0 && (s.ctlAddrFault 0 0x6000000 x.2.1 false).isNone &&
      s.window 0x6000000 == .attic 0 0 && runs (exec (x.2.2.2.2 i) s) (fun t => (t.core 0).loads.length == 1)) = true ∧
    (let l : CtlLoad := { pc := 0, gd := 1, addr := 0x6000000, size := 2, signed := true, data := some 0x8000 }
     let s := coreState { loads := [l], gpend := [(1, .variable)] }
     runs (exec (.loadDataReturn 0 0) s) (fun t => t.g 0 1 == 0xFFFFFFFFFFFF8000 && t.gpend 0 1 == .no)) = true ∧
    (let s := coreState { gpend := [(1, .fixed 4)], cycles := 4 }
     runs (exec (.ctlResultReady 0 1) s) (fun t => t.gpend 0 1 == .no)) = true := by decide +kernel

def storeTable : List (Nat × Nat × (FmtI → Instr)) :=
  [(0x18, 1, fun i => .sb 0 i), (0x19, 2, fun i => .sh 0 i), (0x1A, 4, fun i => .sw 0 i), (0x1B, 8, fun i => .sd 0 i)]

theorem witness_ControlStores :
    storeTable.all (fun x =>
      let i : FmtI := { gd := 1, ga := 2, imm := 0 }
      let s := ctlAt (encI x.1 i) [(1, 0x8877665544332211), (2, 0xBFFF8)]
      s.atWord 0 5 (encI x.1 i) && s.regsReady 0 [2, 1] && s.gateOpen 0 && (s.ctlAddrFault 0 0xBFFF8 x.2.1 true).isNone && s.window 0xBFFF8 == .store 0 0xBFFF8 &&
      runs (exec (x.2.2 i) s) (fun t => t.rdLE 0xBFFF8 x.2.1 == 0x8877665544332211 % 2 ^ (8 * x.2.1) && t.rd8 (0xBFFF8 + x.2.1) == 0 &&
        Memory.wf t.mem)) = true ∧
    storeTable.all (fun x =>
      let i : FmtI := { gd := 1, ga := 2, imm := 0 }
      let s := ctlAt (encI x.1 i) [(1, 5), (2, 0x6000000)]
      s.atWord 0 5 (encI x.1 i) && s.regsReady 0 [2, 1] && s.gateOpen 0 && (s.ctlAddrFault 0 0x6000000 x.2.1 true).isNone && s.window 0x6000000 == .attic 0 0 &&
      runs (exec (x.2.2 i) s) (fun t => (t.core 0).stores.length == 1)) = true ∧
    (let i : FmtI := { gd := 1, ga := 2, imm := 0 }
     let v : W64 := 0x0000000000000000
     let s := ctlAt (encI 0x1B i) [(1, v), (2, 0x8000008)]
     s.atWord 0 5 (encI 0x1B i) && s.regsReady 0 [2, 1] && s.gateOpen 0 && (s.ctlAddrFault 0 0x8000008 8 true).isNone && s.window 0x8000008 == .peg 1 0 && armOk v &&
     runs (exec (.sd 0 i) s) (fun t => (t.core 0).arms == [⟨1, v, 0, 0⟩])) = true ∧
    (let x : CtlStore := { pc := 0, addr := 0x6000000, size := 8, data := 1, done := true }
     runs (exec (.storeRetire 0 0) (coreState { stores := [x] })) (fun t => (t.core 0).stores == [])) = true := by decide +kernel

def branchTable : List (Nat × Bool × (FmtB → Instr)) :=
  [(0x20, false, fun i => .beq 0 i), (0x21, true, fun i => .bne 0 i), (0x22, true, fun i => .blt 0 i), (0x23, false, fun i => .bge 0 i),
   (0x24, false, fun i => .bltu 0 i), (0x25, true, fun i => .bgeu 0 i)]

theorem witness_BranchesAndLoops :
    branchTable.all (fun x =>
      let i : FmtB := { ga := 1, gb := 2, off := 3 }
      let s := ctlAt (encB x.1 i) [(1, -1), (2, 1)]
      s.atWord 0 5 (encB x.1 i) && s.regsReady 0 [1, 2] && (s.eng 0 5).jumpOk 12 &&
      runs (exec (x.2.2 i) s) (fun t => (t.eng 0 5).pc == if x.2.1 then 12 else 4)) = true ∧
    (let i : FmtJ := { gd := 1, off := 4 }
     let s := ctlAt (encJ 0x26 i)
     s.atWord 0 5 (encJ 0x26 i) && s.regsReady 0 [1] && (s.jumpFault 0 5 16).isNone &&
     runs (exec (.jal 0 i) s) (fun t => (t.eng 0 5).pc == 16 && t.g 0 1 == 4)) = true ∧
    (let i : FmtI := { gd := 1, ga := 2, imm := 3 }
     let s := ctlAt (encI 0x27 i) [(2, 0x100)]
     s.atWord 0 5 (encI 0x27 i) && s.regsReady 0 [2, 1] && (s.jumpFault 0 5 0x100).isNone &&
     runs (exec (.jalr 0 i) s) (fun t => (t.eng 0 5).pc == 0x100 && t.g 0 1 == 4)) = true ∧
    [(0 : W64), 3].all (fun n =>
      let i : FmtI := { gd := 0, ga := 2, imm := 2 }
      let s := ctlAt (encI 0x28 i) [(2, n)]
      s.atWord 0 5 (encI 0x28 i) && s.regsReady 0 [2] &&
      runs (exec (.ctlLoop 0 i) s) (fun t => if n = 0 then (t.eng 0 5).pc == 12 && (t.eng 0 5).loops == []
        else (t.eng 0 5).pc == 4 && (t.eng 0 5).loops == [⟨4, 8, 3, false⟩])) = true := by decide +kernel

theorem witness_ControlQueuesAndTallies :
    (let i : FmtQ := { ga := 1, gb := 2, eng := 4 }
     let s := ctlAt (encQ 0x30 i) [(1, 5), (2, 6)]
     s.atWord 0 5 (encQ 0x30 i) && s.regsReady 0 [1, 2] && runs (exec (.pusha 0 i) s) (fun t => (t.eng 0 4).aqNew == [(2, 0x600000005)])) = true ∧
    (let i : FmtQ := { ga := 1, gb := 0, eng := 0 }
     let s := ctlAt (encQ 0x31 i) [(1, 5)]
     s.atWord 0 5 (encQ 0x31 i) && s.regsReady 0 [1] && runs (exec (.pushp 0 i) s) (fun t => (t.eng 0 0).pqNew == [(2, 5)])) = true ∧
    [(0x7FFF : BitVec 15), 4].all (fun a =>
      let i : FmtT := { g := 0, tally := 3, imm := a }
      let s := coreState { engCore 5 (encT 0x34 i) with tally := [(3, 1)] }
      s.atWord 0 5 (encT 0x34 i) && s.gateOpen 0 && runs (exec (.tadd 0 i) s) (fun t => (t.core 0).tops == [⟨1, 5, 0, 3, a.toInt⟩] &&
        (t.endCycle 0).tally 0 3 == if a = 4 then 5 else 0)) = true ∧
    (let i : FmtT := { g := 1, tally := 3 }
     let s := coreState { engCore 5 (encT 0x35 i) with tally := [(3, 7)], g := [(1, 7)] }
     s.atWord 0 5 (encT 0x35 i) && s.gateOpen 0 && s.regsReady 0 [1] && runs (exec (.twait 0 i) s) (fun t => (t.eng 0 5).pc == 4)) = true ∧
    (let i : FmtT := { g := 0, tally := 3 }
     let s := coreState { engCore 5 (encT 0x36 i) with tally := [(3, 1)] }
     s.atWord 0 5 (encT 0x36 i) && s.gateOpen 0 && s.spare 0 3 == 1 && runs (exec (.ttake 0 i) s) (fun t => t.tally 0 3 == 1 && (t.endCycle 0).tally 0 3 == 0)) = true ∧
    [(0 : BitVec 1), 1].all (fun k =>
      let i : FmtP := { take := k, peg := 9 }
      let e : Eng := { st := .issuing, iq := [(0, encP 0x38 i)] }
      let s := coreState { engs := [(5, if k = 0 then { e with reports := [⟨9, true, 0⟩] } else { e with grant := some 9 })] }
      s.atWord 0 5 (encP 0x38 i) && s.gateOpen 0 && runs (exec (.pwait 0 i) s) (fun t => (t.eng 0 5).pc == 4 && (t.eng 0 5).grant.isNone)) = true ∧
    [(0 : BitVec 5), 1].all (fun n =>
      let i : FmtA := { gd := 0, ga := n, gb := 0 }
      let s := ctlAt (encA 0x39 i)
      s.atWord 0 5 (encA 0x39 i) && s.gateOpen 0 && s.regsReady 0 [n.toNat] && runs (exec (.waitg 0 i) s) (fun t => (t.eng 0 5).pc == 4)) = true ∧
    (let s := ctlAt (0x3E * 2 ^ 26)
     s.atWord 0 5 (0x3E * 2 ^ 26) && s.gateOpen 0 && runs (exec (.ctlHalt 0 0) s) (fun t => (t.core 0).halts == [5] &&
       ((t.endCycle 0).eng 0 5).st == .halted && (t.endCycle 0).coreDone == [0])) = true := by decide +kernel

/-! ### The engines' common instructions -/

theorem witness_EngineCommonInstructions :
    (let s := engAt 3 (engEnc {} 1)
     s.mayIssue 0 3 1 {} && runs (exec (.nop 0 3 {}) s) (fun t => (t.eng 0 3).pc == 16)) = true ∧
    (let s := engAt 0 (engEnc {} 5)
     s.mayIssue 0 0 5 {} && runs (exec (.settle 0 0 {}) s) (fun t => (t.eng 0 0).out == [])) = true ∧
    (let k : Eng := { st := .issuing, iq := [(0, engEnc {} 5)], out := [{ pc := 0, opc := 0x10, sig0 := 0, sig1 := 0 }] }
     let s := coreState { engs := [(0, k)] }
     s.mayIssue 0 0 5 {} && runs (exec (.settle 0 0 {}) s) (fun t => (t.eng 0 0).out.length == 2)) = true ∧
    (let s := engAt 1 (engEnc { opnd := 2 } 3)
     s.mayIssue 0 1 3 { opnd := 2 } && (s.jumpFault 0 1 32).isNone && runs (exec (.jump 0 1 { opnd := 2 }) s) (fun t => (t.eng 0 1).pc == 32)) = true ∧
    (let s := engAt 2 (engEnc {} 4) [3]
     s.mayIssue 0 2 4 {} && (s.jumpFault 0 2 48).isNone && runs (exec (.brq 0 2 {}) s) (fun t => (t.eng 0 2).pc == 48 && (t.eng 0 2).pq == [])) = true ∧
    [(0 : W32), 5].all (fun n =>
      let s := engAt 4 (engEnc { opnd := 2 } 2) [n]
      s.mayIssue 0 4 2 { opnd := 2 } && runs (exec (.loop 0 4 { opnd := 2 }) s) (fun t => (t.eng 0 4).pc == if n = 0 then 48 else 16)) = true ∧
    (let s := engAt 0 (engEnc {} 6)
     s.mayIssue 0 0 6 {} && runs (exec (.halt 0 0 {}) s) (fun t => (t.core 0).halts == [0] && ((t.endCycle 0).eng 0 0).st == .halted)) = true := by decide +kernel

theorem witness_IssueAndSignals :
    (let f : BitVec 16 := 0x8502
     f.getLsbD 15 && !f.getLsbD 14 && ((State.reset.signal 0 0 0 false f).core 0).tops == [⟨1, 0, 0, 5, 2⟩] &&
     ((State.reset.signal 0 0 0 true f).core 0).tops == [] && ((State.reset.signal 0 0 0 false f).endCycle 0).tally 0 5 == 2) = true ∧
    (let t := State.reset.applyOp 0 ⟨2, 0, 0, 5, -1⟩
     t.tally 0 5 == 0 && (t.eng 0 0).fault == 0x110) = true ∧
    (let t := (coreState { tally := [(5, 65535)] }).applyOp 0 ⟨1, 0, 0, 5, 1⟩
     (t.eng 0 0).fault == 0x111 && t.tally 0 5 == 65535) = true ∧
    (let s := coreState { tally := [(5, 3)], tops := [⟨0, 1, 0, 5, -1⟩, ⟨0, 0, 0, 5, -1⟩] }
     (s.applyOps 0).tally 0 5 == 1 && (s.core 0).takesOf 5 == 2) = true ∧
    (let s := coreState { jumps := [2, 0], cycles := 9, engs := [(1, { aqNew := [(10, 7)], pqNew := [(10, 8)] })] }
     let t := s.endCycle 0
     (t.core 0).cycles == 10 && (t.eng 0 0).next == 15 && (t.eng 0 2).next == 16 && (t.eng 0 1).aq == [7] && (t.eng 0 1).pq == [8]) = true := by decide +kernel

theorem witness_EngineStops :
    (let s : State := { coreState (engCore 0 (engEnc {} 1)) with regs := [] }
     !s.inCode 0 0 && runs (exec (.nop 0 0 {}) s) (fun t => (t.eng 0 0).fault == 0x102)) = true ∧
    (let s := engAt 0 (engEnc { opnd := 1 } 1)
     s.atWord 0 0 (engEnc { opnd := 1 } 1) && runs (exec (.nop 0 0 { opnd := 1 }) s) (fun t => (t.eng 0 0).fault == 0x101)) = true ∧
    (let w : EngW := { wait0 := 0x400001 }
     let s := engAt 0 (engEnc w 1)
     s.atWord 0 0 (engEnc w 1) && engFieldsOk w && !s.waitsOk 0 0 w && runs (exec (.nop 0 0 w) s) (fun t => (t.eng 0 0).st == .stallWait)) = true ∧
    (let s := engAt 0 (engEnc { opnd := 1 } 2)
     s.mayIssue 0 0 2 { opnd := 1 } && runs (exec (.loop 0 0 { opnd := 1 }) s) (fun t => (t.eng 0 0).st == .stallQueue)) = true ∧
    (let l : Loop := ⟨0, 64, 2, false⟩
     let s := coreState { engs := [(0, { st := .issuing, iq := [(0, engEnc { opnd := 1 } 2)], pq := [1], loops := [l, l, l, l] })] }
     s.mayIssue 0 0 2 { opnd := 1 } && runs (exec (.loop 0 0 { opnd := 1 }) s) (fun t => (t.eng 0 0).fault == 0x103)) = true ∧
    (let s := coreState { engs := [(0, { st := .issuing, iq := [(0, engEnc { opnd := 9 } 3)], loops := [⟨0, 64, 2, false⟩] })] }
     s.mayIssue 0 0 3 { opnd := 9 } && s.inCode 0 144 && runs (exec (.jump 0 0 { opnd := 9 }) s) (fun t => (t.eng 0 0).fault == 0x104)) = true ∧
    (let s : State := { engAt 0 (engEnc { opnd := 1 } 1) with bu := { ready := true } }
     runs (exec (.nop 0 0 { opnd := 1 }) s) (fun t => (t.fbuf 0).recs.map (·.code) == [0x101])) = true := by decide +kernel

theorem witness_FetchAndComplete :
    (let s := (engAt 0 0).wr 0 [1]
     let s : State := { s with cores := [(0, { engs := [(0, { st := .issuing })] })] }
     !s.still 0 && s.fetchPick 0 == some 0 && s.wantsFetch 0 0 && runs (exec (.instructionFetch 0) s) (fun t => (t.eng 0 0).iq.length == 8 &&
       iqAt (t.eng 0 0).iq 0 == some 1 && (t.core 0).fetched && runsTo (exec (.instructionFetch 0) t) t)) = true ∧
    (let i : Issued := { pc := 0, opc := 0x11, sig0 := 0xC501, sig1 := 0, ready := 3 }
     let s := coreState { engs := [(0, { st := .issuing, out := [i] })], cycles := 3 }
     s.canComplete 0 0 0 i && runs (exec (.instructionComplete 0 0 0) s) (fun t => (t.eng 0 0).out == [] && (t.core 0).tops == [⟨2, 0, 0, 5, 1⟩])) = true := by decide +kernel

theorem witness_CoreControlAndFrequency :
    (let s := coreState {}
     s.mayWrite .steward (Reg.coreBase 0) && s.inCode 0 0 && runs (exec (.run 0 .steward 1) s) (fun t => (t.eng 0 0).st == .issuing)) = true ∧
    (let s := coreState { engs := [(1, { st := .stopped, pc := 32 })] }
     runs (exec (.run 0 .steward 2) s) (fun t => (t.eng 0 1).st == .issuing && (t.eng 0 1).pc == 32)) = true ∧
    (let s := engAt 2 0
     s.mayWrite .steward (Reg.coreBase 0) && runs (exec (.stop 0 .steward 4) s) (fun t => (t.eng 0 2).st == .stopped)) = true ∧
    (let s := coreState { tally := [(1, 1)], engs := [(0, { aq := [1], pq := [2] })] }
     !s.coreRuns 0 && runs (exec (.tallyClear 0 .steward) s) (fun t => t.tally 0 1 == 0) &&
     runs (exec (.queueClear 0 .steward) s) (fun t => (t.eng 0 0).aq == [] && (t.eng 0 0).pq == [])) = true ∧
    (let s := coreState { clkOn := true }
     let r := Reg.coreFreq 0
     s.mayWrite .steward r && !s.locked .steward r && !s.measuresWrites && s.fld r 31 1 == 0 && s.fld r 16 4 != 3 &&
     runs (exec (.coreFreqChange 0 .steward 3) s) (fun t => t.fld r 0 4 == 3 && (t.core 0).clkHeld &&
       runs (exec (.coreFreqRelockDone 0) t) (fun u => u.fld r 16 4 == 3 && !(u.core 0).clkHeld)) &&
     runs (exec (.coreFreqChange 0 .steward 13) s) (fun t => t.fld r 0 4 == s.fld r 0 4)) = true := by decide +kernel

/-! ### The outer-product engines and the thin-path engine -/

/-- OPE 0 of core 0 at a word, with its queues and its own state. -/
def opeAt (word : Nat) (pq : List W32) (aq : List W64) (o : Ope) (cycles : Nat := 100) : State :=
  let k : Eng := { st := .issuing, iq := [(0, word)], pq := pq, aq := aq }
  coreState { engs := [(0, k)], opes := [(0, o)], cycles := cycles }

def someDrp (opnd : BitVec 40) (bank : Nat) : Drp := { pc := 0, opnd := opnd, sig0 := 0, sig1 := 0, bank := bank, ty := 1, entry := 0, mask := 2, issued := 0 }

def someFeed (opnd : BitVec 40) (left : Nat) : Feed := { pc := 0, opnd := opnd, sig0 := 0, sig1 := 0, left := left, fed := 0 }

theorem witness_OuterFeedIssue :
    (let w : EngW := { opnd := 0x1000 }
     let s := opeAt (engEnc w 0x10) [3] [] {}
     s.mayIssue 0 0 0x10 w && !(mmaOp w.opnd).refused && (mmaOp w.opnd).swb && ((s.ope 0 0).swapEarly 100).isNone && (s.ope 0 0).feed.isNone &&
     runs (exec (.mma 0 0 w) s) (fun t => (t.ope 0 0).active == 1 && (t.ope 0 0).ty1 == 1 && ((t.ope 0 0).feed.map (·.left)) == some 3)) = true ∧
    (let w : EngW := { opnd := 0x99 }
     let s := opeAt (engEnc w 0x10) [3] [] {}
     s.mayIssue 0 0 0x10 w && !(mmaOp w.opnd).refused && runs (exec (.mma 0 0 w) s) (fun t => (t.ope 0 0).ty0 == 2)) = true ∧
    (let w : EngW := { opnd := 0x1000 }
     let s := opeAt (engEnc w 0x10) [0] [] {}
     s.mayIssue 0 0 0x10 w && runs (exec (.mma 0 0 w) s) (fun t => (t.ope 0 0).active == 1 && (t.ope 0 0).feed.isNone && (t.eng 0 0).out == [])) = true ∧
    (let s := opeAt (engEnc {} 0x11) [] [] { active := 1 }
     s.mayIssue 0 0 0x11 {} && (((s.fixPhases 0 0 3).ope 0 0).swapEarly 100).isNone && runs (exec (.swap 0 0 {}) s) (fun t => (t.ope 0 0).active == 0)) = true ∧
    (let s := opeAt (engEnc {} 0x11) [] [] { drps := [someDrp 16 1] }
     s.mayIssue 0 0 0x11 {} && (((s.fixPhases 0 0 3).ope 0 0).swapEarly 100).isSome && runs (exec (.swap 0 0 {}) s) (fun t => (t.eng 0 0).fault == 0x131 && (t.ope 0 0).active == 0)) = true := by
  decide +kernel

/-- 1.5 times 2 in BF16, added to 1: one cell of a pair, by hand (R96). -/
theorem test_cell_of_a_pair :
    (((coreState {}).wr (storeKey 0 0) [0xC0, 0x3F]).wr (storeKey 0 0x1000) [0x00, 0x40]).cellPair 0 0 0x1000 (mmaOp 0) 0 0 0x3F800000 = (0x40800000, false) := by
  decide +kernel

theorem witness_PairsAccumulate :
    (let f := someFeed 0 2
     let s := opeAt 0 [] [0x0000100000000000] { bank0 := [(0, 1)], active := 1, feed := some f }
     (s.ope 0 0).feed == some f && (s.eng 0 0).aq == [0x0000100000000000] && f.left != 0 && pairOk (mmaOp 0) 0x0000100000000000 &&
     !s.still 0 && runs (exec (.mmaPairBegin 0 0) s) (fun t =>
       (t.eng 0 0).aq == [] && (t.ope 0 0).feed.map (fun f => (f.left, f.fed, f.next)) == some (1, 1, 132))) = true ∧
    (let s := opeAt 0 [] [1] { feed := some (someFeed 0 2) }
     !pairOk (mmaOp 0) 1 && runs (exec (.mmaPairBegin 0 0) s) (fun t => (t.eng 0 0).fault == 0x133 && (t.ope 0 0).feed.isNone)) = true ∧
    (let i : Issued := { pc := 0, opc := 0x10, sig0 := 0xC501, sig1 := 0 }
     let s : State := coreState { engs := [(0, { st := .issuing, out := [i] })], opes := [(0, { feed := some (someFeed 0x400 0) })], cycles := 32 }
     runs (exec (.mmaLastRead 0 0) s) (fun t => (t.eng 0 0).out == [] && (t.ope 0 0).feed.isNone && (t.core 0).tops == [⟨2, 0, 0, 5, 1⟩])) = true := by decide +kernel

theorem witness_OuterDrainIssue :
    (let w : EngW := { opnd := 0x100000005 }
     let s := opeAt (engEnc w 0x12) [2] [] { ty1 := 2 }
     s.mayIssue 0 0 0x12 w && drpOwn w.opnd && drpMasked w.opnd && !drpEntry w.opnd && !drpRefused w.opnd 2 2 false &&
     runs (exec (.drp 0 0 w) s) (fun t => (t.eng 0 0).pq == [] && (t.ope 0 0).ty1 == 0 && (t.ope 0 0).drps.map (fun d => (d.bank, d.ty, d.mask)) == [(1, 2, 2)])) = true ∧
    (let w : EngW := { opnd := 0x0000008 }
     let s := opeAt (engEnc w 0x12) [] [0x0000008000000000] {}
     s.mayIssue 0 0 0x12 w && drpOwn w.opnd && drpEntry w.opnd && drpEntryOk w.opnd 0x0000008000000000 && !drpRefused w.opnd 0 0 false &&
     runs (exec (.drp 0 0 w) s) (fun t => (t.eng 0 0).aq == [] && (t.ope 0 0).ty1 == 1)) = true ∧
    (let w : EngW := { opnd := 0x1A }
     let s := opeAt (engEnc w 0x13) [] [0x1000] {}
     stgFmt w.opnd == 10 && !s.mayIssue 0 0 0x13 { opnd := 0x40 } && s.mayIssue 0 0 0x13 w) = true ∧
    (let w : EngW := { opnd := 0x10 }
     let s := opeAt (engEnc w 0x13) [] [0x1000] {}
     s.mayIssue 0 0 0x13 w && fits 0x1000 2048 4 4 && runs (exec (.stg 0 0 w) s) (fun t => (t.eng 0 0).aq == [] && (t.ope 0 0).stages.map (·.entry) == [0x1000])) = true ∧
    [(0 : BitVec 40), 1].all (fun o =>
      let w : EngW := { opnd := o }
      let s := (opeAt (engEnc w 0x14) [] [0xBFFF8] {}).setRegN (Reg.opeSeed 0 0) 0x123456789ABCDEF0
      let s := if o = 1 then s.wr (storeKey 0 0xBFFF8) [7] else s
      s.mayIssue 0 0 0x14 w && runs (exec (.srs 0 0 w) s) (fun t => if o = 0 then t.rdLE (storeKey 0 0xBFFF8) 8 == 0x123456789ABCDEF0
        else t.reg (Reg.opeSeed 0 0) == 7)) = true := by decide +kernel

def oneCell (v : W32) : Tab W32 := [(0, v)]

theorem witness_OuterDrainEffects :
    [0, 1, 3].all (fun (pre : Nat) =>
      let o : Ope := { bank1 := [(0, 9)], drps := [someDrp (BitVec.ofNat 40 (4 * pre)) 1] }
      let s := opeAt 0 [] [] o
      o.earliest (someDrp (BitVec.ofNat 40 (4 * pre)) 1) == some 2 &&
      runs (exec (.bankPhaseStart 0 0) s) (fun t => (t.ope 0 0).lastD0 == some 2 && cellAt (t.ope 0 0).bank1 0 0 == if pre = 0 then 9 else 0)) = true ∧
    (let d : Drp := { someDrp 1 1 with mask := 0xFFFFFFFD }
     let s := opeAt 0 [] [] { bank1 := [(0, 9), (32, 8), (64, 7)], drps := [d] }
     runs (exec (.bankPhaseStart 0 0) s) (fun t => t.accWord 0 0 0 0 == 0 && t.accWord 0 0 1 0 == 8)) = true ∧
    (let i : Issued := { pc := 0, opc := 0x12, sig0 := 0xC501, sig1 := 0 }
     let d : Drp := { someDrp 1 1 with d0 := some 10 }
     let s : State := coreState { engs := [(0, { st := .issuing, out := [i] })], opes := [(0, { drps := [d] })], cycles := 43 }
     runs (exec (.drpComplete 0 0) s) (fun t => (t.ope 0 0).drps == [] && (t.core 0).tops == [⟨2, 0, 0, 5, 1⟩])) = true ∧
    [(0 : BitVec 40), 0x20].all (fun o =>
      let g : Stage := { pc := 0, sig0 := 0, sig1 := 0, opnd := o, entry := 0x1000 }
      let s := (opeAt 0 [] [] { stages := [g] }).wr (storeKey 0 0x1002) [0x80, 0x3F]
      runs (exec (.stgComplete 0 0) s) (fun t => (t.ope 0 0).stages.map (fun g => (g.done, if o = 0 then cellAt g.tile 0 1 else cellAt g.tile 1 0)) ==
        [(some 100, 0x3F800000)])) = true := by decide +kernel

/-- The thin-path engine of core 0 at a word. -/
def tpeAt (word : Nat) (pq : List W32) (aq : List W64) (u : Tpe) : State :=
  let k : Eng := { st := .issuing, iq := [(0, word)], pq := pq, aq := aq }
  coreState { engs := [(2, k)], tpe := u, cycles := 10 }

theorem witness_ThinPath :
    (let w : EngW := {}
     let s := tpeAt (engEnc w 0x10) [2] [] {}
     s.mayIssue 0 2 0x10 w && s.tpeFree 0 && runs (exec (.tmv 0 w) s) (fun t => (t.eng 0 2).pq == [] && ((t.tpe 0).feed.map (·.left)) == some 2)) = true ∧
    (let s := tpeAt 0 [] [0x1000] { feed := some (someFeed 0 2), x := [(0, 0x40000000)], y := [(0, 0x3F800000)] }
     let s := s.wr (storeKey 0 0x1000) [0xC0, 0x3F]
     wEntryOk (tmvOp 0) 0x1000 && runs (exec (.tmvTileBegin 0) s) (fun t =>
       (t.eng 0 2).aq == [] && t.reg (Reg.tpeFed 0) == 1 && Tab.get (fun _ => 0) (t.tpe 0).y 0 == 0x40800000)) = true ∧
    (let w : EngW := { opnd := 0xF80 }
     let s := (tpeAt (engEnc w 0x11) [] [0x1000] {}).wr (storeKey 0 0x1002) [0x80, 0x3F]
     s.mayIssue 0 2 0x11 w && fits 0x1000 64 0 2 && runs (exec (.tldx 0 w) s) (fun t => Tab.get (fun _ => 0) (t.tpe 0).x 993 == 0x3F800000)) = true ∧
    [(0x14001 : BitVec 40), 0x34001].all (fun o =>
      let w : EngW := { opnd := o }
      let s := tpeAt (engEnc w 0x12) [] [0x0000100000001000] { y := [(1, 0x3F800000), (1025, 0x40000000), (2049, 1)] }
      s.mayIssue 0 2 0x12 w && s.tpeFree 0 && runs (exec (.tsty 0 w) s) (fun t =>
        t.rdLE (storeKey 0 0x1004) 4 == 0x3F800000 && t.rdLE (storeKey 0 0x2004) 4 == 0x40000000 &&
        (t.tpe 0).y == if o = 0x14001 then (s.tpe 0).y else [(2049, 1)])) = true ∧
    (let w : EngW := { opnd := 0x1F }
     let s := tpeAt (engEnc w 0x13) [] [] { y := [(991, 1), (992, 1)] }
     s.mayIssue 0 2 0x13 w && s.tpeFree 0 && runs (exec (.tzy 0 w) s) (fun t => (t.tpe 0).y == [(991, 1)])) = true := by decide +kernel

/-! ### The vector engine -/

/-- The vector engine of core 0 at a word, with v1 and v2 set in lane 0. -/
def vecAt (word : Nat) (a b : W32) (aq : List W64 := []) (pq : List W32 := []) : State :=
  let k : Eng := { st := .issuing, iq := [(0, word)], pq := pq, aq := aq }
  coreState { engs := [(3, k)], vec := { v := [(64, a), (128, b)] } }

/-- Operand bits: VD 3, VA 1, VB 2, and a function with its subfunction. -/
def vOpnd (f : Nat) (vb : Nat := 2) (sub : Nat := 0) : EngW := { opnd := BitVec.ofNat 40 (3 + 64 + 4096 * vb + 2 ^ 24 * f + 2 ^ 28 * sub) }

/-- Lane 0 of v3 after the command. -/
def lane0 (o : Out) (v : W32) (lat : Nat) : Bool := runs o (fun t => t.lane 0 3 0 == v && t.vLeft 0 3 == lat)

def varithTable : List (Nat × W32 × Nat) :=
  [(0, 0x40800000, 4), (1, 0x40000000, 4), (2, 0x40400000, 4), (3, 0x40400000, 4), (4, 0xC0400000, 4), (5, 0x3F800000, 4), (6, 0x40400000, 4),
   (9, 0x7FC00000, 2), (10, 0, 2), (11, 0x7FC00000, 2), (12, 0x7FC00000, 2), (13, 0x40400000, 2), (14, 0x40400000, 2)]

theorem witness_VectorLaneFunctions :
    varithTable.all (fun x =>
      let w := vOpnd x.1
      let s := vecAt (engEnc w 0x12) 0x40400000 0x3F800000
      s.mayIssue 0 3 0x12 w && fVC w == 0 && s.vLeft 0 1 == 0 && lane0 (exec (.varith 0 w) s) x.2.1 x.2.2) = true ∧
    [7, 8].all (fun (f : Nat) =>
      let w := vOpnd f 0
      let s := vecAt (engEnc w 0x12) 0xC0400000 0
      s.mayIssue 0 3 0x12 w && lane0 (exec (.varith 0 w) s) 0x40400000 2) = true ∧
    [0, 1, 2, 3, 4, 5, 6].all (fun (f : Nat) =>
      let w := vOpnd f
      let s := vecAt (engEnc w 0x13) 0xBF800000 0x3F800000
      s.mayIssue 0 3 0x13 w && lane0 (exec (.vcmp 0 w) s) (if f = 1 ∨ f = 2 ∨ f = 3 ∨ f = 6 then 0xFFFFFFFF else 0) 2) = true ∧
    (let w := vOpnd 0
     let s := vecAt (engEnc w 0x14) 5 6
     s.mayIssue 0 3 0x14 w && lane0 (exec (.vsel 0 w) s) 6 2) = true ∧
    [0, 1, 2, 3].all (fun (f : Nat) =>
      let w := vOpnd f (if f = 0 then 2 else 63)
      let s : State := vecAt (engEnc w 0x16) 5 63
      let s : State := coreState { (s.core 0) with vec := { v := [(64, 5), (127, 9), (128, 63)] } }
      s.mayIssue 0 3 0x16 w && lane0 (exec (.vperm 0 w) s) 9 3) = true ∧
    [4, 15].all (fun (f : Nat) =>
      let w := vOpnd f
      let s := vecAt (engEnc w 0x16) 5 63
      s.atWord 0 3 (engEnc w 0x16) && runs (exec (.vperm 0 w) s) (fun t => (t.eng 0 3).fault == 0x101)) = true ∧
    [7, 15].all (fun (f : Nat) =>
      let w := vOpnd f
      let s := vecAt (engEnc w 0x13) 5 63
      s.atWord 0 3 (engEnc w 0x13) && runs (exec (.vcmp 0 w) s) (fun t => (t.eng 0 3).fault == 0x101)) = true ∧
    (let w := vOpnd 2 0
     let s := vecAt (engEnc w 0x18) 0x40000000 0
     s.mayIssue 0 3 0x18 w) = true ∧
    (let w : EngW := { opnd := 3 + 64 * 7 + 2 ^ 38 }
     let s := vecAt (engEnc w 0x19) 0 0
     s.mayIssue 0 3 0x19 w && runs (exec (.vmovi 0 w) s) (fun t => t.lane 0 3 63 == 70 && t.vLeft 0 3 == 1)) = true ∧
    (let w : EngW := { opnd := 3 }
     let s := vecAt (engEnc w 0x1A) 0 0 [] [9]
     s.mayIssue 0 3 0x1A w && runs (exec (.vbcq 0 w) s) (fun t => t.lane 0 3 63 == 9 && (t.eng 0 3).pq == [])) = true := by decide +kernel

/-- The special functions at arguments whose results are exact (R192). -/
theorem test_special_functions : (vsfu 2 0x40000000).1 = 0x3F000000 ∧ (vsfu 3 0x40800000).1 = 0x3F000000 ∧ (vsfu 0 0).1 = 0x3F800000 ∧
    (vsfu 1 0x3F800000).1 = 0 ∧ (vsfu 4 0).1 = 0 ∧ (vsfu 5 0).1 = 0 ∧ vsfu 2 0 = (0x7F800000, 2) := by decide +kernel

theorem witness_VectorReduceConvertAndStops :
    [(0, 0x40400000), (5, 0x3F800000), (6, 0x40000000)].all (fun (x : Nat × W32) =>
      let w := vOpnd x.1 0 1
      let k : Eng := { st := .issuing, iq := [(0, engEnc w 0x15)] }
      let s := coreState { engs := [(3, k)], vec := { v := [(64, 0x3F800000), (65, 0x40000000)] } }
      s.mayIssue 0 3 0x15 w && runs (exec (.vred 0 w) s) (fun t => t.lane 0 3 1 == x.2 && t.vLeft 0 3 == 4)) = true ∧
    [(0, 0, 0x3F800000, 0x3F800000), (1, 0, 0xC0200000, 0xFFFFFFFE), (2, 0, 0xFFFFFFFE, 0xC0000000), (0, 11, 0x43480000, 0x42FE0000)].all
      (fun (x : Nat × Nat × W32 × W32) =>
        let w := vOpnd x.1 0 x.2.1
        let s := vecAt (engEnc w 0x17) x.2.2.1 0
        s.mayIssue 0 3 0x17 w && lane0 (exec (.vcvt 0 w) s) x.2.2.2 4) = true ∧
    (let w : EngW := { opnd := 3 + 64 + 2 ^ 32 }
     let s := vecAt (engEnc w 0x17) 0x3F800000 0
     s.mayIssue 0 3 0x17 w && !(s.vec 0).seedLoad && lane0 (exec (.vcvt 0 w) s) 0x3F800000 4) = true ∧
    (let w := vOpnd 9
     let k : Eng := { st := .issuing, iq := [(0, engEnc w 0x12)] }
     let s := coreState { engs := [(3, k)], vec := { pend := [(1, .fixed 3)] } }
     s.mayIssue 0 3 0x12 w && s.vLeft 0 1 == 3 && runs (exec (.varith 0 w) s) (fun t => (t.eng 0 3).fault == 0x151)) = true ∧
    (let w : EngW := { opnd := 3 }
     let s := coreState { engs := [(3, { st := .issuing, iq := [(0, engEnc w 0x19)] })], vec := { pend := [(3, .fixed 2)] } }
     s.mayIssue 0 3 0x19 w && s.vLeft 0 3 == 2 && runs (exec (.vmovi 0 w) s) (fun t => (t.eng 0 3).fault == 0x151)) = true ∧
    (let w : EngW := { opnd := 1 + 64 * 10 + 2 ^ 14 + 2 ^ 20 * 0xBFFFC }
     let s := vecAt (engEnc w 0x11) 7 0
     s.mayIssue 0 3 0x11 w && memOwn w true && !memAq w && !memSr w && decide (0xC0000 < memEnd w (memOff w)) &&
     !s.vecOverlap 0 (memRuns w (memOff w)) && runs (exec (.vst 0 w) s) (fun t => (t.eng 0 3).fault == 0x152)) = true ∧
    (let w : EngW := { opnd := 3 + 64 * 10 + 1024 }
     let s := vecAt (engEnc w 0x10) 0 0
     s.mayIssue 0 3 0x10 w && memOwn w false && memAq w && runs (exec (.vld 0 w) s) (fun t => (t.eng 0 3).st == .stallQueue)) = true ∧
    (let w : EngW := { opnd := 3 + 64 * 10 + 2 ^ 14 + 2 ^ 20 * 0xBFFFC }
     let s := vecAt (engEnc w 0x10) 0 0
     s.mayIssue 0 3 0x10 w && memOwn w false && !memAq w && decide (0xC0000 < memEnd w (memOff w)) &&
     runs (exec (.vld 0 w) s) (fun t => (t.eng 0 3).fault == 0x152)) = true ∧
    (let w : EngW := { opnd := 3 }
     let s := vecAt (engEnc w 0x1A) 0 0
     s.mayIssue 0 3 0x1A w && runs (exec (.vbcq 0 w) s) (fun t => (t.eng 0 3).st == .stallQueue)) = true := by decide +kernel

theorem witness_VectorMemory :
    (let w : EngW := { opnd := 3 + 64 * 10 + 2 ^ 20 * 0xBFFFC }
     let s := (vecAt (engEnc w 0x10) 0 0).wr (storeKey 0 0xBFFFC) [7]
     s.mayIssue 0 3 0x10 w && memOwn w false && !storesMeet (s.eng 0 3).out false (memRuns w 0xBFFFC) && decide (memEnd w 0xBFFFC ≤ 0xC0000) &&
     runs (exec (.vld 0 w) s) (fun t => t.lane 0 3 0 == 7 && t.vLeft 0 3 == 6)) = true ∧
    (let w : EngW := { opnd := 1 + 64 * 10 + 1024 + 2 ^ 20 * 4 }
     let s := vecAt (engEnc w 0x11) 7 0 [0x1000]
     s.mayIssue 0 3 0x11 w && memOwn w true && memAq w && !s.vecOverlap 0 (memRuns w 0x1004) && memAlign w == 4 &&
     runs (exec (.vst 0 w) s) (fun t => t.rdLE (storeKey 0 0x1004) 4 == 7 && (t.eng 0 3).aq == [])) = true ∧
    (let w : EngW := { opnd := 1 + 64 * 4 + 63 * 2 ^ 14 + 2 ^ 20 * 0x1000 }
     let s := vecAt (engEnc w 0x11) 0x3F800000 0
     s.mayIssue 0 3 0x11 w && memOwn w true && memFmt w == 4) = true ∧
    [true, false].all (fun load =>
      let w : EngW := { opnd := BitVec.ofNat 40 (boolNat load + 2 ^ 20 * 0xBFFF8) }
      let s := ((vecAt (engEnc w 0x1B) 0 0).wr (storeKey 0 0xBFFF8) [7]).setRegN (Reg.vecSeed 0) 9
      s.mayIssue 0 3 0x1B w && !s.vecOverlap 0 ((0xBFFF8, 8), (0, 0)) && runs (exec (.vseed 0 w) s) (fun t =>
        if load then t.reg (Reg.vecSeed 0) == 7 else t.rdLE (storeKey 0 0xBFFF8) 8 == 9)) = true ∧
    (let s := coreState { vec := { pend := [(63, .fixed 6)] }, cycles := 6 }
     s.vLeft 0 63 == 0 && runs (exec (.vecResultReady 0 63) s) (fun t => (t.vec 0).pend == [])) = true := by decide +kernel

/-! ### The stream engine -/

/-- A descriptor of one 4-byte tile from far to near 0x1000, with its first two bytes and its list fields. -/
def descBytes (s : State) (b0 b1 : Nat) (far : W64) (at_ : Nat) : List Byte :=
  let d := leBytes 1 b0 ++ leBytes 1 b1 ++ leBytes 2 0 ++ leBytes 2 1 ++ leBytes 2 1 ++ leBytes 3 0x1000 ++
    (List.range 5).flatMap (fun _ => leBytes 3 1) ++ leBytes 2 0 ++ (List.range 5).flatMap (fun _ => leBytes 4 4) ++ leBytes 8 far.toNat ++ leBytes 4 0
  d ++ leBytes 4 (check32c d (s.ownAddr 0 at_).toNat)

/-- The stream engine of core 0 at an STRM whose descriptor lies at 0x40. -/
def strmState (w : EngW) (x : Str := {}) (aq : List W64 := []) : State :=
  let k : Eng := { st := .issuing, iq := [(0, engEnc w 0x10)], aq := aq }
  let s := coreState { engs := [(4, k)], str := x, cycles := 4 }
  s.wr (storeKey 0 0x40) (descBytes s 0 10 (s.ownAddr 0 0x2000) 0x40)

/-- The descriptor of strmState as it is accepted. -/
def someDesc : Desc := (strmState { opnd := 0x40 }).accept 0 { opnd := 0x40 } |>.1

/-- Stream slot 2 of core 0 runs a one-tile stream. -/
def slotState (m : Strm) (xs : List Xfer := []) : State :=
  coreState { str := { slots := [(2, m)], xfers := xs, credit := [(0, 1000), (1, 1000)], turn := [(0, 1), (1, 1)] }, cycles := 4 }

def aStrm (d : Desc) : Strm := { state := 1, d := d, total := 1 }

/-- A desc of one tile of 4 bytes at 0x2000 of the own store room, written out. -/
def aDesc : Desc := { look := 4, fmt := 10, tileW := 1, slots := 1, near := 0x1000, counts := [1, 1, 1, 1, 1], strides := [4, 4, 4, 4, 4], far := 0x2000 }

theorem witness_StreamAcceptance :
    (let w : EngW := { opnd := 0x40 }
     let s := strmState w
     s.mayIssue 0 4 0x10 w && strmOwn w && (s.str 0).free.isSome && (s.str 0).window.isNone && runs (exec (.strmWindowOpen 0 w) s) (fun t =>
       ((t.str 0).window.map (fun v => (v.opened, v.bad, v.d.tileW, v.d.near))) == some (4, none, 1, 0x1000))) = true ∧
    (let w : EngW := { opnd := 0x40 }
     let s := strmState w { window := some ⟨0, w, 0, aDesc, none⟩ }
     s.mayIssue 0 4 0x10 w && (s.str 0).startSlot (s.classOf aDesc == 2) == some 0 && runs (exec (.strm 0 w) s) (fun t =>
       (t.strm 0 0).state == 1 && (t.strm 0 0).total == 1 && (t.eng 0 4).out.length == 1 && (t.str 0).window.isNone)) = true ∧
    (let w : EngW := { opnd := 0x40 }
     let s := strmState w { window := some ⟨0, w, 0, aDesc, some (0x181, 1, 0x40)⟩ }
     s.mayIssue 0 4 0x10 w && runs (exec (.strm 0 w) s) (fun t => (t.eng 0 4).fault == 0x181 && (t.str 0).window.isNone)) = true ∧
    (let i : Issued := { pc := 0, opc := 0x10, sig0 := 0xC501, sig1 := 0 }
     let m : Strm := { aStrm aDesc with done := 1, sig0 := 0xC501 }
     let s := coreState { str := { slots := [(15, m)] }, engs := [(4, { st := .issuing, out := [i] })] }
     runs (exec (.streamComplete 0 15) s) (fun t => (t.strm 0 15).state == 0 && (t.eng 0 4).out == [] && (t.core 0).tops == [⟨2, 4, 0, 5, 1⟩])) = true := by decide +kernel

/-- A descriptor with a byte changed fails its check value, and one with a reserved field fails check 2 (R233, R234). -/
theorem test_descriptor_checks :
    (((strmState { opnd := 0x40 }).wr (storeKey 0 0x44) [2]).accept 0 { opnd := 0x40 }).2 = some (0x181, 1, 0x40) ∧
    (let s := coreState {}
     ((s.wr (storeKey 0 0x40) (descBytes s 0 0x8A (s.ownAddr 0 0x2000) 0x40)).accept 0 { opnd := 0x40 }).2 = some (0x181, 2, 0x40)) ∧
    ((strmState { opnd := 0x40 }).accept 0 { opnd := 0x40 }).2 = none := by decide +kernel

theorem witness_StreamTransfers :
    [0, 1].all (fun (kind : Nat) =>
      let m : Strm := { aStrm { aDesc with kind := kind } with cls := kind }
      let s := (slotState m).wr (storeKey 0 0x1000) [1, 2, 3, 4]
      s.nextReq 0 2 == .req 0 0 0x2000 4 64 && s.turnOf 0 kind == some 2 && decide (0 < s.credit 0 kind) && decide ((s.str 0).inFlight < 768) && !s.still 0 && !s.classBusy 0 kind &&
      runs (exec (.streamRequestStart 0 2) s) (fun t => t.credit 0 kind == s.credit 0 kind - 64 && (t.strm 0 2).tile == 1 &&
        (t.str 0).xfers.map (·.bytes) == [if kind = 0 then [] else [1, 2, 3, 4]])) = true ∧
    (let s := (slotState (aStrm { aDesc with list := true, listBase := 0x4000 })).wr (storeKey 0 0x4000) [9]
     (s.strm 0 2).nextPiece == some 256 && decide (0 < s.credit 0 0) && runs (exec (.listPieceRead 0 2) s) (fun t =>
       (t.strm 0 2).pieces.map (fun p => (p.1, p.2.length, byteAt p.2 0)) == [(256, 64, 9)])) = true ∧
    [0, 1].all (fun (kind : Nat) =>
      let f : Xfer := { slot := 2, tile := 0, off := 0, len := 4, seq := 0, bytes := if kind = 0 then [] else [5] }
      let s := (slotState (aStrm { aDesc with kind := kind }) [f]).wr (storeKey 0 0x2000) [1, 2, 3, 4]
      !s.windowInReset (s.window ((s.strm 0 2).xferAddr f)) && (s.window ((s.strm 0 2).xferAddr f)).onDie &&
      runs (exec (.transferArrive 0 0) s) (fun t => (t.str 0).xfers.map (fun f => (f.arrived, f.bytes)) == [(true, if kind = 0 then [1, 2, 3, 4] else [5])])) = true ∧
    (let f : Xfer := { slot := 2, tile := 0, off := 0, len := 4, seq := 0, arrived := true }
     let s := slotState (aStrm aDesc) [f]
     !s.awaitsWrite (aStrm aDesc) f && runs (exec (.transferRetire 0 0) s) (fun t => (t.str 0).xfers.map (·.retired) == [true])) = true := by decide +kernel

theorem witness_TilesCommitInOrder :
    [0, 1].all (fun (fill : Nat) =>
      let f : Xfer := { slot := 2, tile := 0, off := 0, len := 4, seq := 0, arrived := true, bytes := [1, 2, 3, 4] }
      let m := aStrm { aDesc with fillev := fill, peg := 77 }
      let s := slotState m [f]
      m.tileAt 0 == .far 0x2000 && m.fillAfter 0 == (fill == 1) && runs (exec (.tileCommit 0 2) s) (fun t =>
        t.rdBytes (storeKey 0 0x1000) 4 == [1, 2, 3, 4] && (t.strm 0 2).done == 1 && t.pegs.fills.map (·.peg) == if fill = 1 then [77] else [])) = true ∧
    (let m : Strm := { aStrm { aDesc with list := true, listBase := 0, listRows := 1 } with pieces := [(0, [0xFF, 0xFF, 0xFF, 0xFF])] }
     let s := (slotState m).wr (storeKey 0 0x1000) [1, 2, 3, 4]
     m.tileAt 0 == .null && runs (exec (.tileCommit 0 2) s) (fun t => t.rdBytes (storeKey 0 0x1000) 4 == [0, 0, 0, 0] && (t.strm 0 2).done == 1)) = true := by
  decide +kernel

theorem witness_SuspensionsAndSplit :
    (let s := slotState { aStrm aDesc with state := 2, tile := 1, stop := some ⟨0, false, 0x183, 1, 0⟩ }
     runs (exec (.suspensionResume (.stream 0 2)) s) (fun t => (t.strm 0 2).state == 1 && (t.strm 0 2).tile == 0) &&
     runs (exec (.suspensionAbort (.stream 0 2) 3 5) s) (fun t => (t.strm 0 2).state == 0 && (t.eng 0 4).fault == 0x183)) = true ∧
    (let s : State := { chans := [(63, { send := some { inst := 4, suspended := true } })] }
     runs (exec (.suspensionResume (.sender 63)) s) (fun t => ((t.chan 63).send.map (·.suspended)) == some false) &&
     runs (exec (.suspensionAbort (.sender 63) 1 0) s) (fun t => (t.chan 63).send.isNone && (t.chan 63).inst == 5)) = true ∧
    (let x : CtlStore := { pc := 0, addr := 0x6000000, size := 4, data := 1, held := true }
     let l : CtlLoad := { pc := 0, gd := 1, addr := 0x6000000, size := 4, signed := false, held := true }
     let s := coreState { stores := [x], loads := [l] }
     runs (exec (.suspensionAbort (.ctl 0) 1 0) s) (fun t => (t.core 0).stores == [] && (t.core 0).aborted == [(1, 0x6000000)]) &&
     runs (exec (.suspensionResume (.ctl 0)) s) (fun t => (t.core 0).stores.all (fun x => !x.held) && (t.core 0).loads.all (fun x => !x.held))) = true ∧
    (let i : FmtI := { gd := 3, ga := 1, imm := 0 }
     let l : CtlLoad := { pc := 0, gd := 1, addr := 0x6000000, size := 4, signed := false, aborted := some 1 }
     let s := coreState { engCore 5 (encI 0x02 i) with loads := [l], gpend := [(1, .variable)] }
     s.atWord 0 5 (encI 0x02 i) && s.gBusy 0 1 && s.loadInto 0 1 == some l &&
     runs (exec (.addi 0 i) s) (fun t => (t.eng 0 5).fault == 0x183 && (t.core 0).loads == [] && !t.gBusy 0 1)) = true ∧
    [(0x358 : BitVec 32), 0x444].all (fun v =>
      let s := slotState (aStrm aDesc)
      s.mayWrite .steward (Reg.strSplit 0) && runs (exec (.strSplitWrite 0 .steward v) s) (fun t =>
        if v = 0x358 then t.regN (Reg.strSplit 0) == 0x358 && t.credit 0 0 == 0 else t.credit 0 0 == s.credit 0 0)) = true := by decide +kernel

/-! ### Pegs and the lantern -/

/-- Peg words: owned by region 0, live: binary empty, binary full, counting with target 1. -/
def bin0 : W64 := 0x0800000000000000
def bin1 : W64 := 0x8800000000000000
def cnt1 : W64 := 0x1800000100000000

/-- A state whose peg p holds a word. -/
def pegAt (p : Nat) (w : W64) (g : Pegs := {}) : State := ({ coreState {} with pegs := g }).putPeg p w

def aFill (p : Nat) : Fill := ⟨p, 16 + p / 16384, 0, none, none⟩

theorem witness_PegFillsAndRefusals :
    [(bin0, false), (bin1, true)].all (fun (x : W64 × Bool) =>
      let s := pegAt 4095 x.1 { fills := [aFill 4095] }
      s.fillAllowed (aFill 4095) && s.pegFree 4095 && s.pegGood 4095 && pegState (s.pegWord 4095) == 0 && runs (exec (.pegFill 4095) s) (fun t =>
        pegFull (t.pegWord 4095) && (t.pegWord 4095).getLsbD 48 == x.2 && pegArrivals (t.pegWord 4095) == 1)) = true ∧
    (let s := pegAt 65535 cnt1 { fills := [aFill 65535] }
     s.fillAllowed (aFill 65535) && s.pegGood 65535 && runs (exec (.pegFill 65535) s) (fun t => pegFull (t.pegWord 65535))) = true ∧
    [1, 2].all (fun (st : Nat) =>
      let s := pegAt 7 (pegSetState bin0 st) { fills := [aFill 7] }
      s.fillAllowed (aFill 7) && s.pegGood 7 && runs (exec (.pegFill 7) s) (fun t => t.pegWord 7 == s.pegWord 7)) = true ∧
    (let f : Fill := { aFill 7 with space := 17 }
     let s := pegAt 7 bin0 { fills := [f] }
     !s.fillAllowed f && runs (exec (.pegFill 7) s) (fun t => t.pegWord 7 == bin0 && t.fld Reg.secCounts 32 16 == 1)) = true := by decide +kernel

theorem witness_PegWaitsAndTakes :
    (let k := (engCore 0 (engEnc { wait1 := 0xC00009 } 1)).setEng 0 { st := .stallWait, iq := [(0, engEnc { wait1 := 0xC00009 } 1)] }
     let s : State := { pegAt 9 bin1 with cores := [(0, k)] }
     (s.pegWaits 0 0)[boolNat false]? == some (9, false) && s.pegGood 9 && runs (exec (.pegWatch 0 0 false) s) (fun t =>
       t.pegs.reports == [(⟨9, 0, 0⟩, ⟨9, true, 0⟩)] && t.pegs.watches == [⟨9, 0, 0⟩])) = true ∧
    (let k := engCore 0 (engEnc { wait0 := 0xC00009 } 1)
     let x : Watch × Report := (⟨9, 0, 0⟩, ⟨9, true, 0⟩)
     let s : State := { pegAt 9 bin1 with cores := [(0, k)] }
     let s : State := { s with pegs := { s.pegs with reports := [x] } }
     (s.pegWaits 0 0).contains (9, false) && runs (exec (.pegReport 0 0) s) (fun t => (t.eng 0 0).repNew == [⟨9, true, 0⟩] && t.pegs.reports == []) &&
     (s.eng 0 0).waits && ((s.takeReport 0 0 ⟨9, true, 0⟩).eng 0 0).reports == [⟨9, true, 0⟩] &&
     ((s.takeReport 0 0 ⟨9, false, 1⟩).eng 0 0).fault == 0x215) = true ∧
    [bin0, bin1].all (fun v =>
      let k := engCore 0 (engEnc { wait0 := 0xE00009 } 1)
      let s : State := { pegAt 9 v with cores := [(0, k)] }
      s.pegWaits 0 0 == [(9, true)] && s.reached 0 0 && s.pegFree 9 && s.takeReady 0 0 9 && s.pegGood 9 && runs (exec (.pegTakeRequest 0 0) s) (fun t =>
        if v = bin1 then t.pegs.grants == [⟨9, 0, 0⟩] && t.pegWord 9 == bin0 else t.pegs.takes == [⟨9, 0, 0⟩] && t.pegWord 9 == bin0)) = true ∧
    (let s : State := { pegAt 9 bin1 with cores := [(0, engCore 4 (engEnc { wait0 := 0xE00009 } 0x10))] }
     s.reached 0 4 && s.takeReady 0 4 9 && runs (exec (.pegTakeRequest 0 4) s) (fun t => t.pegs.grants == [⟨9, 0, 4⟩])) = true ∧
    [EngSt.stallWait, EngSt.stopped].all (fun st =>
      let k : Eng := { st := st, iq := [(0, engEnc { wait0 := 0xE00009 } 1)] }
      let s : State := { coreState { engs := [(0, k)] } with pegs := { grants := [⟨9, 0, 0⟩] } }
      (s.eng 0 0).waits == decide (st = .stallWait) && runs (exec (.pegGrant 0 0) s) (fun t =>
        if st = .stallWait then (t.eng 0 0).pc == 16 && (t.eng 0 0).grant.isNone && t.pegs.returns == [] else t.pegs.returns == [9])) = true ∧
    [bin0, cnt1].all (fun v =>
      let s := pegAt 9 v { returns := [9] }
      s.pegGood 9 && runs (exec (.pegReturn 9) s) (fun t => pegFull (t.pegWord 9) && t.pegs.returns == [] && pegArrivals (t.pegWord 9) == pegMode v)) = true := by
  decide +kernel

theorem witness_PegArmsAndReads :
    [bin1, 0].all (fun v =>
      let s : State := { pegAt 9 v with cores := [(0, { arms := [⟨9, 0x1000000200000002, 0, 0⟩] })] }
      s.pegGood 9 && pegOwned (s.pegWord 9) == (v == bin1) && runs (exec (.pegArmApply 0) s) (fun t => (t.core 0).arms == [] &&
        if v = 0 then (t.eng 0 5).fault == 0x217 else t.pegWord 9 == 0x9800000200000002)) = true ∧
    (let l : CtlLoad := { pc := 0, gd := 1, addr := 0x8000048, size := 8, signed := false }
     let s : State := { pegAt 9 bin1 with cores := [(0, { loads := [l] })] }
     s.pegLoad l == some 9 && s.pegGood 9 && runs (exec (.pegRead 0) s) (fun t => (t.core 0).loads.map (·.data) == [some bin1])) = true := by decide +kernel

theorem witness_PegSweeps :
    (let s := (pegAt 4095 0).setReg (Reg.pegInitWord 0) bin0
     let v : BitVec 32 := 0x80001FFF
     s.mayWrite .steward (Reg.pegInitCtrl 0) && s.fld (Reg.pegInitCtrl 0) 31 1 == 0 && pegWordOk bin0 && bitsOf v.toNat 0 12 + bitsOf v.toNat 12 13 == 4096 &&
     runs (exec (.pegInit 0 .steward v) s) (fun t => t.pegWord 4095 == 0 && t.fld (Reg.pegInitCtrl 0) 31 1 == 1 &&
       t.pegs.runs == [⟨0, some bin0, 0, 4095, 1⟩] &&
       runs (exec (.pegInitDone 0) t) (fun u => u.fld (Reg.pegInitCtrl 0) 31 1 == 0 && u.pegWord 4095 == bin0 && u.pegWord 4096 == 0 && u.pegs.runs == []))) = true ∧
    [(0x80000FFF : BitVec 32), 0x80002FFF, 0x80001000].all (fun v =>
      let s := (pegAt 4095 0).setReg (Reg.pegInitWord 0) (if v = 0x80001000 then 0x2800000000000000 else bin0)
      s.mayWrite .steward (Reg.pegInitCtrl 0) && runs (exec (.pegInit 0 .steward v) s) (fun t => t.pegs.runs == [])) = true ∧
    (let s := pegAt 4095 bin0
     s.mayWrite .steward (Reg.pegAbandon 0) && runs (exec (.pegAbandon 0 .steward 1) s) (fun t => t.pegs.runs == [⟨0, none, 1, 0, 4096⟩] &&
       t.fld (Reg.pegAbandon 0) 31 1 == 1)) = true ∧
    [1, 2].all (fun (mask : Nat) =>
      let s := pegAt 4095 bin0 { runs := [⟨0, none, mask, 4094, 2⟩] }
      s.pegGood 4094 && s.pegGood 4095 && runs (exec (.pegSweepDone 0) s) (fun t => t.pegs.runs == [] &&
        t.pegWord 4095 == if mask = 1 then pegSetState bin0 1 else bin0)) = true := by decide +kernel

theorem witness_LanternFires :
    (let r := Reg.lantern 0
     let s := ((coreState (engCore 0 (engEnc {} 1))).setReg r 3).setReg (Reg.lanternCount 0) 8
     let s : State := { s with bu := { ready := true } }
     s.fld r 5 1 == 0 && s.fld r 31 1 == 0 && decide (2 ^ s.fld r 0 5 ≤ s.fld (Reg.lanternCount 0) 0 32) && runs (exec (.lanternFire 0) s) (fun t =>
       t.fld r 31 1 == 1 && (t.fbuf 0).recs.map (fun x => (x.code, x.kind, x.unit)) == [(0x218, 2, s.unitCore 0)])) = true ∧
    (let s := (coreState {}).setReg (Reg.lantern 0) 0x20
     s.fld (Reg.lantern 0) 5 1 == 1 && runs (exec (.lanternFire 0) s) (fun t => t.fld (Reg.lantern 0) 31 1 == 0)) = true := by decide +kernel

/-! ### Memory tiers -/

/-- Space 0 maps its first 2 MiB to frame 32 of tier 1 of cellar die 1, its leaf on a data unit under the supervisor's key; the page's
first data unit stands under key 8 and number 0. -/
def tierState (writable : Bool := true) (k : Core := {}) : State :=
  let e := 3 + 4 * boolNat writable + 256 + 32 * 65536
  let s : State := { coreState k with keys := [(32, 7), (33, 8)] }
  let s := ((s.setReg (Reg.memSpace 0) 0x100000001).setRegN (Reg.memCoreSpace 0) 0).wr (cellarKey 1 0) (leBytes 12 e ++ leBytes 4 (check32c (leBytes 12 e) 0))
  { s with sealed := [(unitOf 1 0, some ⟨7, 0⟩), (unitOf 1 0x200000, some ⟨8, 0⟩)] }

/-- The same with the page's translation cached for cluster 0. -/
def cachedState (k : Core := {}) : State := let s := tierState true k; s.cache (strCaches 0) 0 0 ⟨1, 0x200000, 1, true, true⟩

/-- The tier window's first byte, of package 0. -/
def tierAddr (va : Nat) : W64 := BitVec.ofNat 64 (0x800000000000 + va)

def tierLoad (va : Nat) : CtlLoad := { pc := 0, gd := 1, addr := tierAddr va, size := 4, signed := false }
def tierStore (va : Nat) : CtlStore := { pc := 0, addr := tierAddr va, size := 4, data := 0x04030201 }

def tierIn (kind : Nat) : Strm := { aStrm { aDesc with kind := kind, far := tierAddr 0x40 } with cls := kind }
def tierInReq (kind va : Nat) : InReq := { src := 3, tag := 0xFFC0, kind := kind, addr := tierAddr va, len := 4, bytes := [1, 2, 3, 4], space := 0, cl := 0 }

/-- The walk's outcome: its mapping, or none for a cause. -/
def isMap : Except Nat Map → Option Map
  | .ok m => some m
  | .error _ => none

def isCause : Except Nat Map → Option Nat
  | .ok _ => none
  | .error n => some n

theorem witness_TranslationWalks :
    isMap ((tierState).walk 0 0) = some ⟨1, 0x200000, 1, true, true⟩ ∧ isCause ((tierState).walk 0 0x200000) = some 3 ∧
    isCause ((tierState).walk 1 0) = some 3 ∧
    [(0, none), (0x200000, some 3)].all (fun (x : Nat × Option Nat) =>
      let s := tierState true { loads := [tierLoad x.1] }
      s.tierVa (tierLoad x.1).addr == some x.1 && isCause (s.walk 0 x.1) == x.2 && (x.2.isSome || !s.chanDown 1 0x200000 4) && !s.walkHeld 0 x.1 &&
      runs (exec (.translationWalk (.load 0 0)) s) (fun t => ((t.cached [0] 0 0).isSome == x.2.isNone) && (t.core 0).loads.all (·.held) == x.2.isSome)) = true ∧
    [(0, none), (0x200000, some 3)].all (fun (x : Nat × Option Nat) =>
      let s := tierState true { stores := [tierStore x.1] }
      s.tierVa (tierStore x.1).addr == some x.1 && isCause (s.walk 0 x.1) == x.2 &&
      runs (exec (.translationWalk (.store 0 0)) s) (fun t => ((t.cached [0] 0 0).isSome == x.2.isNone) && (t.core 0).stores.all (·.held) == x.2.isSome)) = true ∧
    (let s := tierState true { str := { slots := [(0, tierIn 0)] } }
     s.streamVa 0 0 == some (0x40, 0, 0) && runs (exec (.translationWalk (.stream 0 0)) s) (fun t => (t.cached [0] 0 0).isSome)) = true ∧
    (let s := (tierState true { str := { slots := [(0, tierIn 1)] } }).setReg (Reg.memSpace 0) 0
     s.streamVa 0 0 == some (0x40, 1, 0) && isCause (s.walk 0 0x40) == some 3 &&
     runs (exec (.translationWalk (.stream 0 0)) s) (fun t => (t.strm 0 0).state == 2)) = true ∧
    (let s : State := { tierState with inreqs := [tierInReq 3 0] }
     s.tierVa (tierAddr 0) == some 0 && runs (exec (.translationWalk (.remote 0)) s) (fun t => (t.cached [0] 0 0).isSome)) = true ∧
    (let s := coreState { str := { slots := [(2, { aStrm aDesc with cls := 2, total := 3 })] } }
     runs (exec (.translationWalk (.away 0 2 1 0x40)) s) (fun t => (t.strm 0 2).done == 0 && (t.strm 0 2).stop == some ⟨1, false, 1, 1, 0x40⟩)) = true := by decide +kernel

/-- A leaf whose check fails is cause 4, and a space with ENABLE 0 cause 3 (R313 to R315). -/
theorem test_walk_check : isCause (((tierState).wr (cellarKey 1 3) [1]).walk 0 0) = some 4 ∧ isCause (((tierState).setReg (Reg.memSpace 0) 0).walk 0 0) = some 3 := by
  decide +kernel

theorem witness_TierAccesses :
    (let s := (cachedState { loads := [tierLoad 8] }).wr (cellarKey 1 0x200008) [1, 2, 3, 4]
     (s.tierTry [0] 0 8 0 4).bind isMap == some ⟨1, 0x200000, 1, true, true⟩ && runs (exec (.tierAccess (.load 0 0)) s) (fun t =>
       (t.core 0).loads.map (·.data) == [some 0x04030201])) = true ∧
    (let s := tierState true { loads := [tierLoad 8] }
     (s.tierTry [0] 0 8 0 4).isNone && runs (exec (.tierAccess (.load 0 0)) s) (fun t => (t.core 0).loads.map (·.data) == [none])) = true ∧
    (let s := cachedState { stores := [tierStore 508] }
     (s.tierTry [0] 0 508 1 4).isSome && runs (exec (.tierAccess (.store 0 0)) s) (fun t => (t.core 0).stores.map (·.done) == [true] &&
       t.rdBytes (cellarKey 1 0x2001FC) 4 == [1, 2, 3, 4])) = true ∧
    [0, 1, 2].all (fun (kind : Nat) =>
      let f : Xfer := { slot := 0, tile := 0, off := 0, len := 4, seq := 0, arrived := kind != 0, bytes := if kind = 0 then [] else [0, 0, 0x80, 0x3F] }
      let s := (cachedState { str := { slots := [(0, tierIn kind)], xfers := [f] } }).wr (cellarKey 1 0x200040) [0, 0, 0x80, 0x3F]
      s.tierVa ((s.strm 0 0).xferAddr f) == some 0x40 && (s.tierTry [16, 0] 0 0x40 kind 4).isSome && (s.strm 0 0).cls == kind && (kind == 2 ||
      runs (exec (.tierAccess (.stream 0 0)) s) (fun t => (t.str 0).xfers.map (fun f => (f.written, f.bytes)) == [(true, [0, 0, 0x80, 0x3F])]))) = true ∧
    (let m : Strm := { tierIn 2 with cls := 1 }
     let f : Xfer := { slot := 0, tile := 0, off := 0, len := 4, seq := 0, arrived := true, bytes := [0, 0, 0x80, 0x3F] }
     let s := (cachedState { str := { slots := [(0, m)], xfers := [f] } }).wr (cellarKey 1 0x200040) [0, 0, 0x80, 0x3F]
     runs (exec (.tierAccess (.stream 0 0)) s) (fun t => t.rdBytes (cellarKey 1 0x200040) 4 == [0, 0, 0, 0x40])) = true ∧
    [3, 1].all (fun (kind : Nat) =>
      let s : State := { cachedState with inreqs := [tierInReq kind 8] }
      (s.tierTry [0] 0 8 (tierInReq kind 8).access 4).isSome && (kind == 3 || s.nextUp (tierInReq kind 8)) &&
      runs (exec (.tierAccess (.remote 0)) s) (fun t => t.inreqs == [] && t.rdBytes (cellarKey 1 0x200008) 4 == if kind = 1 then [1, 2, 3, 4] else [0, 0, 0, 0])) = true ∧
    (let s : State := { cachedState with inreqs := [tierInReq 2 8] }
     (s.tierTry [0] 0 8 2 4).isSome && s.nextUp (tierInReq 2 8) && runs (exec (.tierAccess (.remote 0)) s) (fun t => t.inreqs == [])) = true := by decide +kernel

theorem witness_Invalidations :
    (let s := cachedState
     s.mayWrite .steward Reg.memInval && s.fld Reg.memInval 63 1 == 0 && runs (exec (.memInval .steward 0x8000000000000000) s) (fun t =>
       t.fld Reg.memInval 63 1 == 1 && (t.cached [0] 0 0).isSome && !t.inRegion 0 false 0 && runs (exec .memInvalDone t) (fun u =>
         (u.cached [0] 0 0).isNone && u.fld Reg.memInval 63 1 == 0) && runs (exec (.memInval .steward 0) t) (fun u => u.fld Reg.memInval 63 1 == 1))) = true ∧
    (let s := (cachedState { loads := [tierLoad 8] }).setRegN Reg.memInval 0x8000000000000000
     s.inRegion 0 false 0 && runsTo (exec .memInvalDone s) s) = true := by decide +kernel

theorem witness_PageMoves :
    (let s := (cachedState).wr (cellarKey 1 0x200008) [9]
     Memory.wf s.mem && Tab.wf regReset s.regs && (s.leafAt 0 0).isSome && !s.pageNamed 0 0 0x200000 && s.fld Reg.memInval 63 1 == 0 &&
     runs (exec (.pageMove 0 0 0 0 64) s) (fun t => isCause (t.walk 0 0) == some 1 && t.fld Reg.memInval 63 1 == 1 && t.sup.moves.map (·.begun) == [true] &&
       runsTo (exec (.pageMove 0 0 0 0 96) t) t)) = true ∧
    (let s := (cachedState).setRegN Reg.memInval 0x8000000000000000
     runs (exec (.pageMove 0 0 0 0 64) s) (fun t => t.sup.moves.map (·.begun) == [false] && (isMap (t.walk 0 0)).isSome)) = true ∧
    (let s := (cachedState).wr (cellarKey 1 0x200008) [9]
     runs (exec (.pageMove 0 0 0 0 64) s) (fun t => !t.inRegion 0 false 0 && !t.copyHeld && Memory.wf t.mem && runs (exec .memInvalDone t) (fun u =>
       u.rd8 (cellarKey 1 0x400008) == 9 && (u.cached [0] 0 0).isNone && isMap (u.walk 0 0) == some ⟨1, 0x400000, 1, true, true⟩ &&
       u.sealAt 1 0x400000 == some ⟨8, 0⟩ && u.sup.moves == []))) = true := by decide +kernel

theorem witness_RetrainsAndAttics :
    (let s := coreState {}
     let r := Reg.retrain 4
     s.mayWrite .steward r && s.fld (Reg.chStatus 4 19) 0 2 != 2 && s.fld r 9 1 == 0 && runs (exec (.memRetrain 3 .steward 0x113) s) (fun t =>
       t.fld (Reg.chStatus 4 19) 0 2 == 1 && t.fld r 9 1 == 1 && runs (exec (.retrainDone 3 1 5) t) (fun u =>
         u.fld (Reg.chStatus 4 19) 0 2 == 0 && u.fld (Reg.chStatus 4 19) 2 4 == s.fld (Reg.chStatus 4 19) 2 4 + 1 && u.fld (Reg.chStatus 4 19) 32 32 == 5) &&
       runs (exec (.retrainDone 3 2 5) t) (fun u => u.fld (Reg.chStatus 4 19) 0 2 == 2))) = true ∧
    [(0x14 : BitVec 32), 0x113].all (fun v =>
      let s := (coreState {}).setFld (Reg.chStatus 4 19) 0 2 2
      s.mayWrite .steward (Reg.retrain 4) && runs (exec (.memRetrain 3 .steward v) s) (fun t => t.fld (Reg.retrain 4) 9 1 == 0)) = true ∧
    (let s := (coreState {}).wr (atticKey 15 0x1FFFFF) [9]
     s.mayWrite .steward (Reg.attZero 15) && (List.range 4).all (fun i => !s.coreRuns (60 + i)) && runs (exec (.attZero 15 .steward 1) s) (fun t =>
       t.fld (Reg.attZero 15) 0 1 == 1 && t.rd8 (atticKey 15 0x1FFFFF) == 9 && runs (exec (.attZeroDone 15) t) (fun u =>
         u.fld (Reg.attZero 15) 0 1 == 0 && u.rd8 (atticKey 15 0x1FFFFF) == 0))) = true ∧
    (let s := coreState (engCore 0 (engEnc {} 1))
     s.coreRuns 0 && runs (exec (.attZero 0 .steward 1) s) (fun t => t.fld (Reg.attZero 0) 0 1 == 0)) = true := by decide +kernel

/-! ### The parameter update -/

/-- An update command of step 1 with one item, under the command count given. -/
def updateBytes (cmds flags : Nat) : List Byte :=
  let b := leBytes 8 1 ++ leBytes 8 0 ++ leBytes 4 flags ++ leBytes 4 1 ++ leBytes 8 128 ++ leBytes 8 0 ++ leBytes 4 0 ++ List.replicate 16 0
  b ++ leBytes 4 (check32c b cmds)

def aPass : Pass := { step := 1, lr := 0x3F000000, ssq := 0, dist := false, items := 1, table := 128, report := 0, repcap := 0 }

/-- An item of one record: G at offset 0 and W at 0x200 of cellar die 1, in slot 0 (momentum, BF16, no M). -/
def anItem : Item := { records := 1, rule := 0, key := 1, first := 0, fbit := 0, comps := [none, some (0, 0), some (0x200, 0x200), none, none, none, none] }

/-- Cellar die 1 with a pass, slot 0 configured for anItem, and G and W of lane 0 at 1. -/
def updState (p : Pass) (more : Cellar → Cellar := id) : State :=
  let s : State := { coreState {} with keys := [(33, 8)], sealed := [(unitOf 1 0, some ⟨8, 0⟩), (unitOf 1 0x200, some ⟨8, 1⟩)] }
  let s := (s.setRegN (Reg.ruleCfg 1 0) (15 * 65536 + 15 * 2 ^ 20 + 16)).setFld (Reg.engOk 1) 0 16 0xFFFF
  ((s.wr (cellarKey 1 0) [0x80, 0x3F]).wr (cellarKey 1 0x200) [0x80, 0x3F]).setCellar 1 (more { running := some p })

theorem witness_UpdatePasses :
    (let s := coreState {}
     let bs := updateBytes 0 0
     bs.length == 64 && fieldAt bs 60 4 == check32c (bs.take 60) 0 && !commandReserved bs && s.fld (Reg.updCtrl 4) 1 1 == 0 && !s.inReset &&
     runs (exec (.updateCommand 3 bs) s) (fun t => (t.cellar 4).running == some (parsePass bs) && (t.cellar 4).cmds == 1)) = true ∧
    (let s := (coreState {}).setCellar 4 { running := some aPass, cmds := 7 }
     runs (exec (.updateCommand 3 (updateBytes 7 0)) s) (fun t => (t.cellar 4).queued == some (parsePass (updateBytes 7 0)) && (t.cellar 4).running == some aPass)) = true ∧
    [(6, 0), (7, 2)].all (fun (x : Nat × Nat) =>
      let s := (coreState {}).setCellar 4 { cmds := 7 }
      runs (exec (.updateCommand 3 (updateBytes x.1 x.2)) s) (fun t => t.cellar 4 == { cmds := 8 })) = true ∧
    (let s := updState aPass
     s.ruleEn 1 0 && runs (exec (.passStart 0) s) (fun t => ((t.cellar 1).running.map (fun p => (p.started, Tab.get (fun _ => 0) p.scalars 1))) == some (true, 0x3F800000))) = true ∧
    (let s := updState { aPass with ssq := 0x7F800000, items := 0 }
     runs (exec (.passStart 0) s) (fun t => (t.cellar 1).running.isNone && t.notices == [[0x361, 1, 2, 0, 0, 1, 0, 128]])) = true ∧
    (let p := { aPass with started := true, next := 1, cur := some (0, anItem, 0), scalars := [(1, 0x3F800000), (4, 0x3F800000)] }
     let s := updState p
     !s.stopped && s.fld (Reg.engOk 1) 15 1 == 1 && decide (s.ruleKind 1 0 < 3) && !s.ruleGroup 1 0 && !s.runHeld 1 anItem [0, 1, 2, 3, 4, 5, 6] 0 1 && !s.frzDown 1 anItem 0 && !s.recDown 1 anItem recComps 0 && !s.frozen 1 anItem 0 &&
     runs (exec (.cveRun 0 15) s) (fun t => t.rdBytes (cellarKey 1 0x200) 4 == [0, 0x3F, 0, 0] && t.fld (Reg.updCounts 1) 0 32 == 1 &&
       ((t.cellar 1).running.map (·.cur)) == some none)) = true ∧
    (let s := updState { aPass with started := true, next := 1 } (fun x => { x with queued := some aPass })
     (List.range 16).all (fun e => (s.cve 1 e).run.isNone) && runs (exec (.passComplete 0) s) (fun t => (t.cellar 1).running == some aPass &&
       t.notices == [[0x361, 1, 0, 0, 0, 1, 0, 128]] && t.fld (Reg.seqStatus 1) 32 32 == 1)) = true ∧
    [false, true].all (fun (o : Bool) =>
      let s : State := { coreState {} with jobs := [(0, { open_ := o, chans := [(8, 0)], tables := [(4, 128, 1)] })] }
      let s := ((s.setChan 8 { phase := 2 }).setFld (Reg.red 8) 4 1 1).setFld (Reg.redInfo (Reg.redDie 8)) 0 32 0x40000000
      (s.tableJob 4 128).isSome && (s.jobs.map (fun j => s.updateWithheld 0 j.2 false)) == [!o] &&
      runs (exec (.updateCommand 3 (updateBytes 0 0)) s) (fun t => (t.cellar 4).running.map (·.ssq) == if o then some 0x40000000 else none)) = true ∧
    (let p := { aPass with started := true, next := 1, cur := some (0, anItem, 0) }
     let s := (updState p).setRegN (Reg.ruleCfg 1 0) (15 * 65536 + 15 * 2 ^ 20 + 16 + 5)
     s.ruleKind 1 0 == 5 && !s.ruleGroup 1 0 && !s.auxDown 1 anItem 0 && runs (exec (.cveRun 0 15) s) (fun t =>
       (t.cve 1 15).run == some { item := anItem, num := 0, first := 0, count := 1, phase := 1 } && laneOf ((t.cve 1 15).reg 4) 31 == 31 &&
       laneOf ((t.cve 1 15).reg 1) 0 == 0x3F800000)) = true := by decide +kernel

theorem witness_RuleSlots :
    [(0xF00010, 1), (0x10, 0), (0xF00000, 0), (6, 0)].all (fun (x : BitVec 64 × Nat) =>
      let s := coreState {}
      s.mayWrite .steward (Reg.ruleCfg 4 15) && !s.passBusy 4 && !s.ruleEn 4 15 &&
      runs (exec (.ruleSlotEnable 3 15 .steward x.1) s) (fun t => t.fld (Reg.ruleCfg 4 15) 4 1 == x.2)) = true ∧
    (let s := updState aPass
     s.passBusy 1 && s.mayWrite .steward (Reg.ruleCfg 1 0) && runs (exec (.ruleSlotEnable 0 0 .steward 0) s) (fun t => t.ruleEn 1 0)) = true := by decide +kernel

/-- An engine of cellar die 1 whose next instruction is this one, in record 0 of anItem. -/
def cveAtWord (op : Nat) (i : CveI) (v : Cve) : State :=
  let s := updState { aPass with started := true, next := 1, scalars := [(4, 0x40000000)] } (fun x => x.setCve 0
    { v with run := some { item := anItem, num := 0, first := 0, count := 1, phase := 1 } })
  s.setRegN (Reg.updProg 1 0) (encCve op i)

def cveTable : List (Nat × CveI × W32 × (CveI → Instr)) :=
  let i : CveI := { d := 63, a := 1, b := 2 }
  let j : CveI := { d := 63, a := 1, b := 2, c := 3 }
  let k : CveI := { d := 63, a := 1 }
  [(0x01, i, 0x40A00000, fun i => .cveAdd 0 0 i), (0x02, i, 0x40400000, fun i => .cveSub 0 0 i), (0x03, { i with bp := 1, b := 4 }, 0x41000000, fun i => .cveMul 0 0 i),
   (0x04, j, 0x40E00000, fun i => .cveFma 0 0 i), (0x05, j, 0xC0400000 + 0x400000, fun i => .cveFnma 0 0 i), (0x06, i, 0x3F800000, fun i => .cveMin 0 0 i),
   (0x07, i, 0x40800000, fun i => .cveMax 0 0 i), (0x08, k, 0x40800000, fun i => .cveAbs 0 0 i), (0x09, k, 0xC0800000, fun i => .cveNeg 0 0 i),
   (0x0A, k, 0x3F800000, fun i => .cveSgn 0 0 i), (0x0B, k, 0x40000000, fun i => .cveSqrt 0 0 i), (0x0E, i, 0, fun i => .cveCmp 0 0 i),
   (0x0F, { j with c := 4 }, 0x3F800000, fun i => .cveSel 0 0 i), (0x14, k, 0x40800000, fun i => .cveMov 0 0 i)]

def someRegs : Tab W32 := [(32, 0x40800000), (64, 0x3F800000), (96, 0x40400000)]

theorem witness_CellarVectorEngines :
    cveTable.all (fun x =>
      let s := cveAtWord x.1 x.2.1 { k := someRegs }
      (s.cveAt 1 0 x.1 x.2.1).isSome && runs (exec (x.2.2.2 x.2.1) s) (fun t => (t.cve 1 0).pc == 1 &&
        Tab.get (fun _ => 0) (t.cve 1 0).k (32 * 63) == if x.1 = 5 then 0xBF800000 else x.2.2.1)) = true ∧
    [(0x0C, fun (i : CveI) => Instr.cveRsqrt 0 0 i), (0x0D, fun i => Instr.cveRcp 0 0 i)].all (fun x =>
      let s := cveAtWord x.1 { d := 63, a := 1 } { k := someRegs }
      (s.cveAt 1 0 x.1 { d := 63, a := 1 }).isSome) = true ∧
    (let s := cveAtWord 0x10 { d := 63, a := 1 } { k := someRegs }
     (s.cveAt 1 0 0x10 { d := 63, a := 1 }).isSome && runs (exec (.cveSum 0 0 { d := 63, a := 1 }) s) (fun t => laneOf ((t.cve 1 0).reg 63) 31 == 0x40800000)) = true ∧
    (let i : CveI := { d := 63, a := 1, b := 1 }
     let s := cveAtWord 0x11 i { k := [(33, 5)] }
     (s.cveAt 1 0 0x11 i).isSome && runs (exec (.cveBcast 0 0 i) s) (fun t => laneOf ((t.cve 1 0).reg 63) 31 == 5)) = true ∧
    (let i : CveI := { d := 63, soff := 16352 }
     let s := cveAtWord 0x12 i { scratch := [(16383, 5)] }
     (s.cveAt 1 0 0x12 i).isSome && runs (exec (.cveLds 0 0 i) s) (fun t => laneOf ((t.cve 1 0).reg 63) 31 == 5)) = true ∧
    (let i : CveI := { a := 1, soff := 16352 }
     let s := cveAtWord 0x13 i { k := [(63, 5)] }
     (s.cveAt 1 0 0x13 i).isSome && runs (exec (.cveSts 0 0 i) s) (fun t => (t.cve 1 0).scratch == [(16383, 5)])) = true ∧
    (let s := cveAtWord 0x3F {} { k := someRegs }
     (s.cveAt 1 0 0x3F {}).isSome && !s.ruleGroup 1 0 && runs (exec (.cveEnd 0 0 {}) s) (fun t => (t.cve 1 0).run.isNone &&
       t.fld (Reg.updCounts 1) 0 32 == 1 && t.rdBytes (cellarKey 1 0x200) 4 == [0x80, 0x40, 0, 0])) = true ∧
    (let s := (List.range 20).foldl (fun (t : State) c => t.setFld (Reg.chStatus 1 c) 0 2 2) (cveAtWord 0x3F {} { k := someRegs })
     s.recDown 1 anItem [2, 3, 4, 6] 0 && runs (exec (.cveEnd 0 0 {}) s) (fun t => (t.cve 1 0).run.isNone && t.mem == s.mem)) = true := by decide +kernel

/-! ### The setup space and the fabric -/

/-- A write that changes exactly this register, to this value. -/
def wrote (s : State) (path : Path) (off size : Nat) (v : BitVec 64) (want : W64) : Bool :=
  s.mayWrite path off && runs (exec (.registerWrite path (BitVec.ofNat 24 off) size v) s) (fun t => t.reg off == want &&
    t.regs == (s.setReg off want).regs)

theorem witness_RegisterWrites :
    (let s := (coreState {}).setReg (Reg.opeFlags 63 1) 0xF
     wrote s .steward (Reg.engStart 63 5) 4 0xFFFFFFFF 0xFFFFF && wrote s .steward (Reg.pegInitWord 15) 8 0x0123456789ABCDEF 0x0123456789ABCDEF &&
     s.fld (Reg.pegInitCtrl 15) 31 1 == 0 && wrote s .steward (Reg.opeFlags 63 1) 4 5 0xA && wrote s .steward (Reg.tpeFed 63) 8 5 (s.reg (Reg.tpeFed 63))) = true ∧
    (let s : State := { coreState {} with bu := { ready := true }, regs := [] }
     s.mayWrite .steward (Reg.coreCode 63) && runs (exec (.registerWrite .steward (BitVec.ofNat 24 (Reg.coreCode 63)) 4 193) s) (fun t =>
       t.reg (Reg.coreCode 63) == s.reg (Reg.coreCode 63) && (t.fbuf 0).recs.map (·.code) == [0x042])) = true ∧
    (let s : State := { coreState {} with bu := { step := 11, state := 2 } }
     s.mayWrite .steward Reg.pkgId && s.locked .steward Reg.pkgId && runs (exec (.registerWrite .steward (BitVec.ofNat 24 Reg.pkgId) 4 5) s) (fun t =>
       t.reg Reg.pkgId == s.reg Reg.pkgId && t.fld Reg.secCounts 0 16 == 1)) = true ∧
    (let s : State := { coreState {} with bu := { ready := true } }
     (regFind 0x10018).isSome && s.supOwned 0x10018 && runs (exec (.registerWrite .steward 0x10018 4 5) s) (fun t =>
       t.reg 0x10018 == s.reg 0x10018 && t.fld Reg.secCounts 16 16 == 1)) = true ∧
    (let s : State := { coreState {} with bu := { ready := true } }
     !accessOk 0x400012 4 && !accessOk 0x400010 3 && (laneAt 0xE00000).isNone &&
     runs (exec (.registerWrite .steward 0x400012 4 5) s) (fun t => (t.fbuf 0).recs.map (·.code) == [0x045]) &&
     runs (exec (.registerWrite .steward 0xE00000 4 5) s) (fun t => (t.fbuf 0).recs.map (·.code) == [0x042]) &&
     !inDbg 0x400010 && runs (exec (.registerWrite .jtag 0x400010 4 5) s) (fun t => t.regs == s.regs)) = true := by decide +kernel

/-- Package 0 of a torus of shape 2 × 2 × 2 × 2, port g in a state (0 up to 7 of GUY_PORT_STATUS) with GUY_PORT_CFG 0x19. -/
def portState' (g st : Nat) (p : Port := {}) : State :=
  let s : State := { coreState {} with ports := [(g, p)], ns := 100000000 }
  ((s.setReg Reg.pkgId 0x11110000).setFld (Reg.portCfg g) 0 8 0x19).setRegN (Reg.portStatus g) st

/-- The flits of one frame with its trailer, one good and one whose check fails. -/
def goodFrame : List Byte := let f := List.replicate 2048 (0 : Byte); f ++ trailer f 0 1023 false 0 3 false
def badFrame : List Byte := List.replicate 2056 0

def aPkt (typ key : Nat) (tag addr : Nat) (src : Nat := 3) (pay : List Byte := List.replicate 4 0) (reason : Nat := 0) : Pkt :=
  { bytes := ({ dst := 0, ddie := 0, src := src, sdie := 0, typ := typ, len := pay.length, key := key, tag := tag, addr := addr, reason := reason } : Head).packet pay }

set_option maxRecDepth 100000 in
theorem witness_FabricFrames :
    (let s := portState' 7 2
     s.portTakes 7 && goodFrame.length == 2056 && runs (exec (.frameReceive 7 2 0 goodFrame) s) (fun t => (t.port 7).rxNext == 1 && (t.port 7).rx.length == 2048)) = true ∧
    (let s := portState' 7 2
     runs (exec (.frameReceive 7 0 0 badFrame) s) (fun t => (t.port 7).rxNext == 0 && (t.port 7).nak && (t.port 7).lost) &&
     runs (exec (.frameReceive 7 0 1 goodFrame) s) (fun t => (t.port 7).rxNext == 0 && (t.port 7).nak)) = true ∧
    [7, 8].all (fun (n : Nat) =>
      let f : Frame := { seq := 0, flits := [], resends := n }
      let s := portState' 7 2 { unacked := [f], sent := 1, ackAt := 100000000 - 4000 }
      s.portState 7 == 2 && runs (exec (.replayTimeout 7) s) (fun t => if n = 7 then (t.port 7).sent == 0 && t.portState 7 == 2 else t.portState 7 == 4 && t.isDown 0 7)) = true ∧
    (let k := aPkt 5 0 9 0
     let s := portState' 7 2 { rx := k.bytes }
     k.bytes.length == 128 && !isReserved 5 && (s.exitPort 0 0 0).isNone && runs (exec (.packetForward 7) s) (fun t => t.inbox.map (·.tag) == [9] && (t.port 7).rx == [])) = true ∧
    (let k : Pkt := { bytes := ({ dst := 8, ddie := 0, src := 3, sdie := 0, typ := 5, len := 1, tag := 9 } : Head).packet [0] }
     let s := (portState' 7 2 { rx := k.bytes }).setRegN (Reg.portStatus 6) 2
     s.exitPort 0 8 0 == some 6 && s.portTakes 6 && runs (exec (.packetForward 7) s) (fun t => t.inbox == [] && (t.port 6).txq.map (·.tag) == [9])) = true ∧
    (let s := portState' 7 2
     runs (exec (.packetForward 7) s) (fun t => t == s)) = true := by decide +kernel

theorem witness_PortStates :
    [0, 3, 15].all (fun (good : BitVec 4) =>
      let s := portState' 7 2 { used := 15 }
      s.portTakes 7 && s.minWidth 7 == 2 && runs (exec (.portLossOfLock 7 good) s) (fun t =>
        t.portState 7 == if good = 0 then 4 else if good = 3 then 3 else 2)) = true ∧
    [(3, 3, 2), (12, 3, 3)].all (fun (x : Nat × BitVec 4 × Nat) =>
      let s := portState' 7 (2 + 8) { used := x.1 }
      s.portTakes 7 && runs (exec (.portLossOfLock 7 x.2.1) s) (fun t => t.portState 7 == x.2.2)) = true ∧
    (let s := portState' 7 (3 + 3 * 64)
     runs (exec (.portNarrowDone 7 1) s) (fun t => t.portState 7 == 2 && t.portWidth 7 == 1 && (t.port 7).used == 3) && runs (exec (.portNarrowTimeout 7) s) (fun t => t.portState 7 == 4)) = true ∧
    (let s := portState' 7 6
     let s : State := { s with linkMap := [(7, true)] }
     runs (exec (.portUpHoldExpire 7) s) (fun t => t.portState 7 == 2 && !t.isDown 0 7)) = true ∧
    (let s := portState' 7 4
     s.portUsed 7 && s.fld (Reg.portCfg 7) 4 1 == 1 && runs (exec (.portAutoRetry 7) s) (fun t => t.portState 7 == 1)) = true ∧
    (let s := portState' 7 4
     s.mayWrite .steward (Reg.portCtrl 7) && runs (exec (.portRetrain 7 (some .steward) 0x1F) s) (fun t => t.portState 7 == 1 &&
       t.notices == [[0x415, 7, 15]] &&
       runs (exec (.portRetrain 7 (some .steward) 0x13) t) (fun u => (u.port 7).kept == some 3 && u.portState 7 == 1)) &&
     runs (exec (.portRetrain 7 none 0x1F) s) (fun t => t.portState 7 == 1 && t.notices == [] && runs (exec (.portRetrain 7 none 0x1F) t) (fun u => u == t))) = true ∧
    [(0xF, 8), (0xF, 9), (0, 8)].all (fun (x : BitVec 4 × BitVec 13) =>
      let s := portState' 7 1
      !s.refLost 7 && s.partner 7 == 8 && partnerPort 7 == 6 && runs (exec (.portRetrainDone 7 x.1 0 false x.2 6 0x1111) s) (fun t =>
        t.portState 7 == if x.1 = 0 then 4 else if x.2 = 9 then 5 else 2)) = true := by decide +kernel

/-- A job in space 0 that holds cluster 0, and its guyline slots. -/
def jobState (k : Core := {}) : State := { coreState k with jobs := [(0, { id := 1, clusters := 1, fabric := 1 })], keys := [(161, 9)], ns := 5000000 }

def okIs (x : Except State Nat) (n : Nat) : Bool :=
  match x with
  | .ok m => m == n
  | .error _ => false

/-- A stream's TAG of core 0, slot 0, epoch 0, and a control core's. -/
def ctlTag' : Nat := 0xFFC0

def aReq (kind : Nat) (backoff : Bool := false) : Req := { tag := ctlTag', kind := kind, dst := 3, addr := 0x18000000000100, len := 4, first := 0, last := 0, backoff := backoff }

theorem witness_MemoryPackets :
    [1, 2].all (fun (typ : Nat) =>
      let p := aPkt typ 1 0 (if typ = 1 then 0x100 else 0x6000000) 0
      let s : State := { jobState with inbox := [p], conns := [(0, (1, 0))] }
      okIs (s.packetJob p) 0 && s.targetOk p 0 && !s.windowInReset (s.window (s.packetAddr p)) && (s.window (s.packetAddr p)).onDie && !tagCtl p.tag &&
      s.conn p.src p.tag == (1, tagSeq p.tag) && s.inreqs.isEmpty && !p.fill &&
      runs (exec (if typ = 1 then .write 0 else .add 0) s) (fun t => t.conn p.src p.tag == (1, 1) && t.inbox.map (·.typ) == [5])) = true ∧
    (let p := aPkt 1 1 0 0x100 0
     let s : State := { jobState with inbox := [p] }
     (s.conn p.src p.tag).1 == 0 && runs (exec (.write 0) s) (fun t => t.conn p.src p.tag == (1, 1))) = true ∧
    (let p := aPkt 1 1 0 0x100
     let s : State := { jobState with inbox := [p], conns := [(3 * 65536, (1, 1))] }
     okIs (s.packetJob p) 0 && s.targetOk p 0 && (s.takeTag p.src p.tag 0).isNone && runs (exec (.write 0) s) (fun t => t.mem == s.mem && t.conns == s.conns)) = true ∧
    [1, 2, 3].all (fun (typ : Nat) =>
      let p := aPkt typ 0 0 0x100
      let s : State := { jobState with inbox := [p] }
      !okIs (({ s with inbox := [] } : State).packetJob p) 0 && runs (exec (if typ = 1 then .write 0 else if typ = 2 then .add 0 else .read 0) s) (fun t => t.inbox == [])) = true ∧
    (let p := aPkt 3 1 0 0x100 0
     let s : State := { jobState with inbox := [p] }
     okIs (s.packetJob p) 0 && s.targetOk p 0 && (s.window (s.packetAddr p)).onDie && p.src == s.pkg) = true ∧
    (let l : CtlLoad := { pc := 0, gd := 1, addr := 0x18000000000100, size := 4, signed := false, tag := some ctlTag' }
     let p := aPkt 4 0 ctlTag' 0x100 3 [1, 2, 3, 4]
     let s : State := { jobState { loads := [l] } with inbox := [p], reqs := [aReq 3] }
     (s.checked p).isNone && s.reqOf p == some (aReq 3) && runs (exec (.readData 0) s) (fun t => t.reqs == [] && (t.core 0).loads.map (·.data) == [some 0x04030201])) = true ∧
    (let x : CtlStore := { pc := 0, addr := 0x18000000000100, size := 4, data := 1, tag := some ctlTag' }
     let p := aPkt 5 0 ctlTag' 0x100 3 [0]
     let s : State := { jobState { stores := [x] } with inbox := [p], reqs := [aReq 1] }
     (s.checked p).isNone && s.reqOf p == some (aReq 1) && runs (exec (.ack 0) s) (fun t => t.reqs == [] && (t.core 0).stores.map (·.done) == [true])) = true ∧
    [1, 2, 3, 4].all (fun (reason : Nat) =>
      let p := aPkt 6 0 ctlTag' 0x100 3 [5, 0, 2, 0] reason
      let s : State := { jobState with inbox := [p], reqs := [aReq 3] }
      (s.checked p).isNone && s.reqOf p == some (aReq 3) && p.reason == reason && runs (exec (.nak 0) s) (fun t =>
        t.reqs.map (fun r => (r.backoff, r.last)) == (if reason = 4 then [] else [(reason == 1, 5000000)]) && t.isDown 5 2 == (reason == 2))) = true ∧
    [0, 5000000].all (fun (ns : Nat) =>
      let s : State := { jobState with reqs := [aReq 3, aReq 3 true], ns := ns }
      decide (0 < s.e2eTimeoutNs 5 ∧ 0 < s.e2eBackoffNs 5) && runs (exec (.e2eTimeout 0) s) (fun t => (t.reqs.map (·.last))[0]? == some ns) &&
      runs (exec (.backoffExpire 1) s) (fun t => (t.reqs.map (·.backoff))[1]? == some (ns == 0))) = true ∧
    (let s : State := { jobState with reqs := [aReq 3], ns := 65535000, bu := { ready := true } }
     decide (s.e2eLimitNs 5 ≤ s.ns) && runs (exec (.e2eLimit 0) s) (fun t => t.reqs == [] && (t.fbuf 5).recs.map (·.code) == [0x612])) = true := by decide +kernel

/-- A LINKSTATE packet with its control-payload check, and a SYNC. -/
def linkPkt : Pkt :=
  let pay := List.replicate 60 (0 : Byte)
  { bytes := ({ dst := 0, ddie := 5, src := 1, sdie := 5, typ := 9, len := 16 } : Head).packet (pay ++ leBytes 4 (check32c pay (ctlFold 0 1 0))), gin := 0 }

def syncPkt (w8 : Nat) : Pkt :=
  { bytes := ({ dst := 0, ddie := 5, src := 1, sdie := 5, typ := 0x20, len := 64 } : Head).packet
      (leBytes 8 1000 ++ leBytes 8 w8 ++ leBytes 8 1100 ++ leBytes 1 0 ++ leBytes 1 2 ++ List.replicate 38 0), gin := 0, stamp := 200 }

theorem witness_LinkStateAndTime :
    [4, 6].all (fun (seen : Nat) =>
      let s : State := { portState' 0 0 with inbox := [linkPkt], lsSeen := [(47, seen)] }
      (s.checked linkPkt).isNone && runs (exec (.linkstate 0 5 7 true 5) s) (fun t => t.inbox == [] && t.isDown 5 7 == (seen == 4))) = true ∧
    [100000000, 100000001].all (fun (next : Nat) =>
      let s := portState' 7 2 { syncNext := next }
      s.portTakes 7 && runs (exec (.syncSend 7) s) (fun t => (t.port 7).txq.map (·.typ) == if next = 100000000 then [0x20] else [])) = true ∧
    (let s : State := { portState' 0 2 with inbox := [syncPkt 0] }
     (syncPkt 0).checkOk && runs (exec (.sync 0) s) (fun t => (t.port 0).syncPeer == 1000 && (t.port 0).syncAt == 200 && t.time == s.time)) = true ∧
    (let s : State := { portState' 0 2 { depth := 0 } with inbox := [syncPkt 100], tim := { exchanges := 3 }, bu := { step := 11, state := 1 } }
     let s := (s.setReg Reg.timMaster 1).setReg Reg.timStatus 1
     s.masterOf s.onBackup == 1 && s.parentPort == some 0 && runs (exec (.sync 0) s) (fun t => t.fld Reg.timStatus 0 2 == 2 && t.tim.stepped && t.time == 900)) = true ∧
    (let s : State := { portState' 0 2 with tim := { noPath := some 0, noPrimary := some 0 } }
     let s := (s.setReg Reg.timMaster 0x80000001).setReg Reg.timStatus 2
     s.timLocked && runs (exec .timHoldover s) (fun t => t.fld Reg.timStatus 0 2 == 3 && t.pathTo (t.masterOf true) && !t.onBackup &&
       runs (exec .timMasterLost t) (fun u => u.onBackup))) = true := by decide +kernel

/-! ### Reduction and distribution -/

/-- The table of a channel at offset 512 of cellar die 1: packages 0 and 3, one bucket of two segments with ready peg 9 and landed peg 10. -/
def tableBytes' : List Byte :=
  List.replicate 64 0 ++ leBytes 2 0 ++ leBytes 2 3 ++ List.replicate 60 0 ++ leBytes 4 5 ++ leBytes 4 2 ++ leBytes 8 0 ++ leBytes 8 0 ++ leBytes 8 0x10000 ++
    leBytes 4 0 ++ leBytes 2 9 ++ leBytes 2 10 ++ leBytes 8 0x20000

/-- Channel 0 with two members, of the job in space 0, in a phase; its deadline is 1000 and its step's first instance 5. -/
def redState (cfg : Nat) (x : Chan) (g : Pegs := {}) : State :=
  let t := tierState
  let s : State := { t with jobs := jobState.jobs, keys := t.keys ++ jobState.keys, sealed := [(unitOf 1 0, some ⟨7, 0⟩), (unitOf 1 512, some ⟨7, 1⟩), (unitOf 1 0x200000, some ⟨8, 0⟩)], pegs := g, ns := 5000000 }
  let s := ((((s.setRegN (Reg.red 0) (1025 + cfg)).setRegN (Reg.redTable 0) 512).setRegN (Reg.redTime 0) (1000 + 500 * 2 ^ 32)).setRegN (Reg.redSeq 0) 5).setRegN (Reg.redSlots 0) (2 ^ 16)
  (s.wr (cellarKey 1 512) tableBytes').setChan 0 x

def openChan : Chan := { phase := 1, inst := 5 }

theorem test_channel_table : (redState 0 openChan).member 0 1 = 3 ∧ ((redState 0 openChan).bucket 0 0).ready = 9 ∧ ((redState 0 openChan).bucket 0 0).landed = 10 ∧
    (redState 0 openChan).shardLen 0 ((redState 0 openChan).bucket 0 0) 0 = 1 := by decide +kernel

/-- The packet with its payload encrypted under key 9, and its clear text at a package that holds that key. -/
def sealed9 (p : Pkt) : Pkt := p.withPayload (p.crypt 9)

/-- A packet from package 3 to channel 0, with its control-payload check where its type has one. -/
def redPkt (typ inst addr len : Nat) (pay : List Byte) : Pkt :=
  let area := pay ++ List.replicate (60 - pay.length) 0
  { bytes := ({ dst := 0, ddie := 5, src := 3, sdie := 5, typ := typ, len := len, key := 1, tag := redTag 0 0 inst, addr := addr } : Head).packet
      (if ctlChecked typ then area ++ leBytes 4 (check32c area (ctlFold (redTag 0 0 inst) 3 0)) else pay) }

def taken (s : State) (p : Pkt) : Bool := okIs (s.redTake p) 0

/-- Is the read answered? -/
def readOk (x : State × Except (Nat × Nat) (List Byte)) : Bool :=
  match x.2 with
  | .ok _ => true
  | .error _ => false

theorem witness_GradientReduction :
    [bin1, bin0].all (fun v =>
      let s := ({ redState 0 openChan with pegs := {} } : State).putPeg 9 v
      s.chanEn 0 && !s.chanNorm 0 && (s.chan 0).phase == 1 && decide (s.stepFirst 0 ≤ 5 ∧ 5 < s.stepFirst 0 + s.chanB 0) && s.pegGood 9 &&
      runs (exec (.sendUnitStart 0) s) (fun t => ((t.chan 0).send.map (·.inst)) == (if v = bin1 then some 5 else none) && t.pegWord 9 == bin0)) = true ∧
    [0, 8].all (fun (cfg : Nat) =>
      let s := redState cfg { openChan with send := some { inst := 5 } }
      decide (0 < s.shardLen 0 (s.bucket 0 0) 1) && readOk (s.redRead 0 ((s.bucket 0 0).gradVa + s.shardAt 0 (s.bucket 0 0) 1 * 512 * s.inBytes 0) (512 * s.inBytes 0)) &&
      runs (exec (.sendRound 0) s) (fun t => ((t.chan 0).send.map (fun y => Tab.get (fun _ => 0) y.sent 1)) == some 1 && t.reqs.map (·.dst) == if cfg = 0 then [3, 0] else [3, 3, 0, 0])) = true ∧
    [(5, { openChan with phase := 2, closed := [5] }, true), (6, openChan, false)].all (fun (x : Nat × Chan × Bool) =>
      let p := redPkt 0x10 x.1 (2 ^ 25) 1024 (List.replicate 1024 0)
      let s : State := { redState 0 x.2.1 with inbox := [p] }
      taken s p && decide (p.stamp.toNat < s.deadline 0) && s.seqPlace 0 (tagInst p.tag) == (if x.2.2 then .old else .later)) = true ∧
    (let p := redPkt 0x10 5 (2 ^ 25) 1024 (List.replicate 1024 0)
     let s : State := { redState 0 openChan with inbox := [p] }
     taken s p && s.seqPlace 0 (tagInst p.tag) == .open_ 5 && tagBucket p.tag == s.bucketOf 0 5 && s.member 0 1 == p.src && bitsOf p.addr 25 13 == 1 &&
     s.shardAt 0 (s.bucket 0 0) 0 == 0 && (s.slotted 0).isEmpty && s.fld (Reg.redSlots 0) 16 13 == 1) = true ∧
    [(999, false, 0), (1000, false, 0), (1000, false, 2), (1500, true, 0)].all (fun (x : Nat × Bool × Nat) =>
      let s : State := { redState x.2.2 { openChan with late := x.2.1 } with time := BitVec.ofNat 64 x.1, bu := { ready := true } }
      s.chanEn 0 && s.stillOpen 0 && s.chanRepeat 0 == (x.2.2 == 2) && s.deadline 0 == 1000 &&
      runs (exec (.redDeadline 0) s) (fun t => (t.chan 0).phase == (if x.2.2 = 2 then 3 else 1) && (t.chan 0).missing == (if x.1 = 1000 ∧ x.2.2 = 0 then [0, 1] else [])) &&
      runs (exec (.redGrace 0) s) (fun t => (t.chan 0).phase == if x.1 = 1500 then 3 else 1)) = true ∧
    (let s := redState 0 openChan
     s.mayWrite .steward (Reg.redCtrl 0) && runs (exec (.channelAbort 0 .steward) s) (fun t => (t.chan 0).phase == 3) &&
     s.mayWrite .steward (Reg.redSeq 0) && runs (exec (.channelStepSeq 0 .steward 9) s) (fun t => (t.chan 0).phase == 1 && (t.chan 0).inst == 9) &&
     runs (exec (.channelStepSeq 0 .steward 9) { s with guyOpen := [5] }) (fun t => (t.chan 0).phase == 3) &&
     runs (exec (.channelStepSeq 0 .steward 9) ((s.setFld (Reg.red 0) 5 1 1).setRegN (Reg.guy 5 + 0x41000) 3)) (fun t => (t.chan 0).phase == 1 && (t.chan 0).fb)) = true ∧
    (let s : State := { redState 2 openChan with time := 1000 }
     let s := (s.setRegN (Reg.red 1) 1).setChan 1 openChan
     s.chanSpace 1 == s.chanSpace 0 && s.stepLive 1 && runs (exec (.redDeadline 0) s) (fun t => (t.chan 1).phase == 3)) = true := by decide +kernel

/-- Three contributions of one BF16 value are added in rank order: 1, 2 and -3 (R434, R435). -/
theorem test_adder : (Part.advance false [] 3 4 { inst := 0, seg := 0, half := 0, staged := [(0, [0x80, 0x3F]), (1, [0, 0x40]), (2, [0x40, 0xC0])] }).acc = [0] := by
  decide +kernel

/-- A REPEAT notice of the open step, sealed by its sender: it is taken at channel 0 (its check is made on the clear payload). -/
theorem witness_RepeatNotice : let q := redPkt 0x14 5 (2 ^ 25) 8 (leBytes 8 5)
    let s : State := { redState 0 openChan with inbox := [sealed9 q] }
    taken s (sealed9 q) = true ∧ s.clear (sealed9 q) = leBytes 8 5 ∧ s.stepFirst 0 = 5 := by
  intro q s
  have h : s.clear (sealed9 q) = q.payload := Laws.clear_sealed s q 9 (by decide +kernel) (by decide +kernel) (by decide +kernel) (by decide +kernel) (by decide +kernel)
  refine ⟨?_, by rw [h]; decide +kernel, by decide +kernel⟩
  simp only [taken, State.redTake, State.packetJob, State.checked, h]
  decide +kernel

def aPiece : List Byte :=
  leBytes 4 5 ++ List.replicate 6 0 ++ leBytes 2 1 ++ leBytes 4 32 ++ leBytes 4 32 ++ List.replicate 12 0 ++ leBytes 2 1 ++ leBytes 2 1 ++ leBytes 4 32 ++
    leBytes 4 32 ++ List.replicate 4 0 ++ leBytes 8 0x30000 ++ List.replicate 8 0

theorem witness_NormAndDistribution :
    (let s := redState 16 openChan
     s.chanEn 0 && s.chanNorm 0 && s.othersClosed 0 && runs (exec (.normContribution 0) s) (fun t => (t.chan 0).scalarSent &&
       t.reqs.map (fun q => (q.kind, q.dst, q.bytes.length)) == [(0x11, 0, 16)])) = true ∧
    (let s : State := { redState 0 openChan with notices := [[0x3610, 1, 0, 0, 16, 0x220000, 0, 0x20000]] }
     (List.range 64).all (fun o => s.chanEn o == (o == 0)) && s.chanB 0 == 1 && s.coveredSegs 0 (s.bucket 0 0) 1 0x220000 0 0x20000 16 == [0] &&
     s.noticeSegs [0x3610, 1, 0, 0, 16, 0x220000, 0, 0x20000] == [(0, 0, 0)] && !s.redHeld 0 0x20000 1024 && readOk (s.redRead 0 0x20000 1024) && runs (exec (.distSendStart 0) s) (fun t => t.notices == [] && t.reqs.map (fun q => (q.kind, q.dst)) == [(0x13, 3), (0x13, 0)]) &&
     (let u := (List.range 20).foldl (fun (t : State) c => t.setFld (Reg.chStatus 1 c) 0 2 1) s
      u.redHeld 0 0x20000 1024 && runs (exec (.distSendStart 0) u) (fun t => t == u))) = true ∧
    [0, 7].all (fun (newest : Nat) =>
      let p := redPkt 0x13 5 0 1024 (List.replicate 1024 0)
      let s : State := { redState 0 { openChan with applied := if newest = 0 then [] else [(0, newest)] } with inbox := [p] }
      let s : State := { s with jobs := [(0, { id := 1, clusters := 1, fabric := 1, pieces := [aPiece] })] }
      taken s p && Tab.get (fun _ => 0) (s.chan 0).applied 0 == newest && (newest == 0 || seqBefore 5 (newest - 1)) && pieceTag aPiece == (s.bucket 0 0).tensor &&
      pieceTile aPiece 0 == some 0x30000 && p.len == 1024 && (s.redMapped 0 0x30000 1024).2.isNone) = true ∧
    [0, 1].all (fun (st : Nat) =>
      let p := redPkt 0x13 5 0 4 [0, 0, 0, 0]
      let s : State := { redState 0 openChan with inbox := [p], jobs := [(0, { id := 1, clusters := 1, fabric := 1, pieces := [aPiece] })] }
      ((List.range 20).foldl (fun (t : State) c => t.setFld (Reg.chStatus 1 c) 0 2 st) s).distHeld p == (st == 1) && taken s p) = true := by decide +kernel

/-- A SCALAR of rank 1 at the root of a norm channel, a result at a member, and a DIST_DONE, each sealed by its sender. -/
theorem witness_SealedControl (typ cfg len : Nat) (h : (typ, cfg, len) ∈ [(0x11, 16, 16), (0x12, 16, 32), (0x15, 0, 8)]) :
    let q := redPkt typ 5 (2 ^ 25) len (List.replicate len 0)
    let s : State := { redState cfg openChan with inbox := [sealed9 q] }
    taken s (sealed9 q) = true ∧ s.seqPlace 0 (tagInst (sealed9 q).tag) = .open_ 5 ∧ (sealed9 q).src = s.member 0 1 ∧ bitsOf (sealed9 q).addr 25 13 = 1 ∧
      s.chanRank 0 = 0 ∧ (sealed9 q).stamp.toNat < s.deadline 0 ∧ s.clear (sealed9 q) = List.replicate len 0 := by
  simp only [List.mem_cons, Prod.mk.injEq, List.not_mem_nil, or_false] at h
  rcases h with ⟨rfl, rfl, rfl⟩ | ⟨rfl, rfl, rfl⟩ | ⟨rfl, rfl, rfl⟩ <;> (
    intro q s
    have h : s.clear (sealed9 q) = q.payload := Laws.clear_sealed s q 9 (by decide +kernel) (by decide +kernel) (by decide +kernel) (by decide +kernel) (by decide +kernel)
    refine ⟨?_, by decide +kernel, by decide +kernel, by decide +kernel, by decide +kernel, by decide +kernel, by rw [h]; decide +kernel⟩
    simp only [taken, State.redTake, State.packetJob, State.checked, h]
    decide +kernel)

/-! ### Jobs, rings and serving -/

/-- A ring entry of a type for job 1, formed without a key. -/
def entry' (etype : Nat) (body : List Byte := []) (flags : Nat := 0) : List Byte := mkEntry etype flags 1 body 0 0 0

/-- Core 0 of job 1: step word at offset 0 with peg 3, bubble word at offset 64 with peg 4. -/
def aCore' : CoreEnt := ⟨0, 0, 0, 3, 64, 4⟩
def aJob' (st : JobSt) : Job := { id := 1, clusters := 1, fabric := 1, st := st, cores := [aCore'] }

/-- Ready, with the rings served, job 1 in space 0, and these entries taken. -/
def ringState (j : Job) (sup : Super := {}) (k : Core := {}) : State :=
  { coreState k with jobs := [(0, j)], bu := { ready := true }, busMaster := true, sup := sup, ns := 5000000 }

def withEntry (etype : Nat) (st : JobSt) (flags : Nat := 0) (more : Job → Job := id) (e : Eng := {}) : State :=
  ringState (more (aJob' st)) { jobq := [⟨0, entry' etype [] flags, 0⟩] } { engs := [(0, e)] }

/-- A bundle of one stage with cluster 0 and no channels, its sections at offsets 128, 192 and 448 of the payload, the last one empty. -/
def aBundle : LoadData :=
  let m := leBytes 2 1 ++ leBytes 14 0 ++ leBytes 4 1000 ++ leBytes 4 0 ++ leBytes 2 1 ++ leBytes 2 0 ++ leBytes 4 16 ++ leBytes 28 0
  let map := m ++ leBytes 4 (check32c m 192) ++ (leBytes 4 0 ++ leBytes 2 1 ++ leBytes 10 0) ++ leBytes 64 0 ++
    [0, 1, 2, 3].flatMap (fun c => leBytes 1 c ++ leBytes 7 0 ++ leBytes 4 0xFFFFFFFF ++ leBytes 4 0)
  let sec := fun (typ off : Nat) (bs : List Byte) => leBytes 2 typ ++ leBytes 2 0 ++ leBytes 4 (boolNat (typ == 1)) ++ leBytes 8 off ++ leBytes 8 bs.length ++ leBytes 4 (check32c bs off) ++ leBytes 4 0
  let one := leBytes 64 0
  let pay := sec 1 128 one ++ sec 2 192 map ++ sec 6 448 [] ++ leBytes 32 0 ++ one ++ map ++ leBytes (256 - map.length) 0
  { header := leBytes 4 0x424A4E48 ++ leBytes 2 1 ++ leBytes 2 3 ++ leBytes 4 1 ++ leBytes 4 0 ++ leBytes 8 pay.length ++ leBytes 424 0 ++ leBytes 1 1 ++ leBytes 63 0,
    sec := 0, secret := 0, payload := pay, images := [⟨[], 0, [0, 0, 0, 0, 0, 0], 0x484, 20, 63⟩], space := 0, keySlot := 1, root := (0, 0), count := 1,
    items := [0, 0, 0, 0] }

def isOk {ε α : Type} : Except ε α → Bool
  | .ok _ => true
  | .error _ => false

/-- The head of the job ring is for the job in space 0, in a state that the command admits. -/
def headed (s : State) (etype : Nat) (ok : JobSt → Bool) : Bool :=
  match s.headFor etype ok with
  | some (.ok (_, space, _)) => space == 0
  | _ => false

def job0 (t : State) (p : Job → Bool) : Bool :=
  match t.jobAt 0 with
  | some j => p j
  | none => false

theorem witness_LoadBundle :
    (let s : State := { withEntry 1 .loaded with jobs := [] }
     let s : State := { s with sup := { s.sup with jobq := [⟨0, entry' 1 (leBytes 8 0 ++ leBytes 8 aBundle.payload.length), 0⟩] } }
     (s.jobHead 1).isSome && s.fld 0x50018 22 1 == 0 && aBundle.wf && isOk (s.tryLoad aBundle (fieldAt (entBody (entry' 1 (leBytes 8 0 ++ leBytes 8 aBundle.payload.length))) 8 8))) = true ∧
    !isOk ({ withEntry 1 .loaded with jobs := [] }.tryLoad { aBundle with images := [⟨[], 0, [0, 0, 0, 0, 0, 0], 0, 20, 63⟩] } aBundle.payload.length) = true ∧
    (let s : State := { withEntry 1 .loaded with jobs := [] }
     !isOk (s.tryLoad { aBundle with sec := 5 } 0) && runs (exec (.load { aBundle with sec := 5 }) s) (fun t => t.jobs == [] && t.sup.jobq == [] &&
       (t.fbuf 0).recs.map (·.code) == [0x402])) = true := by decide +kernel

set_option maxRecDepth 100000 in
theorem witness_JobLifecycle :
    (let im : Image := { code := [], codeReg := 0, starts := [], split := 0, lantern := 0, used := 1 }
     let s := withEntry 2 .loaded 0 (fun j => { j with images := [im] }) { st := .halted }
     headed s 2 (· == .loaded) && s.inCode 0 (s.fld (Reg.engStart 0 0) 0 20) && runs (exec .start s) (fun t => job0 t (·.st == .running) && (t.eng 0 0).st == .issuing && (t.eng 0 1).st == .halted)) = true ∧
    [false, true].all (fun o =>
      let s := withEntry 3 .running 0 (fun j => { j with open_ := o }) { st := .issuing }
      headed s 3 (· == .running) && runs (exec .pause s) (fun t => job0 t (fun j => j.st == (if o then .running else .paused) && j.pausing == o) &&
        (t.eng 0 0).st == (if o then .issuing else .stopped))) = true ∧
    (let s := withEntry 3 .running 2 (fun j => { j with open_ := true }) { st := .issuing }
     headed s 3 (· == .running) && (entFlags (entry' 3 [] 2)).testBit 1 && runs (exec .pause s) (fun t => job0 t (·.st == .paused) && (t.eng 0 0).st == .stopped)) = true ∧
    [0, 1].all (fun (n : Nat) =>
      let s := withEntry 3 .running 0 id { st := .issuing }
      let s : State := { s with sup := { s.sup with fabq := [(0, entry' 0x40 (leBytes 8 1 ++ leBytes 8 n))] } }
      headed s 3 (· == .running) && runs (exec .pause s) (fun t => job0 t (fun j => j.pausing == (n == 0) && j.st == (if n = 0 then .running else .paused)))) = true ∧
    (let s := (withEntry 3 .running 2 (fun j => { j with chans := [(0, 1)] }) { st := .issuing }).setChan 0 { phase := 2 }
     headed s 3 (· == .running) && runs (exec .pause s) (fun t => t.chans == s.chans && job0 t (·.st == .paused))) = true ∧
    (let s := withEntry 4 .paused 0 id { st := .stopped, pc := 8 }
     headed s 4 (· == .paused) && runs (exec .resume s) (fun t => job0 t (·.st == .running) && (t.eng 0 0).st == .issuing && (t.eng 0 0).pc == 8 && (t.eng 0 1).st == .halted)) = true ∧
    (let s := withEntry 5 .running 0 id { st := .issuing }
     headed s 5 (fun _ => true) && runs (exec .teardown s) (fun _ => true)) = true ∧
    (let s := ringState { aJob' .running with ending := some ⟨0, 1, false⟩ }
     !s.jobTransfers 0 { aJob' .running with ending := some ⟨0, 1, false⟩ } && runs (exec (.teardownFinish 0) s) (fun t => t.jobs == [] && t.sup.held.map (·.etype) == [0x23])) = true ∧
    (let s : State := { tierState with jobs := [(0, aJob' .paused)], bu := { ready := true }, busMaster := true, sup := { jobq := [⟨0, entry' 6 (leBytes 8 0 ++ leBytes 8 65536 ++ leBytes 8 4096), 0⟩], held := [⟨0x25, 1, 0, []⟩] } }
     headed s 6 (fun x => x == .loaded || x == .paused || x == .finished) && isOk (s.redRead 0 0 65536).2) = true := by decide +kernel

set_option maxRecDepth 100000 in
theorem witness_RingsAndSteps :
    [0, 1].all (fun (seq : Nat) =>
      let s := (ringState (aJob' .loaded)).setRegN (Reg.ringCfg 0) 36
      let bs := mkEntry 1 0 1 [] 0 seq 0
      s.serving && s.ringOn 0 && !s.ringOn 3 && s.sup.polled + 500 * s.fld Reg.jobPoll 0 12 ≤ s.ns && s.fld (Reg.ringStat 0) 0 1 == 0 && s.sup.held == [] &&
      entCheckOk bs 0 == (seq == 0) && s.entryFault 0 bs 0 (s.pass 0) == 0 &&
      runs (exec (.jobPoll 1 [bs] 0 [] 0 0) s) (fun t => (t.ring 0).cons == 1 - seq && t.sup.jobq.length == 1 - seq && (t.fbuf 0).recs.map (·.code) == if seq = 0 then [] else [0x403])) = true ∧
    (let s := { ringState (aJob' .loaded) with ns := 0, sup := { polled := 1 } }
     s.ns < s.sup.polled + 500 * s.fld Reg.jobPoll 0 12 && runs (exec (.jobPoll 1 [] 0 [] 0 0) s) (fun t => t == s)) = true ∧
    [0x24, 0x30].all (fun (v : BitVec 32) =>
      let s := ringState (aJob' .loaded)
      s.mayWrite .steward (Reg.ringCfg 3) && !s.ringOn 3 && runs (exec (.ringEnable 3 .steward v) s) (fun t => t.ringOn 3 && t.ringSize 3 == 2 ^ (v.toNat % 32) &&
        runs (exec (.ringEnable 3 .steward v) t) (fun u => u == t.unmapped (Reg.ringCfg 3)) && runs (exec (.ringEnable 3 .steward 0x10) t) (fun u => !u.ringOn 3))) = true ∧
    (let body := leBytes 8 1 ++ leBytes 8 0 ++ leBytes 8 9 ++ [0]
     let s : State := ringState { aJob' .running with chans := [(63, 1)] } { fabq := [(0, entry' 0x40 body)] }
     let s := s.setRegN (Reg.red 63) 1025
     (s.fabHead 0x40 (fun j b => j.staleOpen b || (j.st == .running && j.rewind.isNone && !j.open_))).isSome && s.chanEn 63 && runs (exec .stepOpen s) (fun t => job0 t (fun j => j.open_ && j.ordinal == 1 && j.t == 1 && j.t0 == 9) && (t.chan 63).phase == 1)) = true ∧
    (let s : State := ringState { aJob' .running with open_ := true } { fabq := [(0, entry' 0x40 (leBytes 8 1 ++ leBytes 8 0))] }
     (s.fabHead 0x40 (fun j b => j.staleOpen b || (j.st == .running && j.rewind.isNone && !j.open_))).isNone && runs (exec .stepOpen s) (fun t => t == s)) = true ∧
    (let s : State := ringState (aJob' .running) { fabq := [(0, entry' 0x40 (leBytes 8 1 ++ leBytes 8 1))] }
     (s.fabHead 0x40 (fun j b => j.staleOpen b || (j.st == .running && j.rewind.isNone && !j.open_))).isSome && runs (exec .stepOpen s) (fun t => t.sup.fabq == [] && job0 t (!·.open_))) = true ∧
    [0, 1, 2].all (fun (steps : Nat) =>
      let j : Job := { aJob' .running with open_ := true, t := 1, ordinal := 1, steps := steps, chans := [(63, 1)] }
      let s := (ringState j).setChan 63 { phase := 2 }
      s.channelsDone j && s.passesDone j && runs (exec (.stepClose 0) s) (fun t => job0 t (fun k => !k.open_ && k.stepsDone == 1 && k.st == if steps = 1 then .finished else .running))) = true ∧
    (let s := ringState (aJob' .running)
     runs (exec (.stepClose 0) s) (fun t => t == s)) = true ∧
    (let s : State := { ringState { aJob' .running with open_ := true, limit := 10, t0 := 5 } with time := 15 }
     runs (exec (.jobStepLate 0) s) (fun t => job0 t (fun j => j.late && j.ended) && (t.fbuf 0).recs.map (·.code) == [0x407])) = true ∧
    [some 0, none].all (fun (n : Option Nat) =>
      let j : Job := { aJob' .running with root := 1, noRoute := n, ordinal := 1 }
      let s : State := { ringState j with ns := 65535000 }
      s.rootLost 0 j == n.isSome && runs (exec (.jobRootLost 0) s) (fun t => n.isSome || job0 t (fun k => k.ending.isNone))) = true := by decide +kernel

/-- A CTRL packet with the entry that package 3 formed as the first of its sequence: it holds its check and its tag. -/
def ctrlPkt : Pkt := { bytes := ({ dst := 0, ddie := 0, src := 3, sdie := 0, typ := 8, len := 64, tag := 0 } : Head).packet (mkEntry 2 0 1 [] ((aJob' .loaded).key 3 0) 0 0) }

theorem witness_ControlEntry : let s : State := { ringState (aJob' .loaded) with inbox := [ctrlPkt] }
    s.checked ctrlPkt = none ∧ ctrlPkt.len = 64 ∧ s.jobById (entJob ctrlPkt.payload) = some (0, aJob' .loaded) ∧ entCheckOk ctrlPkt.payload 0 = true ∧
    fieldAt ctrlPkt.payload 52 8 = entTag ((aJob' .loaded).key 3 0) ctrlPkt.payload 0 0 ∧ entClean ctrlPkt.payload = true ∧ entType ctrlPkt.payload = 2 := by
  intro s
  have h : ctrlPkt.payload = mkEntry 2 0 1 [] ((aJob' .loaded).key 3 0) 0 0 := by
    rfl
  refine ⟨by decide +kernel, by decide +kernel, by decide +kernel, ?_, ?_, by decide +kernel, by decide +kernel⟩
  · rw [h]; exact Laws.mkEntry_check ..
  · rw [h]; exact Laws.mkEntry_tag ..

theorem test_control_duplicate : let s : State := { ringState (aJob' .loaded) with inbox := [ctrlPkt], pairIn := [(3, 1)] }
    runs (exec (.ctrl 0) s) (fun t => t.sup == s.sup && t.pairIn == [(3, 1)]) = true := by decide +kernel

/-- Two request slots of 64 KiB at virtual address 0, taken and passed here. -/
def aServ : ServDef := ⟨[1], 2, 65536, 0, [0], [0], 0⟩
def aSlot : ServSlot := { id := 7, seq := 5, taken := 0, bound := 1, out := 4096, cap := 16 }

theorem witness_ServingAndMailbox :
    [0, 1].all (fun (prog : Nat) =>
      let bs := entry' 0x10 (leBytes 8 7 ++ leBytes 1 prog ++ leBytes 23 0 ++ leBytes 4 16 ++ leBytes 4 1)
      let s := ringState { aJob' .running with serving := some aServ } { reqq := [⟨0, bs, 0⟩] }
      runs (exec (.request 0 []) s) (fun t => t.sup.reqq == [] && job0 t (fun j => j.taken == 1 - prog && (Tab.get (fun _ => none) j.slots 0).map (·.id) == if prog = 0 then some 7 else none))) = true ∧
    (let bs := entry' 0x10 (leBytes 8 7 ++ leBytes 24 0 ++ leBytes 4 16 ++ leBytes 4 1)
     let s := ringState { aJob' .running with serving := some aServ, slots := [(0, some aSlot), (1, some aSlot)] } { reqq := [⟨0, bs, 0⟩] }
     runs (exec (.request 0 []) s) (fun t => t == s)) = true ∧
    [false, true].all (fun gone =>
      let s := ringState { aJob' .running with queue := if gone then [⟨5, 0, 2, 0⟩] else [] } { fabq := [(0, entry' 0x41 (passBody 5 0 2 0 gone))] }
      (s.fabHead 0x41 (fun _ _ => true)).isSome && runs (exec .reqPass s) (fun t => job0 t (fun j => j.queue == if gone then [] else [⟨5, 0, 2, 0⟩]))) = true ∧
    [(true, 1000), (false, 1000), (true, 999)].all (fun (x : Bool × Nat) =>
      let s : State := { ringState { aJob' .running with serving := some aServ, queue := if x.1 then [⟨5, 0, 2, 0⟩] else [], slots := [(1, some aSlot)] } with ns := x.2 }
      runs (exec (.requestExpire 0 1) s) (fun t => job0 t (fun j => Tab.get (fun _ => none) j.slots 1 ==
        if x.2 = 999 then some aSlot else if x.1 then none else some { aSlot with done := true }))) = true ∧
    [0, 1].all (fun (seq : Nat) =>
      let j : Job := { aJob' .running with mboxPeg := 9 }
      let s : State := { tierState with jobs := [(0, j)] }
      let s := (s.wr (cellarKey 1 0x200000) (mkEntry 0x50 0 1 [] 0 seq 0)).putPeg 9 bin1
      s.pegGood 9 && pegState (s.pegWord 9) == 0 && pegFull (s.pegWord 9) && isOk ((s.pegScreen 9).redRead 0 0 64).2 &&
      runs (exec (.mailboxArrival 0) s) (fun t => job0 t (fun k => k.mboxSeq == 1 && k.mboxq.length == 1 - seq) && t.pegWord 9 == bin0)) = true ∧
    (let s := ringState { aJob' .running with cores := [aCore', { aCore' with core := 1 }], mboxq := [entry' 0x50 (leBytes 4 0 ++ leBytes 4 9)] }
     runs (exec (.bubbleAt 0) s) (fun t => job0 t (fun j => j.bubbles == [(0, 9)] && j.mboxq == []))) = true ∧
    [[], [⟨5, 0, 2, 6⟩]].all (fun (q : List ServReq) =>
      let s := ringState { aJob' .running with queue := q, mboxq := [entry' 0x50 (leBytes 4 0 ++ leBytes 4 9)] }
      runs (exec (.bubbleAt 0) s) (fun t => job0 t (fun j => j.bubbles == [] && j.queue == []) && t.pegs.fills.map (·.peg) == [4] &&
        t.rdBytes (storeKey 0 64) 8 == (leBytes 4 (if q = [] then 0 else 2) ++ leBytes 4 9))) = true ∧
    (let s := ringState { aJob' .running with serving := some aServ, slots := [(1, some aSlot)], mboxq := [entry' 0x51 (leBytes 8 5 ++ leBytes 4 0)] }
     runs (exec (.reqOut 0) s) (fun t => job0 t (fun j => j.slots == [] && j.mboxq == []) && t.sup.held.map (·.etype) == [0x24])) = true ∧
    [0, 65536].all (fun (len : Nat) =>
      let j : Job := { aJob' .running with mboxq := [entry' 0x52 (leBytes 8 0 ++ leBytes 8 len ++ leBytes 2 0 ++ leBytes 2 9)] }
      let s : State := { tierState with jobs := [(0, j)] }
      (j.mail 0x52).isSome && s.pagesOf 0 (len / 65536 + 2) 0 len == (if len = 0 then [] else [0]) && !s.pageNamed 0 0 0x200000 &&
      runs (exec (.place 0 []) s) (fun t => if len = 0 then t.pegs.fills.map (·.peg) == [9] && job0 t (·.mboxq == []) else t == s) &&
      runs (exec (.place 0 [(0, 64)]) s) (fun t => len == 0 || (t.pegs.fills == [] && t.sup.moves.map (fun m => (m.frame, m.begun)) == [(64, true)] &&
        t.fld Reg.memInval 63 1 == 1 && job0 t (·.mboxq == [])))) = true ∧
    (let s := ringState { aJob' .running with mboxq := [entry' 0x53] } { held := [⟨0x25, 1, 0, []⟩] }
     runs (exec (.mailboxNote 0) s) (fun t => job0 t (·.mboxq == []) && t.sup.held.map (·.etype) == [0x25, 0x25])) = true := by decide +kernel

/-! ### Bring-up -/

/-- The state in which step n may be begun: step n - 1 has passed. -/
def beforeStep (n : Nat) (b : Bu := {}) : State := { coreState {} with bu := if n = 1 then b else { b with step := n - 1, state := 2 }, ns := 1000 }

/-- Step n runs, its action carried out; it began at time 0. -/
def inStep (n : Nat) (f : Option BuFail := none) : State := { coreState {} with bu := { step := n, state := 1, acted := true, fail := f }, ns := 1000 }

/-- The step has begun, with this failure detail. -/
def begins (i : Instr) (s : State) (n : Nat) (f : Option Nat) : Bool :=
  s.takesGo .steward n && runs (exec i s) (fun t => t.bu.step == n && t.bu.state == 1 && t.bu.acted && (t.bu.fail.map (·.detail)) == f)

def goodDefects : Defects := { cores := [67], arrays := [(67, 1, true, 31)], cves := [(4, 15)], sup := [3] }

/-- Package 0 of a torus of two packages in every dimension, with every port enabled. -/
def allPorts (s : State) : State := (List.range 8).foldl (fun t g => t.setFld (Reg.portCfg g) 0 1 1) (s.setReg Reg.pkgId 0x11110000)

theorem witness_BringUpSteps :
    begins (.powerAndClocks .steward none none) (beforeStep 1) 1 none = true ∧ begins (.powerAndClocks .steward (some 3) none) (beforeStep 1) 1 (some 0x0104) = true ∧
    (let s := beforeStep 1
     begins (.powerAndClocks .steward none none) { s with pins := { s.pins with lost100 := true } } 1 (some 0x0102)) = true ∧
    begins (.fuseRead .steward (some 0) {}) (beforeStep 2) 2 (some 0x0201) = true ∧
    (goodDefects.wf && begins (.fuseRead .steward none goodDefects) (beforeStep 2) 2 none &&
      runs (exec (.fuseRead .steward none goodDefects) (beforeStep 2)) (fun t => t.regN (Reg.fuseCore 3) == 0x10000 && t.fld Reg.yieldSup 0 4 == 8 &&
        t.regN (Reg.yieldArray 67 1) == 0x11F3F)) = true ∧
    (begins (.selfTest .steward { goodDefects with units := [(6, 0)] } [0]) (beforeStep 3) 3 none &&
      runs (exec (.selfTest .steward { goodDefects with units := [(6, 0)] } [0]) (beforeStep 3)) (fun t => t.fld Reg.yieldSup 14 1 == 1 && t.fld (Reg.celOk 4) 15 1 == 0)) = true ∧
    begins (.yieldMap .steward) ([1, 2, 3, 4].foldl (fun t d => t.setRegN (Reg.celOk d) 0x0FFF) (beforeStep 4 { fuse := { cores := [67] } })) 4 none = true ∧
    begins (.yieldMap .steward) (beforeStep 4 { fuse := { cores := [65, 66] } }) 4 (some 0x0401) = true ∧
    begins (.islandClocks .steward (some (6, 1, 2))) (beforeStep 6) 6 (some 0x0601) = true ∧ begins (.islandClocks .steward none) (beforeStep 6) 6 none = true ∧
    begins (.dieToDieLinks .steward [] (some (6, 1))) (beforeStep 7) 7 (some 0x0701) = true ∧ begins (.dieToDieLinks .steward [] none) (beforeStep 7) 7 none = true ∧
    begins (.tier1 .steward none) (beforeStep 8) 8 none = true ∧ begins (.tier1 .steward (some (3, 15, 4))) (beforeStep 8) 8 (some 0x0801) = true ∧
    (let spd := List.replicate 16 (List.replicate 1 ({ size := 2 } : Spd))
     let s := beforeStep 9
     (List.range 16).all (fun k => chanSpd spd k == [{ size := 2 }]) && popOk 1 2 (s.fld (Reg.t2Cfg 4) 0 4) false && s.fld (Reg.t2Cfg 4) 4 1 == 0 &&
     begins (.tier2 .steward spd none) s 9 none) = true ∧
    begins (.tier2 .steward (List.replicate 16 (List.replicate 1 ({ size := 7 } : Spd))) none) (beforeStep 9) 9 (some 0x0902) = true ∧
    (let s := allPorts (beforeStep 10)
     s.torus == 16 && s.pkg == 0 && begins (.fabric .steward) s 10 none && runs (exec (.fabric .steward) s) (fun t => t.portState 7 == 1)) = true ∧
    begins (.fabric .steward) ((allPorts (beforeStep 10)).setFld (Reg.portCfg 7) 0 1 0) 10 (some 0x0A05) = true ∧
    [0, 1].all (fun (m : Nat) =>
      let s := (allPorts (beforeStep 11)).setRegN Reg.timMaster m
      begins (.timeBase .steward) s 11 none && runs (exec (.timeBase .steward) s) (fun t => t.fld Reg.timStatus 0 2 == if m = 0 then 2 else 1)) = true ∧
    begins (.timeBase .steward) ((allPorts (beforeStep 11)).setRegN Reg.timMaster 16) 11 (some 0x0B02) = true ∧
    begins (.identityAndMeasurement .steward false) (beforeStep 12) 12 (some 0x0C01) = true ∧ (beforeStep 12).takesGo .steward 12 = true ∧
    begins (.firmwareLoad .steward) (beforeStep 13) 13 (some 0x0D04) = true ∧
    (let s := (portState' 7 2)
     let s := { s with bu := { step := 12, state := 2 } }.setFld Reg.buPlan 48 4 2
     s.planCode 13 == 2 && s.fwParent == some 7 && s.fwHeld == 0 && !s.verified 3 && begins (.firmwareLoad .steward) s 13 none &&
     runs (exec (.firmwareLoad .steward) s) (fun t => t.reqs.map (fun r => (r.kind, r.dst)) == [(8, s.peerOf 7)])) = true ∧
    (let s := beforeStep 14
     s.takesGo .steward 14 && s.imageBytes 1 == [] && (s.eng 63 5).st == .halted && runs (exec (.coreFirmware .steward (some (0, 63))) s) (fun t => t.bu.noAck == some (0, 63))) = true ∧
    (let s := (inStep 13).setFld Reg.buPlan 48 4 2
     s.takingChunks && s.planCode 13 == 2 && s.fwParent.isNone && runs (exec (.firmwareLoad .steward) s) (fun t => t == s)) = true ∧
    [0, 1].all (fun (n : Nat) =>
      let s := beforeStep 14 { fw := { totals := [(1, n)] } }
      s.takesGo .steward 14 && s.chunksGood 1 == (n == 0) && runs (exec (.coreFirmware .steward none) s) (fun t => t.bu.noAck == if n = 0 then none else some (0, 0))) = true ∧
    begins (.ready .steward) (beforeStep 15) 15 none = true ∧
    (let s := beforeStep 5
     s.mayWrite .steward Reg.buCtrl && s.bu.refusesGo 15 && runs (exec (.ready .steward) s) (fun t => t.bu.step == 4 && t.bu.log.map (·.fault) == [0x082])) = true ∧
    (let s := (beforeStep 10).setFld Reg.buPlan 36 4 1
     s.planCode 10 == 1 && s.mayWrite .steward Reg.buCtrl && runs (exec (.fabric .steward) s) (fun t => t.bu.step == 10 && t.bu.state == 4)) = true := by decide +kernel

/-- Step 5 where neither fuses nor tests name a defect, no spare is used, and no array is remapped. -/
theorem witness_Spares : let s := (List.range 128).foldl (fun t n => t.setRegN (Reg.opeRemap (n / 2) (n % 2)) (t.remapWant (n / 2) (n % 2))) ((beforeStep 5).setReg Reg.spareCore 0x1F1F1F1F)
    (begins (.spares .steward) s 5 none && (List.range 4).all (fun q => !s.slotRefused q)) = true := by decide +kernel

theorem witness_BringUpEnds :
    [(1, 1000), (8, 1000), (9, 1000), (15, 999999), (15, 1000000), (14, 1000)].all (fun (x : Nat × Nat) =>
      let s : State := { inStep x.1 with ns := x.2 }
      runs (exec .buStepEnd s) (fun t => t.bu.state == (if x.2 = 1000000 then 1 else 2) && t.bu.ready == (x.1 == 15 && x.2 != 1000000) && t.fld (Reg.t1Cfg 4) 8 1 == (if x.1 = 8 then 1 else 0)) &&
      runs (exec .buStepLimit s) (fun t => t.bu.state == if x.2 = 1000000 then 3 else 1)) = true ∧
    [(11, 1, 1), (11, 2, 2), (13, 14, 1), (13, 15, 2), (10, 0, 2)].all (fun (x : Nat × Nat × Nat) =>
      let s := ((inStep x.1).setFld Reg.timStatus 0 2 x.2.1).setFld Reg.fwStatus 0 4 x.2.1
      let s := s.setReg Reg.buWait 0x00010001
      decide (s.ns < s.bu.began + s.buLimit) && runs (exec .buStepEnd s) (fun t => t.bu.state == x.2.2)) = true ∧
    (let s : State := { inStep 14 with bu := { step := 14, state := 1, acted := true, noAck := some (0, 63) } }
     runs (exec .buStepEnd s) (fun t => t == s) && runs (exec .buStepLimit { s with ns := 50000000 }) (fun t => t.bu.log.map (fun e => (e.outcome, e.detail)) == [(1, 0x0E01)])) = true ∧
    (let s := inStep 3 (some ⟨0x0401, 0x081, 0, 1, 2⟩)
     runs (exec .buStepEnd s) (fun t => t.bu.ended && t.bu.state == 3 && t.bu.log.map (fun e => (e.outcome, e.detail)) == [(1, 0x0401)])) = true ∧
    (let s := ({ inStep 13 with ns := 1000000000 } : State).setReg Reg.buWait 0x00010001
     let s := s.setFld Reg.buPlan 48 4 2
     decide (s.bu.began + s.buLimit ≤ s.ns) && runs (exec .buStepLimit s) (fun t => t.bu.log.map (fun e => (e.outcome, e.detail)) == [(1, 0x0D03)])) = true := by decide +kernel

theorem witness_SparesRepointed :
    (let s : State := (((coreState { g := [(1, 7)] }).setReg Reg.spareCore 0x1F1F1F1F).wr (storeKey 0 0) [5]).setCore 64 { g := [(1, 9)] }
     let s : State := { s with bu := { step := 4, state := 2 } }
     s.mayWrite .steward Reg.spareCore && !s.locked .steward Reg.spareCore && Memory.wf s.mem && (List.range 4).all (fun q => s.slotOf q == 31) &&
     runs (exec (.spareRepoint .steward 0x1F1F1F00) s) (fun t => t.slotOf 0 == 0 && t.slotOf 3 == 31 && t.g 0 1 == 9 && t.g 64 1 == 7 && t.rd8 (storeKey 0 0) == 0 &&
       t.rd8 (hiddenStore 0) == 5) &&
     runs (exec (.spareRepoint .steward 0x1F1F1F1F) s) (fun t => t == s) &&
     (let u : State := { s with bu := { step := 5, state := 2 } }
      u.locked .steward Reg.spareCore && runs (exec (.spareRepoint .steward 0x10101010) u) (fun t => t.slotOf 0 == 31 && t.fld Reg.secCounts 0 16 == 1)) &&
     [0x10101010, 0x1E1E1E1E].all (fun (v : BitVec 32) => runs (exec (.spareRepoint .steward v) s) (fun t => t.bu.spareBad.isSome && t.slotOf 0 == 31))) = true := by decide +kernel

/-! ### Firmware, recovery, checks and security -/

/-- Chunk k of an image, its body zero, with a TAG. -/
def aChunk (image k total len : Nat) (tag : List Byte := leBytes 8 0) : List Byte :=
  let b := leBytes 4 image ++ leBytes 4 k ++ leBytes 4 total ++ leBytes 2 len ++ leBytes 994 0
  b ++ tag ++ leBytes 8 (chunkCheck b)

/-- Step 13 takes image 0 with held chunks of total; form 2 is the fabric's. -/
def fwState (form held total : Nat) (fw : Fw := {}) : State :=
  let s : State := { inStep 13 with bu := { step := 13, state := 1, acted := true, fw := { fw with totals := [(0, total)] } } }
  ((s.setFld Reg.buPlan 48 4 form).setFld Reg.fwStatus 16 16 held).setFld (Reg.fwLen 0) 0 16 total

set_option maxRecDepth 100000 in
theorem witness_FirmwareImages :
    (let bs := aChunk 0 0 2 984
     let s := fwState 0 0 2
     s.takingChunks && chunkOk 0 0 bs && fieldAt bs 8 4 == s.fld (Reg.fwLen 0) 0 16 && s.regN (Reg.fwAddr 0) == 0) = true ∧
    (let bs := aChunk 0 0 1 100
     let s := fwState 0 0 1
     s.takingChunks && chunkOk 0 0 bs && fieldAt bs 8 4 == s.fld (Reg.fwLen 0) 0 16 && s.imageWhole.bu.fail.map (·.detail) == some 0x0D02) = true ∧
    (let bs := aChunk 0 0 1 100
     let s := fwState 0 0 2
     chunkOk 0 0 bs && runs (exec (.firmwareChunk (.port 0 bs)) s) (fun t => t.bu.fail.map (·.detail) == some 0x0D04)) = true ∧
    [7, 8].all (fun (n : Nat) =>
      let bs := aChunk 1 0 2 984
      let s := fwState 0 0 2 { fails := [(0, n)] }
      !chunkOk 0 0 bs && runs (exec (.firmwareChunk (.port 0 bs)) s) (fun t => t.fwHeld == 0 && t.fld (Reg.chkFails 8) 0 32 == 1 && t.bu.fail.isSome == (n == 8))) = true ∧
    (let s := beforeStep 13
     !s.takingChunks && runs (exec (.firmwareChunk (.port 0 [])) s) (fun t => t == s) && runs (exec (.firmwareChunk (.port 1024 (aChunk 0 0 2 984))) (fwState 0 0 2)) (fun t => t == fwState 0 0 2)) = true ∧
    (let bs := aChunk 0 0 2 100
     let p : Pkt := { bytes := ({ dst := 0, ddie := 0, src := 3, sdie := 0, typ := 8, len := 1024 } : Head).packet bs }
     let s : State := { fwState 2 0 2 { asked := [0], fails := [(0, 6)] } with inbox := [p] }
     (s.checked p).isNone && p.payload == bs && !chunkOk 0 0 bs && s.takingChunks && runs (exec (.firmwareChunk (.packet 0)) s) (fun t => t.fwHeld == 0 &&
       t.reqs.map (·.kind) == [8] && t.fld (Reg.chkFails 8) 0 32 == 1)) = true ∧
    [0, 1].all (fun (flip : Nat) =>
     let p : Pkt := { bytes := ({ dst := 0, ddie := 0, src := 3, sdie := 0, typ := 8, len := 20 } : Head).packet (pullPayload flip 3 0 (leBytes 16 0)) }
     let s : State := { (fwState 0 0 2 { chunks := [(5, aChunk 0 5 9 984)] }).setFld Reg.fwStatus 0 1 1 with inbox := [p] }
     (s.checked p).isNone && s.verified 0 && s.fwChunk 0 5 != [] && pullCheckOk p 0 == (flip == 0) && runs (exec (.firmwarePull 0 0 5 1) s) (fun t =>
       t.reqs.map (fun r => (r.dst, r.len)) == (if flip = 0 then [(3, 1024)] else []) && t.fld (Reg.chkFails 10) 0 32 == flip)) = true := by
  decide +kernel

def aRec (code die : Nat) (unit : W32) (esc : Bool := false) : FaultRec := ⟨code, 2, esc, 0, unit, 0, 0, 0, 0, 0, die, none⟩

set_option maxRecDepth 100000 in
theorem witness_FaultBuffersAndWatchdog :
    (let s := (coreState {}).setFbuf 6 { recs := [aRec 0x0C6 6 0] }
     runs (exec (.faultRecordMove 6) s) (fun t => (t.fbuf 6).recs == [] && (t.fbuf 0).recs == [aRec 0x0C6 6 0])) = true ∧
    [36, 4].all (fun (cfg : Nat) =>
      let s := ((ringState (aJob' .running)).setFbuf 0 { recs := [aRec 0x0C6 6 0], head := 1023 }).setRegN (Reg.ringCfg 2) cfg
      s.ringRoom 2 == (cfg == 36) && runs (exec (.faultRecordMove 0) s) (fun t => (t.fbuf 0).head == (if cfg = 36 then 0 else 1023) && (t.ring 2).prod == boolNat (cfg == 36))) = true ∧
    [1, 2].all (fun (n : BitVec 11) =>
      let s := (coreState {}).setFbuf 0 { recs := [aRec 0x0C6 6 0] }
      s.mayWrite .steward Reg.fltAck && runs (exec (.fltBufAck .steward n) s) (fun t => if n = 1 then (t.fbuf 0).recs == [] else t == s.unmapped Reg.fltAck)) = true ∧
    (let s := ringState (aJob' .running)
     !s.inReset && runs (exec (.d2dLink 6 0 1 true) s) (fun t => (t.fbuf 6).recs.map (·.code) == [0x0C5]) &&
       runs (exec (.dieInternalFault 6 1 2) s) (fun t => (t.fbuf 6).recs.map (·.code) == [0x0C6])) = true ∧
    (let s : State := { coreState {} with beat := some 0, ns := 7 }
     s.mayWrite .steward Reg.fltBeat && runs (exec (.fltHeartbeat .steward) s) (fun t => t.beat == some 7)) = true ∧
    [9999999, 10000000].all (fun (ns : Nat) =>
      let s : State := { coreState { engs := [(0, { st := .issuing })] } with beat := some 0, ns := ns }
      runs (exec (.supFault false) s) (fun t => t.stopped == (ns == 10000000) && (t.eng 0 0).st == if ns = 10000000 then .stopped else .issuing) &&
      runs (exec (.supFault true) s) (fun t => t.stopped && t.pins.alert)) = true := by decide +kernel

/-- The unit word of core 0, and of the package's die 1. -/
def core0 : W32 := unitWord 0 0 0 0 0 0 2
def die1 : W32 := unitWord 0 1 0 0 0 0 5

set_option maxRecDepth 100000 in
theorem witness_ResetsAndRecovery :
    [(0x80003F01, 1, 63), (0x80000F02, 2, 15)].all (fun (x : BitVec 32 × Nat × Nat) =>
      let s := coreState { g := [(1, 7)] }
      s.mayWrite .steward Reg.fltReset && resetTargetOk x.2.1 x.2.2 && runs (exec (.fltReset .steward x.1) s) (fun t => t.rst == some ⟨x.2.1, x.2.2, 0⟩)) = true ∧
    (let s := coreState { g := [(1, 7)], tally := [(1, 5)] }
     runs (exec (.fltReset .steward 0x80000001) s) (fun t => t.g 0 1 == 0 && t.tally 0 1 == 0) &&
     !resetTargetOk 3 4 && runs (exec (.fltReset .steward 0x80000403) s) (fun t => t == s.unmapped Reg.fltReset)) = true ∧
    (let s : State := { ringState (aJob' .running) with rst := some ⟨3, 3, 0⟩ }
     runs (exec .resetComplete s) (fun t => t.rst.isNone && (t.fbuf 0).recs.map (·.code) == [0x0C3])) = true ∧
    [[], [1]].all (fun (js : List Nat) =>
      let s : State := { coreState {} with rst := some ⟨2, 15, 0⟩, recov := [{ level := 3, target := 15, began := 0, phase := 1, jobs := js }] }
      runs (exec .resetComplete s) (fun t => t.rst.isNone && t.recov.map (·.phase) == if js = [] then [] else [2])) = true ∧
    (let s : State := { coreState {} with recq := [aRec 0x400 0 core0] }
     (s.caughtCore (aRec 0x400 0 core0)).isNone && ((aRec 0x400 0 core0).recovery false).isNone && runs (exec .recoveryStart s) (fun t => t.recq == [])) = true ∧
    (let s : State := { coreState { g := [(1, 7)] } with recq := [aRec 0x0C1 0 core0] }
     (aRec 0x0C1 0 core0).recovery false == some 2 && s.jobsIn 2 0 == [] && (s.caughtCore (aRec 0x0C1 0 core0)).isNone &&
     runs (exec .recoveryStart s) (fun t => t.rst == some ⟨1, 0, 0⟩ && t.recov.map (fun w => (w.level, w.target, w.phase)) == [(2, 0, 1)] && t.g 0 1 == 0)) = true ∧
    [false, true].all (fun o =>
      let j : Job := { aJob' .running with open_ := o }
      let s : State := { coreState {} with recq := [aRec 0x0C1 0 core0], jobs := [(0, j)] }
      s.jobsIn 2 0 == [(0, j)] && (s.recoveryFails j).isNone && runs (exec .recoveryStart s) (fun t => t.rst == some ⟨1, 0, 0⟩ &&
        job0 t (fun k => k.rewind.isSome && k.tries == boolNat o))) = true ∧
    (let j : Job := { aJob' .running with open_ := true, tries := 3 }
     let s : State := { coreState {} with recq := [aRec 0x0C1 0 core0], jobs := [(0, j)] }
     s.recoveryFails j == some 2 && runs (exec .recoveryStart s) (fun _ => true)) = true ∧
    (let s : State := { coreState {} with recq := [aRec 0x0C6 1 die1] }
     (aRec 0x0C6 1 die1).recovery false == some 6 && (s.caughtCore (aRec 0x0C6 1 die1)).isNone && runs (exec .recoveryStart s) (fun t => t.pins.alert && t.fld Reg.fltOther 22 1 == 1)) = true ∧
    (let w : Recov := { level := 2, target := 0, began := 0, phase := 1 }
     let s : State := { coreState {} with recq := [aRec 0x0C1 0 core0 true], recov := [w] }
     w.covers core0.toNat && s.jobsIn 3 0 == [] && runs (exec .recoveryStart s) (fun t => t.rst == some ⟨2, 0, 0⟩ && t.recov.map (fun w => (w.level, w.target)) == [(3, 0)])) = true ∧
    (let w : Recov := { level := 2, target := 0, began := 0, phase := 2, jobs := [1] }
     let s : State := { coreState {} with jobs := [(0, { aJob' .running with debug := true, rewind := some 0, images := [⟨[5], 0, [], 0, 0, 63⟩] })], recov := [w] }
     runs (exec (.rewindDone 0) s) (fun t => job0 t (·.rewind.isNone) && t.recov == [] && t.rd8 (storeKey 0 0) == 5) &&
     runs (exec (.rewindDone 0) (s.setFld Reg.dbgCatch 0 1 1)) (fun t => t.missed.contains 0)) = true := by decide +kernel

theorem witness_ChecksAndQuotes :
    [(0, 65536), (3, 1)].all (fun (x : Fin 4 × Nat) =>
      let s := (coreState {}).setRegN Reg.chkLen x.2
      s.mayWrite .steward Reg.chkOp && s.chkBytes.isSome && runs (exec (.chkCompute .steward x.1) s) (fun t => t.fld Reg.chkOp 5 1 == 1 && t.fld Reg.chkOp 2 1 == 0) &&
      runs (exec (.chkCompare .steward x.1) s) (fun t => t.fld Reg.chkOp 0 2 == x.1 && t.fld Reg.chkOp 2 1 == 1)) = true ∧
    [0, 65537].all (fun (n : Nat) =>
      let s := (coreState {}).setRegN Reg.chkLen n
      s.chkBytes.isNone && runs (exec (.chkCompute .steward 0) s) (fun t => t == s.unmapped Reg.chkOp)) = true ∧
    [0, 1].all (fun (n : Nat) =>
      let s := (((coreState {}).setRegN Reg.chkLen 1).setRegN Reg.chkOp 0x24).setRegN Reg.chkExpect (chkValue 0 (0 :: foldBytes 0) + n)
      s.chkBytes == some [0] && runs (exec .chkDone s) (fun t => t.fld Reg.chkOp 5 1 == 0 && t.fld Reg.chkOp 6 1 == 1 - n)) = true ∧
    (let s := coreState {}
     runs (exec .chkDone s) (fun t => t == s)) = true ∧
    [(13, true), (14, true), (12, false)].all (fun (x : Nat × Bool) =>
      let s : State := { ringState (aJob' .running) with bu := { step := x.1, state := 2 } }
      s.mayWrite .steward Reg.quoteCtrl && s.measured == x.2 && runs (exec (.quote .steward 0 true) s) (fun t => if x.2 then t.fld Reg.quoteCtrl 9 1 == 1 else t == s.unmapped Reg.quoteCtrl)) = true ∧
    (let s := (coreState {}).setFld Reg.quoteCtrl 9 1 1
     runs (exec .quoteDone s) (fun t => t.fld Reg.quoteCtrl 9 1 == 0 && t.fld Reg.quoteCtrl 10 1 == 1)) = true ∧
    (let s := coreState {}
     s.mayWrite .steward (Reg.nonce 5) && runs (exec (.secNonceWrite .steward 5 9) s) (fun t => t.reg (Reg.nonce 5) == 9)) = true ∧
    [(3, 3), (4, 0), (0, 0)].all (fun (x : BitVec 6 × Nat) =>
      let s : State := (fwState 0 0 2 { chunks := [(0, List.replicate 29 0 ++ [3])] }).setFld Reg.fwStatus 0 1 1
      s.mayWrite (.supervisor 3) Reg.svnRaise && byteAt (s.imageHeader 0) 5 == 3 && s.verified 0 && runs (exec (.secSvnRaise (.supervisor 3) 3 x.1) s) (fun t => bitsOf t.fusedSvn.toNat 24 6 == x.2)) = true := by
  decide +kernel

theorem witness_RegionReset : (let s := coreState { g := [(1, 7)] }
    s.mayWrite .steward Reg.fltReset && resetTargetOk 3 3 && runs (exec (.fltReset .steward 0x80000303) s) (fun _ => true)) = true := by decide +kernel

theorem witness_DieReset : (let s := coreState { g := [(1, 7)] }
    s.mayWrite .steward Reg.fltReset && resetTargetOk 4 5 && runs (exec (.fltReset .steward 0x80000504) s) (fun t => t.portState 0 == 0)) = true := by decide +kernel

set_option maxRecDepth 100000 in
/-- A chunk from a parent whose TAG is the one its DIGEST and bytes give. -/
theorem witness_ParentChunk : let bs := aChunk 0 0 2 984 (chunkTag (leBytes 48 0) (aChunk 0 0 2 984))
    chunkOk 0 0 bs = true ∧ fieldAt bs 8 4 = 2 ∧ (bs.drop 40).take 48 = leBytes 48 0 ∧ (bs.drop 1008).take 8 = chunkTag (leBytes 48 0) bs := by
  intro bs
  have hp : ∀ t : List Byte, (aChunk 0 0 2 984 t).take 1008 = (aChunk 0 0 2 984).take 1008 := fun t => by
    simp [aChunk, List.take_append, Laws.leBytes_length]
  have hd : ∀ t : List Byte, t.length = 8 → ((aChunk 0 0 2 984 t).drop 1008).take 8 = t := fun t ht => by
    simp [aChunk, List.drop_append, Laws.leBytes_length, List.drop_eq_nil_of_le, ht]
  refine ⟨by decide +kernel, by decide +kernel, by decide +kernel, ?_⟩
  rw [hd _ (by simp [chunkTag, digest, Laws.leBytes_length])]
  unfold chunkTag
  rw [show bs.take 1008 = (aChunk 0 0 2 984).take 1008 from hp _]

/-! ### Debug, telemetry and the pins -/

/-- Core 63 selected by the steward port, its engine 0 in a state. -/
def dbgState (e : Eng := {}) (k : Core := {}) : State :=
  let s : State := { coreState {} with cores := [(63, { k with engs := [(0, e)] })] }
  s.setFld (Reg.dbgCoreSel + pathKey .steward) 0 7 63

def coreIs (x : Except DbgErr Nat) (c : Nat) : Bool :=
  match x with
  | .ok d => d == c
  | .error _ => false

/-- The error bit that a failing access sets. -/
def errBit {α : Type} (x : Except DbgErr α) : Nat :=
  match x with
  | .ok _ => 9
  | .error e => e.bit

def dbgErrs (t : State) : Nat := t.fld (Reg.dbgErr + pathKey .steward) 0 5

theorem witness_DebugControl :
    (let s := dbgState { st := .issuing, stepping := true }
     s.mayWrite .steward Reg.dbgEngCtrl && coreIs (s.dbgCore .steward) 63 && runs (exec (.dbgHalt .steward 1) s) (fun t => t.eng 63 0 == { st := .issuing, dhold := true })) = true ∧
    [true, false].all (fun h =>
      let s := dbgState { st := .issuing, dhold := h }
      runs (exec (.dbgResume .steward 1) s) (fun t => t.eng 63 0 == { st := .issuing }) &&
      runs (exec (.dbgStep .steward 1) s) (fun t => (t.eng 63 0).stepping == h && dbgErrs t == (if h then 0 else 4))) = true ∧
    [false, true].all (fun r =>
      let s : State := { dbgState { st := .faulted } with recov := if r then [{ level := 2, target := 63, began := 0 }] else [] }
      s.inRecovery 63 == r && runs (exec (.dbgClrfault .steward 1) s) (fun t => (t.eng 63 0).st == (if r then .faulted else .issuing) && dbgErrs t == if r then 2 else 0)) = true ∧
    [64, 0].all (fun (c : Nat) =>
      let s : State := { (dbgState {}).setFld (Reg.dbgCoreSel + pathKey .steward) 0 7 c with jobs := [(0, aJob' .running)] }
      errBit (s.dbgCore .steward) == (if c = 64 then 2 else 0) && runs (exec (.dbgHalt .steward 1) s) (fun t => !(t.eng 0 0).dhold && dbgErrs t == if c = 64 then 4 else 1)) = true ∧
    (let s : State := { (dbgState {}).setReg Reg.dbgCatch 1 with caughtRecs := [aRec 0x0C1 0 (unitWord 0 0 3 3 3 0 2)] }
     s.mayWrite .steward Reg.dbgCatch && !s.closedCore 63 && runs (exec (.dbgCatchWrite .steward 0x8000000000000001) s) (fun t =>
       t.reg Reg.dbgCatch == 0x8000000000000001 && t.recq == [])) = true ∧
    (let s : State := { (dbgState {}).setReg Reg.dbgCatch 0x8000000000000001 with caughtRecs := [aRec 0x0C1 0 (unitWord 0 0 3 3 3 0 2)] }
     runs (exec (.dbgCatchWrite .steward 1) s) (fun t => t.reg Reg.dbgCatch == 1 && t.recq.length == 1 && t.caughtRecs == [])) = true ∧
    (let s : State := { dbgState {} with jobs := [(0, aJob' .running)] }
     s.closedCore 0 && !s.closedCore 4 && runs (exec (.dbgCatchWrite .steward 1) s) (fun t => t.reg Reg.dbgCatch == 0 && dbgErrs t == 1)) = true := by decide +kernel

/-- Item KIND, INDEX, PAIR of core 63, with every engine held. -/
def itemState (kind ix pair : Nat) : State :=
  let h : Eng := { dhold := true }
  let s : State := { coreState {} with cores := [(63, { engs := [(2, h), (3, h), (5, h)], g := [(31, 7)], tally := [(63, 5)], vec := { v := [(4094, 3), (4095, 4)] } })] }
  (((s.setFld (Reg.dbgCoreSel + pathKey .steward) 0 7 63).setFld (Reg.dbgRegSel + pathKey .steward) 0 3 kind).setFld (Reg.dbgRegSel + pathKey .steward) 8 8 ix).setFld
    (Reg.dbgRegSel + pathKey .steward) 16 5 pair

/-- The memory address that the steward port selects. -/
def memState (off : Nat) (s : State) : State := s.setFld (Reg.dbgMemAddr + pathKey .steward) 0 48 off

/-- Where a debug access goes: 0 memory of the die, 1 a tier, 2 nowhere. -/
def placeIs : Except DbgErr DbgPlace → Nat
  | .ok (.die _) => 0
  | .ok (.tier _ _) => 1
  | .error _ => 2

theorem witness_DebugAccess :
    [(0, 31, 0, leBytes 8 7), (2, 63, 0, leBytes 8 5), (1, 63, 31, leBytes 4 3 ++ leBytes 4 4)].all (fun (x : Nat × Nat × Nat × List Byte) =>
      let s := itemState x.1 x.2.1 x.2.2.1
      coreIs (s.dbgItem .steward) 63 && s.mayWrite .steward Reg.dbgRegData && runs (exec (.dbgRegRead .steward) s) (fun t => t.reply == x.2.2.2) &&
      runs (exec (.dbgRegWrite .steward 0x0000000900000008) s) (fun t => if x.1 = 0 then t.g 63 31 == 0x0000000900000008 else if x.1 = 2 then t.tally 63 63 == 5 && (t.applyOps 63).tally 63 63 == 8
        else t.lane 63 63 62 == 8 && t.lane 63 63 63 == 9)) = true ∧
    [(0, 32), (7, 0)].all (fun (x : Nat × Nat) =>
      let s := itemState x.1 x.2 0
      errBit (s.dbgItem .steward) == 2 && runs (exec (.dbgRegRead .steward) s) (fun t => t.reply == leBytes 8 0 && dbgErrs t == 4) &&
      runs (exec (.dbgRegWrite .steward 1) s) (fun t => dbgErrs t == 4 && t.g 63 31 == 7)) = true ∧
    [false, true].all (fun c =>
      let s : State := { ((coreState {}).putPeg 5 bin1).setFld (Reg.dbgPegSel + pathKey .steward) 0 16 5 with jobs := if c then [(0, aJob' .running)] else [] }
      s.closedCluster (5 / 4096) == c && s.pegGood 5 && s.mayWrite .steward Reg.dbgPegData &&
      runs (exec (.dbgPegRead .steward) s) (fun t => t.reply == (if c then leBytes 8 0 else leBytes 8 bin1.toNat) && dbgErrs t == boolNat c) &&
      runs (exec (.dbgPegWrite .steward bin0) s) (fun t => t.pegWord 5 == (if c then bin1 else bin0)) &&
      !pegWordOk (bin1 ||| 0x0002000000000000) && runs (exec (.dbgPegWrite .steward (bin1 ||| 0x0002000000000000)) s) (fun t => t.pegWord 5 == bin1)) = true ∧
    [0, 3].all (fun (o : Nat) =>
      let s := memState (storeKey 0 8 + o) ((coreState {}).wr (storeKey 0 8) [1, 2, 3, 4, 5, 6, 7, 8])
      placeIs (s.memTarget .steward true) == (if o = 0 then 0 else 2) && s.mayWrite .steward Reg.dbgMemData &&
      runs (exec (.dbgMemRead .steward) s) (fun t => t.reply == if o = 0 then [1, 2, 3, 4, 5, 6, 7, 8] else leBytes 8 0) &&
      runs (exec (.dbgMemWrite .steward 9) s) (fun t => t.rdLE (storeKey 0 8) 8 == (if o = 0 then 9 else 0x0807060504030201) && dbgErrs t == if o = 0 then 0 else 4)) = true ∧
    [true, false].all (fun w =>
      let s := memState 0x800000000000 ((tierState w).wr (cellarKey 1 0x200000) [1, 2])
      placeIs (s.memTarget .steward false) == 1 && placeIs (s.memTarget .steward true) == (if w then 1 else 2) &&
      runs (exec (.dbgMemRead .steward) s) (fun t => t.reply == [1, 2, 0, 0, 0, 0, 0, 0]) &&
      runs (exec (.dbgMemWrite .steward 9) s) (fun t => t.rd8 (cellarKey 1 0x200000) == (if w then 9 else 1) && dbgErrs t == if w then 0 else 8)) = true ∧
    (let s : State := { (coreState {}).setReg Reg.traceCtrl 3 with trace := { buf := [(0, ⟨0, 0, 8, 1, 0⟩)], next := 1, wrapped := true } }
     s.mayWrite .steward Reg.traceCtrl && s.mayWrite .steward Reg.traceMark && runs (exec (.dbgTraceMark .steward 5) s) (fun t => t == s) &&
     runs (exec (.dbgTraceClear .steward) s) (fun t => t.trace.buf == [] && t.fld Reg.traceCtrl 0 2 == 3)) = true ∧
    [0, 1].all (fun (b : Nat) =>
      let s : State := { coreState {} with trace := { next := 2047, busyAt := if b = 1 then (coreState {}).netCycle + 1 else 0 } }
      runs (exec (.dbgTraceMark .steward 5) s) (fun t => if b = 1 then t.trace.lost == 1 else t.trace.next == 0 && t.trace.buf.length == 1)) = true ∧
    (let s : State := itemState 0 31 0
     let s : State := { s with pins := { s.pins with resetN := false } }
     s.inReset && runs (exec (.dbgRegRead .steward) s) (fun t => t.reply == leBytes 8 0 && dbgErrs t == 16) &&
     runs (exec (.dbgRegWrite .steward 9) s) (fun t => t.g 63 31 == 7 && dbgErrs t == 16)) = true := by decide +kernel

/-- Ready, step 1 long passed. -/
def liveState : State := ringState (aJob' .running)

theorem witness_TapAndSmbus :
    [true, false].all (fun d =>
      let s : State := { coreState {} with jobs := [(0, { aJob' .running with debug := d })] }
      runs (exec (.samplePreload [1] [2]) s) (fun t => t.tap.ir == (if d then 0x02 else 0xFF) && t.reply == (if d then [1] else []))) = true ∧
    [beforeStep 1, inStep 1].all (fun s =>
      runs (exec (.extest [7]) s) (fun t => t.tap.ir == (if s.bu.step = 0 then 0 else 0xFF)) && runs (exec .clamp s) (fun t => t.tap.ir == (if s.bu.step = 0 then 4 else 0xFF)) &&
      runs (exec .highz s) (fun t => t.tap.ir == (if s.bu.step = 0 then 5 else 0xFF))) = true ∧
    [(true, 0x010800000000000000000000, 3), (false, 0x010800000000000000000005, 0), (false, 0x030801200000000000000005, 0), (false, 0x030800040000000000000005, 2), (false, 0x014000100000000000000005, 2), (false, 0x000800000000000000000000, 0), (false, 0x000800020000000000000000, 2)].all
      (fun (x : Bool × BitVec 96 × Nat) =>
        let s : State := { liveState with pins := { resetN := !x.1 } }
        s.inReset == x.1 && runs (exec (.dbgacc x.2.1) s) (fun t => t.tap.ir == 0x20 && t.tap.status == x.2.2)) = true ∧
    [Instr.smbIdentity, .smbState, .smbTemperatures 0, .smbPowers 0, .smbLatestFault].all (fun i =>
      runs (exec i { liveState with pins := { pwrOk := false } }) (fun t => t.reply == [])) = true ∧
    [{ liveState with pins := { resetN := false } }, ({ coreState {} with bu := {} } : State)].all (fun s =>
      s.pins.pwrOk && (!s.stepOnePassed || s.inReset) && runs (exec .smbIdentity s) (fun t => t.reply.take 8 == List.replicate 8 0 && t.reply.length == 9) &&
      runs (exec .smbState s) (fun t => t.reply.take 4 == [BitVec.ofNat 8 s.smbStateCode, 0, 0, 0]) &&
      runs (exec (.smbTemperatures 5) s) (fun t => t.reply.take 2 == [5, 0])) = true ∧
    (let s : State := { liveState with bu := { step := 15, state := 2, ready := true } }
     s.pins.pwrOk && s.stepOnePassed && !s.inReset && runs (exec .smbState s) (fun t => t.reply.take 2 == [2, 15] && t.reply.length == 5) &&
     runs (exec (.smbPowers 0x00010002) s) (fun t => (t.reply.drop 16).take 2 == [3, 0]) && runs (exec .smbLatestFault s) (fun t => t.reply.take 8 == leBytes 8 0) &&
     runs (exec .smbLatestFault (s.setFbuf 0 { recs := [aRec 0x0C6 0 core0] })) (fun t => t.reply.take 4 == [0xC6, 0x20, 1, 0]) &&
     runs (exec (.smbTemperatures 0xFFFE0001) s) (fun t => t.fld (Reg.therm 1) 0 16 == 0xFFFE && (t.reply.drop 14).take 2 == [1, 0])) = true := by decide +kernel

set_option maxRecDepth 100000 in
theorem witness_PinsAndPower :
    (let s : State := { coreState {} with pins := { pwrOk := false } }
     runs (exec (.pwrOkRise 3) s) (fun t => t.pins.pwrOk && t.pins.straps == 3) && runs (exec .resetNRise s) (fun t => t == s)) = true ∧
    (let s := liveState
     runs (exec .pwrOkFall s) (fun t => t.jobs == [] && t.inReset && t.cores == []) && runs (exec (.resetNFall 999) s) (fun t => t == s) &&
     runs (exec (.resetNFall 10000) s) (fun t => t.jobs == [] && t.inReset && !t.pins.resetN) && runs (exec .resetNRise s) (fun t => t.pins.link) &&
     runs (exec .thermalTrip s) (fun t => t.pins.trip && t.pins.alert && t.inReset && t.jobs == [])) = true ∧
    (let s : State := { liveState with pins := { trip := true } }
     runs (exec (.resetNFall 10000) s) (fun t => !t.pins.resetN && t.jobs.length == 1)) = true ∧
    (let s : State := { ringState (aJob' .running) {} { engs := [(0, { st := .issuing })], clkOn := true } with bu := { step := 15, state := 2, ready := true } }
     s.pins.pwrOk && !s.inReset && s.stepOnePassed && runs (exec (.refclkLost 0) s) (fun t => t.stopped && !(t.core 0).clkOn && (t.eng 0 0).st == .stopped)) = true ∧
    (let s := inStep 1
     !s.inReset && runs (exec (.refclkLost 0) s) (fun t => t.bu.fail.map (·.detail) == some 0x0102) &&
     runs (exec (.railExcursion 12 900 5) s) (fun t => t.bu.fail.map (·.detail) == some 0x0104)) = true ∧
    [(3, 1), (7, 2)].all (fun (x : Nat × Fin 3) =>
      let s := portState' x.1 2
      s.portUsed x.1 && runs (exec (.refclkLost x.2) s) (fun t => t.portState x.1 == 4)) = true ∧
    [4, 5].all (fun (us : Nat) =>
      runs (exec (.railExcursion 12 900 us) { liveState with bu := { step := 15, ready := true } }) (fun t => t.pins.excursions == 5 - us && (t.fbuf 0).recs.length == us - 4)) = true ∧
    (let s := liveState
     runs (exec .stewardLinkReset s) (fun t => !t.busMaster && runs (exec .busMasterEnable t) (fun u => u.busMaster)) &&
     runs (exec .busMasterEnable { s with pins := { link := false }, busMaster := false }) (fun u => !u.busMaster)) = true := by decide +kernel

theorem witness_PowerCap :
    [(0, 12, 0, 12), (0, 11, 0, 12), (0, 11, 5000000, 11), (1000000000, 12, 0, 11), (1000000000, 0, 0, 0)].all (fun (x : Nat × Nat × Nat × Nat) =>
      let s : State := { (coreState {}).setRegN Reg.pwrLimit 900 with bu := { step := 13, state := 2 }, ns := 10000000, cap := { changed := x.2.2.1 } }
      let s := s.setFld Reg.pwrStatus 20 4 x.2.1
      !s.inReset && runs (exec (.powerCapEval (BitVec.ofNat 256 x.1) 0) s) (fun t => t.capNow == x.2.2.2)) = true ∧
    [(12, 1000000, 9), (13, 999999, 12)].all (fun (x : Nat × Nat × Nat) =>
      let s : State := { (coreState {}).setRegN Reg.pwrLimit 900 with bu := { step := x.1, state := 2 }, ns := x.2.1 }
      let s := s.setFld Reg.pwrStatus 20 4 9
      runs (exec (.powerCapEval 0 0) s) (fun t => t.capNow == 9)) = true := by decide +kernel

/-! ### The machine as a whole -/

theorem witness_StepFront : let s : State := { coreState {} with pending := [.stewardLinkReset, .bypass], busMaster := true }
    step s = exec .stewardLinkReset { s with pending := [.bypass] } ∧ runs (step s) (fun t => !t.busMaster && t.pending.length == 1) = true := by
  exact ⟨rfl, by decide +kernel⟩

theorem test_idle_tick : runs (step (coreState { clkOn := true })) (fun t => t.half && t.ns == 0 && t.time == 0 &&
    2000 * (t.core 0).cycles + (t.core 0).frac == 600 + 50 * t.fld (Reg.coreFreq 0) 16 4) &&
    runs (step { coreState { clkOn := true } with half := true }) (fun t => !t.half && t.ns == 1 && t.time == 1) = true := by decide +kernel

theorem witness_CanonicalKept : State.reset.Canonical ∧ runs (step State.reset) (fun t => t.half) = true := ⟨⟨rfl, rfl⟩, by decide +kernel⟩

/-! ### Ill-formed commands are refused -/

theorem refuses_updateCommand : (Instr.updateCommand 0 (List.replicate 63 0)).wf = false := by decide +kernel
theorem refuses_registerWrite : (Instr.registerWrite .steward 0 0 0).wf = false := by decide +kernel
theorem refuses_frameReceive : (Instr.frameReceive 0 0 0 (List.replicate 2055 0)).wf = false := by decide +kernel
theorem refuses_portLossOfLock : (Instr.portLossOfLock 0 15).wf = false := by decide +kernel
theorem refuses_jobPoll : (Instr.jobPoll 1 [[0]] 0 [] 0 0).wf = false ∧ (Instr.jobPoll 0 [] 1 [[0]] 0 0).wf = false := by decide +kernel
theorem refuses_load : (Instr.load { aBundle with header := [] }).wf = false ∧ (Instr.load { aBundle with images := [⟨[], 0, [], 0, 0, 63⟩] }).wf = false ∧
    (Instr.load { aBundle with items := [0] }).wf = false := by decide +kernel
theorem refuses_fuseRead : (Instr.fuseRead .steward none { cores := [68] }).wf = false ∧ (Instr.fuseRead .steward none { arrays := [(0, 2, false, 0)] }).wf = false ∧
    (Instr.fuseRead .steward none { cves := [(0, 0)] }).wf = false ∧ (Instr.fuseRead .steward none { sup := [4] }).wf = false ∧
    (Instr.fuseRead .steward none { units := [(7, 0)] }).wf = false := by decide +kernel
theorem refuses_selfTest : (Instr.selfTest .steward { cores := [0] } []).wf = false := by decide +kernel
theorem refuses_tier2 : (Instr.tier2 .steward [] none).wf = false ∧ (Instr.tier2 .steward (List.replicate 16 [{ size := 8 }]) none).wf = false := by decide +kernel
theorem refuses_firmwareChunk : (Instr.firmwareChunk (.port 0 (List.replicate 1023 0))).wf = false := by decide +kernel
theorem refuses_d2dLink : (Instr.d2dLink 3 3 0 false).wf = false := by decide +kernel
theorem refuses_samplePreload : (Instr.samplePreload [0] []).wf = false := by decide +kernel
theorem accepts_commands : (Instr.load aBundle).wf = true ∧ (Instr.fuseRead .steward none goodDefects).wf = true ∧ (Instr.frameReceive 0 0 0 goodFrame).wf = true ∧
    (Instr.d2dLink 6 0 0 false).wf = true ∧ (Instr.updateCommand 0 (updateBytes 0 0)).wf = true := by decide +kernel

/-- The table gives its rows no bits, so no word spells a command. -/
theorem decode_none (nbits w : Nat) : decodeTableWord nbits w = none := rfl

end Sys2Proof.Tests
end

section
/-! SUPPORT. Every command and every half nanosecond keeps memory and the register file in their canonical form: one lemma for each operation of
the model that answers a state, in the order of the model's files, and each cites the lemmas of the operations it is made of. Memory and registers
are written by nine operations only (wr, zeroMem, setReg, resetRegs, copyCipher, swapMem, swapBlock, startTier1 and the package's reset);
everything else follows from those. -/
namespace Sys2Proof.Machine
open Sys2Proof.Laws.Tab

variable {s : State}

/-! ### What it means for an outcome, and the shapes that the operations have -/

/-- Every next state of an outcome is canonical. -/
def OutCanonical (o : Out) : Prop := ∀ t, o = .next t → t.Canonical

/-- The state of an instruction's own part, where it has one, is canonical. -/
def IssueRes.Canonical (r : IssueRes) : Prop := ∀ t target left, r = .go t target left → t.Canonical

theorem State.Canonical.next (h : s.Canonical) : OutCanonical (.next s) := fun _ ht => by cases ht; exact h

theorem State.Canonical.go {target : Option Nat} {left : Option Issued} (h : s.Canonical) : (IssueRes.go s target left).Canonical :=
  fun _ _ _ ht => by cases ht; exact h

theorem IssueRes.Canonical.stall {k : EngSt} : (IssueRes.stall k).Canonical := fun _ _ _ ht => by cases ht

theorem IssueRes.Canonical.fault {code x d2 d3 : Nat} : (IssueRes.fault code x d2 d3).Canonical := fun _ _ _ ht => by cases ht

theorem State.Canonical.ite {p : Prop} [Decidable p] {a b : State} (ha : a.Canonical) (hb : b.Canonical) : (if p then a else b).Canonical := by
  split
  · exact ha
  · exact hb

theorem State.Canonical.of_fst {α : Type} {p : State × α} {t : State} {x : α} (h : p.1.Canonical) (he : p = (t, x)) : t.Canonical := by
  rw [he] at h; exact h

theorem State.Canonical.updated {pending ns half time cores tlb sealed keys cellars reqs inreqs ports inbox chans linkMap lsSeen conns taken
    pairOut pairIn tim pegs fbufs jobs sup coreDone stopped busMaster notices latch bu recov recq caughtRecs missed rst guyOpen beat quote trace
    tap pins cap spares fusedSvn revoked reply lastRec free} (h : s.Canonical) :
    (State.mk pending ns half time s.regs cores s.mem tlb sealed keys cellars reqs inreqs ports inbox chans linkMap lsSeen conns taken
      pairOut pairIn tim pegs fbufs jobs sup coreDone stopped busMaster notices latch bu recov recq caughtRecs missed rst guyOpen beat quote trace
      tap pins cap spares fusedSvn revoked reply lastRec free).Canonical := h

theorem State.Canonical.guardedOut {path : Path} {off : Nat} {f : State → State} (h : s.Canonical) (hf : ∀ t, t.Canonical → (f t).Canonical) :
    OutCanonical (s.guarded path off f) := fun _ hu => h.guarded (hf _ (h.accessed path)) hu

theorem State.Canonical.issueOut {c e opc : Nat} {w : EngW} {own : Bool} {body : State → IssueRes} (h : s.Canonical)
    (hb : ∀ t, t.Canonical → (body t).Canonical) : OutCanonical (s.issue c e opc w own body) := fun _ hu => h.issue (hb s h) hu

theorem OutCanonical.ite {p : Prop} [Decidable p] {a b : Out} (ha : OutCanonical a) (hb : OutCanonical b) : OutCanonical (if p then a else b) := by
  split
  · exact ha
  · exact hb

theorem IssueRes.Canonical.ite {p : Prop} [Decidable p] {a b : IssueRes} (ha : a.Canonical) (hb : b.Canonical) : (if p then a else b).Canonical := by
  split
  · exact ha
  · exact hb

/-- A fold of an operation that keeps the form of the state in a pair keeps it. -/
theorem State.Canonical.foldl_fst {α β : Type} {f : State × β → α → State × β} (hf : ∀ r a, r.1.Canonical → (f r a).1.Canonical) :
    ∀ (l : List α) {r : State × β}, r.1.Canonical → (l.foldl f r).1.Canonical
  | [], _, h => h
  | a :: l, _, h => State.Canonical.foldl_fst hf l (hf _ a h)

/-! ### Records, waits and the issue of an instruction -/

theorem State.Canonical.stirNext {c : Nat} (h : s.Canonical) : (s.stirNext c).Canonical := h.setCore _ _

theorem State.Canonical.takeTally {c e t : Nat} (h : s.Canonical) : (s.takeTally c e t).Canonical := h.postOp _ _

theorem State.Canonical.stalled {c e : Nat} {k : EngSt} (h : s.Canonical) : (s.stalled c e k).Canonical := h.setEng _ _ _

theorem State.Canonical.popA {c e : Nat} (h : s.Canonical) : (s.popA c e).Canonical := h.setEng _ _ _

theorem State.Canonical.popP {c e : Nat} (h : s.Canonical) : (s.popP c e).Canonical := h.setEng _ _ _

theorem State.Canonical.stopSend {c : Nat} (h : s.Canonical) : (s.stopSend c).Canonical := (h.setChan _ _).updated

theorem State.Canonical.tickFree (h : s.Canonical) : s.tickFree.Canonical := h.updated

/-! ### Tiles -/

theorem State.Canonical.wrRuns {key : Nat} {rs : List Run} (h : s.Canonical) : (s.wrRuns key rs).Canonical := h.foldl (fun _ _ ht => ht.wr _ _) _

/-! ### Register writes -/

theorem State.Canonical.takeLatch {path : Path} (h : s.Canonical) : (s.takeLatch path).1.Canonical := h.updated

theorem State.Canonical.plainWrite {path : Path} {d : RegDesc} {base key v mask : Nat} (h : s.Canonical) :
    (s.plainWrite path d base key v mask).Canonical := .ite (h.unmapped _) ((State.Canonical.ite (h.attempt _ _ _ _) h).setRegN _ _)

/-! ### Fetch, the common engine instructions and CORE_CTRL -/

theorem execInstructionFetch_canonical {c : Fin 64} (h : s.Canonical) : OutCanonical (execInstructionFetch c s) := by
  unfold execInstructionFetch
  split
  · exact h.next
  · split
    · exact ((h.setEng _ _ _).setCore _ _).next
    · split
      · exact (h.precise _ _ _ _ _ _).next
      · exact h.next

theorem execNop_canonical {c : Fin 64} {e : Fin 5} {w : EngW} (h : s.Canonical) : OutCanonical (execNop c e w s) := h.issueOut (fun _ ht => ht.go)

theorem loopBody_canonical {c e body : Nat} (h : s.Canonical) : (loopBody c e body s).Canonical := by
  unfold loopBody
  dsimp only
  split
  · exact .stall
  · split
    · exact .fault
    · exact .ite .fault (.ite (h.setEng _ _ _).go (h.setEng _ _ _).go)

theorem execLoop_canonical {c : Fin 64} {e : Fin 5} {w : EngW} (h : s.Canonical) : OutCanonical (execLoop c e w s) :=
  h.issueOut (fun _ ht => loopBody_canonical ht)

theorem execJump_canonical {c : Fin 64} {e : Fin 5} {w : EngW} (h : s.Canonical) : OutCanonical (execJump c e w s) := by
  unfold execJump
  refine h.issueOut fun _ ht => ?_
  split
  · exact .fault
  · exact ht.go

theorem execBrq_canonical {c : Fin 64} {e : Fin 5} {w : EngW} (h : s.Canonical) : OutCanonical (execBrq c e w s) := by
  unfold execBrq
  refine h.issueOut fun _ ht => ?_
  split
  · exact .stall
  · dsimp only
    split
    · exact .fault
    · exact ht.popP.go

theorem execSettle_canonical {c : Fin 64} {e : Fin 5} {w : EngW} (h : s.Canonical) : OutCanonical (execSettle c e w s) :=
  h.issueOut (fun _ ht => ht.go)

theorem State.Canonical.tryHalt {c e : Nat} (h : s.Canonical) : (s.tryHalt c e).Canonical := by
  unfold State.tryHalt
  dsimp only
  split
  · exact .ite (((h.setEng _ _ _).signals _ _ _ _ _ _).setCore _ _) h
  · exact h

theorem State.Canonical.haltNow {c e : Nat} (h : s.Canonical) : (s.haltNow c e).Canonical :=
  .ite h (.ite (h.setEng _ _ _).updated (h.setEng _ _ _))

theorem execHalt_canonical {c : Fin 64} {e : Fin 5} {w : EngW} (h : s.Canonical) : OutCanonical (execHalt c e w s) := by
  have hi := h.issueOut (c := c) (e := e) (opc := 6) (w := w) (own := insnOwn e 6 w) (body := fun t => .go t none (engLeft w t c e 6 0 0 0))
    (fun _ ht => ht.go)
  unfold execHalt
  split
  · rename_i t he
    exact (hi t he).tryHalt.next
  · exact hi

theorem State.Canonical.freeUnit {c e : Nat} {i : Issued} (h : s.Canonical) : (s.freeUnit c e i).Canonical :=
  .ite (h.setCore _ _) (.ite (h.setCore _ _) (.ite (h.setCore _ _) h))

theorem execInstructionComplete_canonical {c : Fin 64} {e : Fin 6} {n : Nat} (h : s.Canonical) : OutCanonical (execInstructionComplete c e n s) := by
  unfold execInstructionComplete
  dsimp only
  split
  · exact h.next
  · split
    · exact h.next
    · split
      · exact (State.Canonical.ite h.tryHalt h).next
      · exact .ite ((h.setEng _ _ _).freeUnit.signals _ _ _ _ _ _).tryHalt.next h.next

theorem State.Canonical.withdraw {c e : Nat} (h : s.Canonical) : (s.withdraw c e).Canonical := h.updated

theorem State.Canonical.runEng {c e : Nat} (h : s.Canonical) : (s.runEng c e).Canonical := by
  unfold State.runEng
  dsimp only
  split
  · exact h
  · split
    · exact .ite (h.setEng _ _ _) ((h.setEng _ _ _).precise _ _ _ _ _ _)
    · exact h.setEng _ _ _
    · exact h

theorem State.Canonical.eachEng {mask : Nat} {f : State → Nat → State} (h : s.Canonical) (hf : ∀ t a, t.Canonical → (f t a).Canonical) :
    (s.eachEng mask f).Canonical := h.foldl (fun _ _ ht => .ite (hf _ _ ht) ht) _

theorem execRun_canonical {c : Fin 64} {path : Path} {engines : BitVec 6} (h : s.Canonical) : OutCanonical (execRun c path engines s) :=
  h.guardedOut (fun _ ht => ht.eachEng (fun _ _ hu => hu.runEng))

theorem State.Canonical.stopEng {c e : Nat} (h : s.Canonical) : (s.stopEng c e).Canonical := by
  unfold State.stopEng
  extract_lets t1
  have h1 : t1.Canonical := h.withdraw.endWait _ _
  exact .ite (.ite ((h1.setEng _ _ _).setCore _ _) (h1.setEng _ _ _)) h

theorem execStop_canonical {c : Fin 64} {path : Path} {engines : BitVec 6} (h : s.Canonical) : OutCanonical (execStop c path engines s) :=
  h.guardedOut (fun _ ht => ht.eachEng (fun _ _ hu => hu.stopEng))

theorem State.Canonical.clearQueues {c : Nat} (h : s.Canonical) : (s.clearQueues c).Canonical := h.foldl (fun _ _ ht => ht.setEng _ _ _) _

theorem State.Canonical.tallyClear {c : Nat} (h : s.Canonical) : (s.tallyClear c).Canonical := .ite (h.unmapped _) (h.setCore _ _)

theorem State.Canonical.queueClear {c : Nat} (h : s.Canonical) : (s.queueClear c).Canonical := .ite (h.unmapped _) h.clearQueues

theorem execTallyClear_canonical {c : Fin 64} {path : Path} (h : s.Canonical) : OutCanonical (execTallyClear c path s) :=
  h.guardedOut (fun _ ht => ht.tallyClear)

theorem execQueueClear_canonical {c : Fin 64} {path : Path} (h : s.Canonical) : OutCanonical (execQueueClear c path s) :=
  h.guardedOut (fun _ ht => ht.queueClear)

/-! ### Packets, routing and requests -/

theorem State.Canonical.deliver {p : Pkt} (h : s.Canonical) : (s.deliver p).Canonical := h.updated

theorem State.Canonical.queueFor {g : Nat} {p : Pkt} (h : s.Canonical) : (s.queueFor g p).Canonical := h.setPort _ _

theorem State.Canonical.respond {sdie : Nat} {hd : Head} {pay : List Byte} (h : s.Canonical) : (s.respond sdie hd pay).Canonical := by
  unfold State.respond
  dsimp only
  split
  · exact h.deliver
  · split
    · exact h
    · split
      · exact h
      · exact .ite h.queueFor (h.bump _ _ _)

theorem State.Canonical.nak {p : Pkt} {die reason : Nat} {pay : List Byte} (h : s.Canonical) : (s.nak p die reason pay).Canonical := h.respond

theorem State.Canonical.ack {dst ddie tag addr sdie : Nat} (h : s.Canonical) : (s.ack dst ddie tag addr sdie).Canonical := h.respond

theorem State.Canonical.ackPkt {p : Pkt} {sdie : Nat} (h : s.Canonical) : (s.ackPkt p sdie).Canonical := h.ack

theorem State.Canonical.refuse {dst ddie tag addr cause : Nat} (h : s.Canonical) : (s.refuse dst ddie tag addr cause).Canonical := h.respond

theorem State.Canonical.blocked {g : Nat} {p : Pkt} (h : s.Canonical) : (s.blocked g p).Canonical :=
  .ite (h.bump _ _ _) (.ite h h.nak)

theorem State.Canonical.forward {p : Pkt} (h : s.Canonical) : (s.forward p).Canonical := by
  unfold State.forward
  split
  · exact h.bump _ _ _
  · split
    · exact h.deliver
    · split
      · exact h.deliver
      · exact .ite h.queueFor h.blocked

theorem State.Canonical.emit {r : Req} (h : s.Canonical) : (s.emit r).Canonical := by
  unfold State.emit
  dsimp only
  split
  · exact h.deliver
  · split
    · exact h
    · exact h.forward

theorem State.Canonical.sendReq {r : Req} (h : s.Canonical) : (s.sendReq r).Canonical := h.updated.emit

theorem State.Canonical.portTick {g : Nat} (h : s.Canonical) : (s.portTick g).Canonical :=
  .ite (.ite ((h.dieCount _ _).setPort _ _) (((h.dieCount _ _).setPort _ _).bump _ _ _)) h

theorem State.Canonical.setConn {src tag : Nat} {v : Nat × Nat} (h : s.Canonical) : (s.setConn src tag v).Canonical := h.updated

/-! ### Keys, caches and the memory tiers -/

theorem State.Canonical.setKey {die slot id : Nat} (h : s.Canonical) : (s.setKey die slot id).Canonical := h.updated

theorem State.Canonical.resealUnit {die off key dun : Nat} (h : s.Canonical) : (s.resealUnit die off key dun).Canonical :=
  .ite h (h.wr _ _).updated

theorem State.Canonical.physWrite {die off key dun : Nat} {bs : List Byte} (h : s.Canonical) : (s.physWrite die off key dun bs).Canonical :=
  .ite h ((h.foldl (fun _ _ ht => ht.resealUnit) _).wr _ _)

theorem State.Canonical.supWrite {die off : Nat} {bs : List Byte} (h : s.Canonical) : (s.supWrite die off bs).Canonical := h.physWrite

theorem State.Canonical.cacheIn {u space va : Nat} {m : Map} (h : s.Canonical) : (s.cacheIn u space va m).Canonical :=
  (State.Canonical.ite h h.updated).updated

theorem State.Canonical.cache {us : List Nat} {space va : Nat} {m : Map} (h : s.Canonical) : (s.cache us space va m).Canonical :=
  h.foldl (fun _ _ ht => ht.cacheIn) _

theorem State.Canonical.tierCount {die off n : Nat} {write : Bool} (h : s.Canonical) : (s.tierCount die off n write).Canonical := h.dieCount _ _

theorem State.Canonical.mapWrite {m : Map} {va : Nat} {bs : List Byte} (h : s.Canonical) : (s.mapWrite m va bs).Canonical := h.physWrite.tierCount

theorem State.Canonical.mapCount {m : Map} {va n : Nat} (h : s.Canonical) : (s.mapCount m va n).Canonical := h.tierCount

theorem State.Canonical.mapAdd {m : Map} {va : Nat} {bs : List Byte} (h : s.Canonical) : (s.mapAdd m va bs).Canonical := h.mapCount.mapWrite

theorem State.Canonical.dieWrite {off : Nat} {add : Bool} {bs : List Byte} (h : s.Canonical) : (s.dieWrite off add bs).Canonical := by
  unfold State.dieWrite
  extract_lets t1
  have h1 : t1.Canonical := by
    unfold t1
    split
    · exact h.setRegN _ _
    · exact h
  exact .ite (h1.wr _ _) (h.wr _ _)

theorem State.Canonical.xlateFault {unit : W32} {space cause kind slot va tile : Nat} (h : s.Canonical) :
    (s.xlateFault unit space cause kind slot va tile).Canonical :=
  (State.Canonical.ite ((h.bump _ _ _).bump _ _ _) (h.bump _ _ _)).record _ _ _ _ _ _ _ _

/-! ### The stream engine -/

theorem State.Canonical.setStr {c : Nat} {x : Str} (h : s.Canonical) : (s.setStr c x).Canonical := h.setCore _ _

theorem State.Canonical.setStrm {c slot : Nat} {m : Strm} (h : s.Canonical) : (s.setStrm c slot m).Canonical := h.setStr

theorem execStrmWindowOpen_canonical {c : Fin 64} {w : EngW} (h : s.Canonical) : OutCanonical (execStrmWindowOpen c w s) :=
  .ite h.setStr.next h.next

theorem strmBody_canonical {c : Nat} {w : EngW} (h : s.Canonical) : (strmBody c w s).Canonical := by
  unfold strmBody
  dsimp only
  split
  · exact .stall
  · split
    · split
      · exact .stall
      · split
        · exact .fault
        · split
          · exact .stall
          · exact (h.setEng _ _ _).setStr.go
    · exact .stall

theorem State.Canonical.closeWindow {c : Nat} (h : s.Canonical) : (s.closeWindow c).Canonical := by
  unfold State.closeWindow
  dsimp only
  split
  · exact .ite h.setStr h
  · exact h

theorem execStrm_canonical {c : Fin 64} {w : EngW} (h : s.Canonical) : OutCanonical (execStrm c w s) := by
  have hi := h.issueOut (c := c) (e := 4) (opc := 0x10) (w := w) (own := insnOwn 4 0x10 w) (fun _ ht => strmBody_canonical (c := c) (w := w) ht)
  unfold execStrm
  extract_lets
  split
  · rename_i t he
    have ht := State.Canonical.ite (p := s.descCheckRaised t c = true) ((hi t he).bump (Reg.chkFails 0) 0 32) (hi t he)
    exact (State.Canonical.ite ht.setStr ht).next
  · exact hi

theorem State.Canonical.charge {c k cost : Nat} (h : s.Canonical) : (s.charge c k cost).Canonical := h.setStr

theorem State.Canonical.zeroCredit {c : Nat} (h : s.Canonical) : (s.zeroCredit c).Canonical := h.setStr

theorem State.Canonical.strmFault {c slot : Nat} {x : Stop} (h : s.Canonical) : (s.strmFault c slot x).Canonical := by
  unfold State.strmFault
  extract_lets _ _ x1 t1
  have h1 : t1.Canonical := by
    unfold t1 x1
    split
    · exact h.setEng _ _ _
    · exact h
  exact .ite (h1.late _ _ _ _ _ _ _) (h1.late _ _ _ _ _ _ _)

theorem State.Canonical.settle {c slot : Nat} (h : s.Canonical) : (s.settle c slot).Canonical := by
  unfold State.settle
  dsimp only
  split
  · exact h
  · exact .ite h (.ite h.setStr.strmFault.stirNext h.setStr.stirNext)

theorem State.Canonical.stopAt {c slot : Nat} {x : Stop} (h : s.Canonical) : (s.stopAt c slot x).Canonical :=
  .ite h (.ite h.settle h.setStrm.settle)

theorem State.Canonical.suspendAt {c slot tile va cause away : Nat} (h : s.Canonical) : (s.suspendAt c slot tile va cause away).Canonical :=
  h.stopAt.updated

theorem State.Canonical.resumeStream {c slot : Nat} (h : s.Canonical) : (s.resumeStream c slot).Canonical := .ite h.setStrm.stirNext h

theorem State.Canonical.abortStream {c slot cause pkg : Nat} (h : s.Canonical) : (s.abortStream c slot cause pkg).Canonical :=
  .ite h.setStrm.strmFault.stirNext h.stopAt

theorem execStreamRequestStart_canonical {c : Fin 64} {slot : Fin 16} (h : s.Canonical) : OutCanonical (execStreamRequestStart c slot s) := by
  unfold execStreamRequestStart
  extract_lets
  split
  · exact h.next
  · split
    · exact h.next
    · exact h.stopAt.next
    · extract_lets _ _ _ _ t1
      have h1 : t1.Canonical := ((State.Canonical.ite (h.orReg _ _) h).charge.pmu _ _ _ _).stirNext
      exact .ite h.next (.ite h1.setStr.sendReq.next h1.setStr.next)

theorem execListPieceRead_canonical {c : Fin 64} {slot : Fin 16} (h : s.Canonical) : OutCanonical (execListPieceRead c slot s) := by
  unfold execListPieceRead
  dsimp only
  split
  · exact h.next
  · split
    · exact h.next
    · split
      · exact h.next
      · exact .ite h.next h.charge.stirNext.setStr.next

theorem State.Canonical.setXfer {c n : Nat} {f : Xfer} (h : s.Canonical) : (s.setXfer c n f).Canonical := h.setStr

theorem execTransferArrive_canonical {c : Fin 64} {n : Nat} (h : s.Canonical) : OutCanonical (execTransferArrive c n s) := by
  unfold execTransferArrive
  split
  · exact h.next
  · dsimp only
    split
    · exact h.next
    · split
      · exact h.setXfer.stopAt.next
      · split
        · exact .ite h.setXfer.stirNext.next (.ite h.next h.setXfer.stirNext.next)
        · exact .ite h.next h.setXfer.stirNext.next

theorem execTransferRetire_canonical {c : Fin 64} {n : Nat} (h : s.Canonical) : OutCanonical (execTransferRetire c n s) := by
  unfold execTransferRetire
  split
  · exact h.next
  · extract_lets _ t1
    have h1 : t1.Canonical := h.setXfer.stirNext
    exact .ite h.next h1.setStr.settle.next

theorem State.Canonical.writeFar {m : Strm} {xs : List Xfer} (h : s.Canonical) : (s.writeFar m xs).Canonical := h.foldl (fun _ _ ht => ht.dieWrite) _

theorem State.Canonical.commitTile {c slot t : Nat} {null : Bool} (h : s.Canonical) : (s.commitTile c slot t null).Canonical := by
  unfold State.commitTile
  extract_lets _ _ _ _ t1 t2 _ _ _ t3
  have h1 : t1.Canonical := by
    unfold t1
    split
    · exact .ite ((h.wr _ _).orReg _ _) (h.wr _ _)
    · split
      · exact h
      · split
        · exact h
        · exact h.writeFar
  have h2 : t2.Canonical := .ite h1 (h1.setRegN _ _)
  have h3 : t3.Canonical := .ite h2.updated h2
  exact (State.Canonical.ite h3.sendReq h3).setStr.stirNext.settle

theorem execTileCommit_canonical {c : Fin 64} {slot : Fin 16} (h : s.Canonical) : OutCanonical (execTileCommit c slot s) := by
  unfold execTileCommit
  dsimp only
  split
  · exact h.next
  · split
    · exact h.commitTile.next
    · exact .ite h.commitTile.next h.next
    · exact h.next

theorem execStreamComplete_canonical {c : Fin 64} {slot : Fin 16} (h : s.Canonical) : OutCanonical (execStreamComplete c slot s) := by
  unfold execStreamComplete
  dsimp only
  split
  · split
    · exact h.setStrm.next
    · exact ((h.setStrm.setEng _ _ _).signals _ _ _ _ _ _).tryHalt.next
  · exact h.next

theorem State.Canonical.resendHeld {c : Nat} (h : s.Canonical) : (s.resendHeld c).Canonical := h.foldl (fun _ _ ht => ht.sendReq) _

theorem execSuspensionResume_canonical {who : Suspended} (h : s.Canonical) : OutCanonical (execSuspensionResume who s) := by
  unfold execSuspensionResume
  split
  · exact (h.setChan _ _).next
  · exact h.resumeStream.next
  · exact ((h.resendHeld.setCore _ _).foldl (fun _ _ ht => ht.wr _ _) _).next

theorem execSuspensionAbort_canonical {who : Suspended} {cause : Fin 5} {pkg : BitVec 13} (h : s.Canonical) :
    OutCanonical (execSuspensionAbort who cause pkg s) := by
  unfold execSuspensionAbort
  split
  · exact .ite h.stopSend.next h.next
  · exact .ite h.abortStream.next h.next
  · exact (h.setCore _ _).next

theorem State.Canonical.splitWrite {c v : Nat} (h : s.Canonical) : (s.splitWrite c v).Canonical :=
  .ite (h.unmapped _) (h.setRegN _ _).zeroCredit

theorem execStrSplitWrite_canonical {c : Fin 64} {path : Path} {v : BitVec 32} (h : s.Canonical) : OutCanonical (execStrSplitWrite c path v s) :=
  h.guardedOut (fun _ ht => ht.splitWrite)

/-! ### Walks, accesses and memory commands -/

theorem State.Canonical.doWalk {us : List Nat} {space va kind n : Nat} (h : s.Canonical) : (s.doWalk us space va kind n).1.Canonical := by
  unfold State.doWalk
  dsimp only
  split
  · exact h
  · split
    · exact h
    · split
      · exact h.setFld _ _ _ _
      · exact (h.setFld _ _ _ _).cache

theorem State.Canonical.holdLoad {c n : Nat} (h : s.Canonical) : (s.holdLoad c n).Canonical := (h.setCore _ _).updated

theorem State.Canonical.holdStore {c n : Nat} (h : s.Canonical) : (s.holdStore c n).Canonical := (h.setCore _ _).updated

theorem State.Canonical.walkStream {c slot : Nat} (h : s.Canonical) : (s.walkStream c slot).Canonical := by
  unfold State.walkStream
  split
  · exact h
  · split
    · rename_i he
      exact State.Canonical.of_fst h.doWalk he
    · rename_i he
      exact (State.Canonical.of_fst h.doWalk he).xlateFault.suspendAt

theorem State.Canonical.walkLoad {c n : Nat} (h : s.Canonical) : (s.walkLoad c n).Canonical := by
  unfold State.walkLoad
  split
  · exact h
  · split
    · exact h
    · split
      · exact h
      · split
        · rename_i he
          exact State.Canonical.of_fst h.doWalk he
        · rename_i he
          exact (State.Canonical.of_fst h.doWalk he).xlateFault.holdLoad

theorem State.Canonical.walkStore {c n : Nat} (h : s.Canonical) : (s.walkStore c n).Canonical := by
  unfold State.walkStore
  split
  · exact h
  · split
    · exact h
    · split
      · exact h
      · split
        · rename_i he
          exact State.Canonical.of_fst h.doWalk he
        · rename_i he
          exact (State.Canonical.of_fst h.doWalk he).xlateFault.holdStore

theorem State.Canonical.accessStream {c n : Nat} (h : s.Canonical) : (s.accessStream c n).Canonical := by
  unfold State.accessStream
  split
  · exact h
  · extract_lets
    split
    · exact h
    · split
      · exact h
      · split
        · exact h
        · exact h.xlateFault.suspendAt
        · extract_lets t1
          have h1 : t1.Canonical := by
            unfold t1
            split
            · exact h.mapCount.setXfer
            · exact h.mapWrite.setXfer
            · exact h.mapAdd.setXfer
          exact h1.stirNext

theorem State.Canonical.accessLoad {c n : Nat} (h : s.Canonical) : (s.accessLoad c n).Canonical := by
  unfold State.accessLoad
  dsimp only
  split
  · exact h
  · split
    · exact h
    · split
      · exact h
      · split
        · exact h
        · exact h.xlateFault.holdLoad
        · exact h.mapCount.setCore _ _

theorem State.Canonical.accessStore {c n : Nat} (h : s.Canonical) : (s.accessStore c n).Canonical := by
  unfold State.accessStore
  split
  · exact h
  · split
    · exact h
    · split
      · exact h
      · split
        · exact h
        · exact h.xlateFault.holdStore
        · exact h.mapWrite.setCore _ _

theorem State.Canonical.dropCached {space : Nat} {all : Bool} {region : Nat} (h : s.Canonical) : (s.dropCached space all region).Canonical :=
  h.updated

theorem State.Canonical.invalWrite {v : Nat} (h : s.Canonical) : (s.invalWrite v).Canonical := .ite (h.unmapped _) (h.setRegN _ _)

theorem execMemInval_canonical {path : Path} {v : BitVec 64} (h : s.Canonical) : OutCanonical (execMemInval path v s) :=
  h.guardedOut (fun _ ht => ht.invalWrite)

theorem State.Canonical.putPte {die off e : Nat} (h : s.Canonical) : (s.putPte die off e).Canonical := h.supWrite

theorem State.Canonical.memSetAll {l : List Host.Cell} {sealed : Tab (Option Seal)} (h : s.Canonical) :
    ({ s with mem := Tab.setAll Memory.dflt s.mem l, sealed := sealed } : State).Canonical := ⟨wf_setAll _ _ _ h.1, h.2⟩

theorem State.Canonical.copyCipher {src dst n : Nat} (h : s.Canonical) : (s.copyCipher src dst n).Canonical := (h.zeroMem _ _).memSetAll

theorem State.Canonical.resumePage {space va n : Nat} (h : s.Canonical) : (s.resumePage space va n).Canonical :=
  h.foldl (fun _ _ ht => .ite ((ht.foldl (fun _ _ hu => .ite hu.resumeStream hu) _).setCore _ _) ht) _

theorem State.Canonical.retrainStart {die ch : Nat} (h : s.Canonical) : (s.retrainStart die ch).Canonical :=
  ((h.setFld _ _ _ _).setFld _ _ _ _).setFld _ _ _ _

theorem State.Canonical.retrainWrite {die v : Nat} (h : s.Canonical) : (s.retrainWrite die v).Canonical := by
  unfold State.retrainWrite
  dsimp only
  split
  · exact h.unmapped _
  · exact .ite (h.setFld _ _ _ _) (.ite ((h.setFld _ _ _ _).setFld _ _ _ _) (h.setFld _ _ _ _).retrainStart)

theorem execMemRetrain_canonical {cellar : Fin 4} {path : Path} {v : BitVec 32} (h : s.Canonical) :
    OutCanonical (execMemRetrain cellar path v s) := h.guardedOut (fun _ ht => ht.retrainWrite)

theorem execRetrainDone_canonical {cellar : Fin 4} {result : Fin 3} {heldUs : BitVec 16} (h : s.Canonical) :
    OutCanonical (execRetrainDone cellar result heldUs s) := by
  unfold execRetrainDone
  extract_lets
  split
  · exact h.next
  · extract_lets _ _ _ t1 _ t2 t3
    have h1 : t1.Canonical := (h.bump _ _ _).setFld _ _ _ _
    have h2 : t2.Canonical := .ite ((h1.setFld _ _ _ _).record _ _ _ _ _ _ _ _) ((h1.setFld _ _ _ _).setFld _ _ _ _)
    have h3 : t3.Canonical := h2.setFld _ _ _ _
    exact .ite (.ite (h3.setFld _ _ _ _).next h3.retrainStart.next) h3.next

theorem State.Canonical.attZeroWrite {k v : Nat} (h : s.Canonical) : (s.attZeroWrite k v).Canonical :=
  .ite h (.ite (h.unmapped _) (h.setFld _ _ _ _))

theorem execAttZero_canonical {k : Fin 16} {path : Path} {v : BitVec 32} (h : s.Canonical) : OutCanonical (execAttZero k path v s) :=
  h.guardedOut (fun _ ht => ht.attZeroWrite)

theorem State.Canonical.zeroAttic {k : Nat} (h : s.Canonical) : (s.zeroAttic k).Canonical := h.zeroMem _ _

theorem execAttZeroDone_canonical {k : Fin 16} (h : s.Canonical) : OutCanonical (execAttZeroDone k s) :=
  .ite (h.zeroAttic.setFld _ _ _ _).next h.next

/-! ### The control core -/

theorem State.Canonical.toldAbort {c : Nat} {regs : List Nat} (h : s.Canonical) : (s.toldAbort c regs).Canonical := by
  unfold State.toldAbort
  dsimp only
  split
  · exact h.setCore _ _
  · exact h

theorem State.Canonical.ctl {c word : Nat} {own gate : Bool} {stall : Option EngSt} {regs : List Nat} {body : State → IssueRes}
    {post : State → State} (h : s.Canonical) (hbody : ∀ t, t.Canonical → (body t).Canonical)
    (hpost : ∀ t, t.Canonical → (post t).Canonical) :
    OutCanonical (s.ctl c word own gate stall regs body post) := by
  unfold State.ctl
  split
  · exact h.next
  · exact h.stalled.next
  · exact (h.precise _ _ _ _ _ _).next
  · split
    · exact (h.precise _ _ _ _ _ _).next
    · split
      · exact h.stalled.next
      · exact ((h.setCore _ _).precise _ _ _ _ _ _).next
      · split
        · exact h.stalled.next
        · split
          · exact h.stalled.next
          · exact ((State.Canonical.ite h.toldAbort h).precise _ _ _ _ _ _).next
          · split
            · exact h.stalled.next
            · exact (h.precise _ _ _ _ _ _).next
            · rename_i hb
              exact (hpost _ ((hbody s h _ _ _ hb).finish _ _ _ _ _ _ _)).next

theorem State.Canonical.result {c gd : Nat} {v : W64} {lat : Nat} (h : s.Canonical) : (s.result c gd v lat).Canonical := h.setG _ _ _ _

theorem State.Canonical.compute {c word : Nat} {own : Bool} {reads : List Nat} {gd lat : Nat} {f : State → W64} (h : s.Canonical) :
    OutCanonical (s.compute c word own reads gd lat f) := h.ctl (fun _ ht => ht.result.go) (fun _ ht => ht)

theorem execAlu_canonical {c : Fin 64} {i : FmtA} (h : s.Canonical) : OutCanonical (execAlu c i s) := h.compute

theorem State.Canonical.immOp {c opc : Nat} {i : FmtI} {own : Bool} {f : W64 → W64} (h : s.Canonical) : OutCanonical (s.immOp c opc i own f) :=
  h.compute

theorem execAddi_canonical {c : Fin 64} {i : FmtI} (h : s.Canonical) : OutCanonical (execAddi c i s) := h.immOp

theorem execAndi_canonical {c : Fin 64} {i : FmtI} (h : s.Canonical) : OutCanonical (execAndi c i s) := h.immOp

theorem execOri_canonical {c : Fin 64} {i : FmtI} (h : s.Canonical) : OutCanonical (execOri c i s) := h.immOp

theorem execXori_canonical {c : Fin 64} {i : FmtI} (h : s.Canonical) : OutCanonical (execXori c i s) := h.immOp

theorem execSlti_canonical {c : Fin 64} {i : FmtI} (h : s.Canonical) : OutCanonical (execSlti c i s) := h.immOp

theorem execSltiu_canonical {c : Fin 64} {i : FmtI} (h : s.Canonical) : OutCanonical (execSltiu c i s) := h.immOp

theorem execShi_canonical {c : Fin 64} {i : FmtI} (h : s.Canonical) : OutCanonical (execShi c i s) := h.immOp

theorem execLui_canonical {c : Fin 64} {i : FmtI} (h : s.Canonical) : OutCanonical (execLui c i s) := h.compute

theorem execLih_canonical {c : Fin 64} {i : FmtI} (h : s.Canonical) : OutCanonical (execLih c i s) := h.immOp

theorem execLit_canonical {c : Fin 64} {i : FmtI} (h : s.Canonical) : OutCanonical (execLit c i s) := h.immOp

theorem State.Canonical.loadBegin {c gd : Nat} {a : W64} {n : Nat} {signed : Bool} (h : s.Canonical) : (s.loadBegin c gd a n signed).Canonical := by
  unfold State.loadBegin
  extract_lets _ _ _ _ t1
  have h1 : t1.Canonical := (h.setCore _ _).setG _ _ _ _
  exact .ite h1.sendReq h1

theorem State.Canonical.load {c opc : Nat} {i : FmtI} {n : Nat} {signed : Bool} (h : s.Canonical) : OutCanonical (s.load c opc i n signed) := by
  unfold State.load
  refine h.ctl (fun _ ht => ?_) fun _ ht => ht
  dsimp only
  split
  · exact .fault
  · exact .ite .stall (.ite ht.result.go ht.loadBegin.go)

theorem execLb_canonical {c : Fin 64} {i : FmtI} (h : s.Canonical) : OutCanonical (execLb c i s) := h.load

theorem execLbu_canonical {c : Fin 64} {i : FmtI} (h : s.Canonical) : OutCanonical (execLbu c i s) := h.load

theorem execLh_canonical {c : Fin 64} {i : FmtI} (h : s.Canonical) : OutCanonical (execLh c i s) := h.load

theorem execLhu_canonical {c : Fin 64} {i : FmtI} (h : s.Canonical) : OutCanonical (execLhu c i s) := h.load

theorem execLw_canonical {c : Fin 64} {i : FmtI} (h : s.Canonical) : OutCanonical (execLw c i s) := h.load

theorem execLwu_canonical {c : Fin 64} {i : FmtI} (h : s.Canonical) : OutCanonical (execLwu c i s) := h.load

theorem execLd_canonical {c : Fin 64} {i : FmtI} (h : s.Canonical) : OutCanonical (execLd c i s) := h.load

theorem execLoadDataReturn_canonical {c : Fin 64} {n : Nat} (h : s.Canonical) : OutCanonical (execLoadDataReturn c n s) := by
  unfold execLoadDataReturn
  dsimp only
  split
  · exact h.next
  · split
    · exact h.next
    · split
      · exact h.next
      · exact ((h.setCore _ _).setG _ _ _ _).next

theorem execCtlResultReady_canonical {c : Fin 64} {g : BitVec 5} (h : s.Canonical) : OutCanonical (execCtlResultReady c g s) := by
  unfold execCtlResultReady
  dsimp only
  split
  · exact .ite (h.setCore _ _).next h.next
  · exact h.next

theorem State.Canonical.storeTo {c : Nat} {a : W64} {n : Nat} {v : W64} (h : s.Canonical) : (s.storeTo c a n v).Canonical := by
  unfold State.storeTo
  dsimp only
  split
  · exact (h.setCore _ _).sendReq
  · split
    · exact .ite (h.wr _ _) (.ite (h.setCore _ _) ((h.setCore _ _).wr _ _))
    · exact .ite (h.setCore _ _) ((h.setCore _ _).wr _ _)
    · exact (h.setCore _ _).wr _ _
    · exact h.setCore _ _
    · exact h.setCore _ _

theorem State.Canonical.store {c opc : Nat} {i : FmtI} {n : Nat} (h : s.Canonical) : OutCanonical (s.store c opc i n) := by
  unfold State.store
  refine h.ctl (fun _ ht => ?_) fun _ ht => ht
  dsimp only
  split
  · exact .fault
  · split
    · exact .ite ht.storeTo.go .fault
    · exact .ite .stall ht.storeTo.go

theorem execSb_canonical {c : Fin 64} {i : FmtI} (h : s.Canonical) : OutCanonical (execSb c i s) := h.store

theorem execSh_canonical {c : Fin 64} {i : FmtI} (h : s.Canonical) : OutCanonical (execSh c i s) := h.store

theorem execSw_canonical {c : Fin 64} {i : FmtI} (h : s.Canonical) : OutCanonical (execSw c i s) := h.store

theorem execSd_canonical {c : Fin 64} {i : FmtI} (h : s.Canonical) : OutCanonical (execSd c i s) := h.store

theorem execStoreRetire_canonical {c : Fin 64} {n : Nat} (h : s.Canonical) : OutCanonical (execStoreRetire c n s) := by
  unfold execStoreRetire
  dsimp only
  split
  · exact h.next
  · exact .ite (h.setCore _ _).next h.next

theorem State.Canonical.branch {c opc : Nat} {i : FmtB} {cond : W64 → W64 → Bool} (h : s.Canonical) : OutCanonical (s.branch c opc i cond) :=
  h.ctl (fun _ ht => .ite .fault (.ite ht.go ht.go)) (fun _ ht => ht)

theorem execBeq_canonical {c : Fin 64} {i : FmtB} (h : s.Canonical) : OutCanonical (execBeq c i s) := h.branch

theorem execBne_canonical {c : Fin 64} {i : FmtB} (h : s.Canonical) : OutCanonical (execBne c i s) := h.branch

theorem execBlt_canonical {c : Fin 64} {i : FmtB} (h : s.Canonical) : OutCanonical (execBlt c i s) := h.branch

theorem execBge_canonical {c : Fin 64} {i : FmtB} (h : s.Canonical) : OutCanonical (execBge c i s) := h.branch

theorem execBltu_canonical {c : Fin 64} {i : FmtB} (h : s.Canonical) : OutCanonical (execBltu c i s) := h.branch

theorem execBgeu_canonical {c : Fin 64} {i : FmtB} (h : s.Canonical) : OutCanonical (execBgeu c i s) := h.branch

theorem State.Canonical.jumpLink {c gd : Nat} {target : Int} (h : s.Canonical) : (s.jumpLink c gd target).Canonical := by
  unfold State.jumpLink
  split
  · exact .fault
  · exact h.result.go

theorem execJal_canonical {c : Fin 64} {i : FmtJ} (h : s.Canonical) : OutCanonical (execJal c i s) := h.ctl (fun _ ht => ht.jumpLink) (fun _ ht => ht)

theorem execJalr_canonical {c : Fin 64} {i : FmtI} (h : s.Canonical) : OutCanonical (execJalr c i s) :=
  h.ctl (fun _ ht => ht.jumpLink) (fun _ ht => ht)

theorem ctlLoopBody_canonical {c ga body : Nat} (h : s.Canonical) : (ctlLoopBody c ga body s).Canonical := by
  unfold ctlLoopBody
  dsimp only
  split
  · exact .fault
  · exact .ite .fault (.ite (h.setEng _ _ _).go (h.setEng _ _ _).go)

theorem execCtlLoop_canonical {c : Fin 64} {i : FmtI} (h : s.Canonical) : OutCanonical (execCtlLoop c i s) :=
  h.ctl (fun _ ht => ctlLoopBody_canonical ht) (fun _ ht => ht)

theorem execPusha_canonical {c : Fin 64} {i : FmtQ} (h : s.Canonical) : OutCanonical (execPusha c i s) := by
  unfold execPusha
  exact h.ctl (fun _ ht => (ht.setEng _ _ _).go) (fun _ ht => ht)

theorem execPushp_canonical {c : Fin 64} {i : FmtQ} (h : s.Canonical) : OutCanonical (execPushp c i s) := by
  unfold execPushp
  exact h.ctl (fun _ ht => (ht.setEng _ _ _).go) (fun _ ht => ht)

theorem execTadd_canonical {c : Fin 64} {i : FmtT} (h : s.Canonical) : OutCanonical (execTadd c i s) :=
  h.ctl (fun _ ht => ht.go) (fun _ ht => ht.postOp _ _)

theorem execTwait_canonical {c : Fin 64} {i : FmtT} (h : s.Canonical) : OutCanonical (execTwait c i s) :=
  h.ctl (fun _ ht => .ite ht.go .stall) (fun _ ht => ht)

theorem execTtake_canonical {c : Fin 64} {i : FmtT} (h : s.Canonical) : OutCanonical (execTtake c i s) :=
  h.ctl (fun _ ht => .ite ht.takeTally.go .stall) (fun _ ht => ht)

theorem execTrd_canonical {c : Fin 64} {i : FmtT} (h : s.Canonical) : OutCanonical (execTrd c i s) := h.compute

theorem execPwait_canonical {c : Fin 64} {i : FmtP} (h : s.Canonical) : OutCanonical (execPwait c i s) := by
  unfold execPwait
  exact h.ctl (fun _ ht => .ite (ht.endWait _ _).go .stall) (fun _ ht => ht)

theorem execWaitg_canonical {c : Fin 64} {i : FmtA} (h : s.Canonical) : OutCanonical (execWaitg c i s) := h.ctl (fun _ ht => ht.go) (fun _ ht => ht)

theorem execRds_canonical {c : Fin 64} {i : FmtI} (h : s.Canonical) : OutCanonical (execRds c i s) := h.compute

theorem execCtlHalt_canonical {c : Fin 64} {rest : BitVec 26} (h : s.Canonical) : OutCanonical (execCtlHalt c rest s) :=
  h.ctl (fun _ ht => ht.go) (fun _ ht => ht.setCore _ _)

/-! ### Peg units -/

theorem State.Canonical.putPeg {p : Nat} {w : W64} (h : s.Canonical) : (s.putPeg p w).Canonical := h.updated

theorem State.Canonical.pegUsed {p : Nat} (h : s.Canonical) : (s.pegUsed p).Canonical := h.updated

theorem State.Canonical.stirWaiters {p : Nat} (h : s.Canonical) : (s.stirWaiters p).Canonical :=
  h.foldl (fun _ _ ht => .ite ht.stirNext ht) _

theorem State.Canonical.report {p : Nat} (h : s.Canonical) : (s.report p).Canonical := h.updated

theorem State.Canonical.answerTakes {p : Nat} (h : s.Canonical) : (s.answerTakes p).Canonical := .ite h h.updated

theorem State.Canonical.pegChanged {p : Nat} {old : W64} (h : s.Canonical) : (s.pegChanged p old).Canonical :=
  (State.Canonical.ite h.report h).stirWaiters.answerTakes

theorem State.Canonical.setPeg {p : Nat} {w : W64} {cls : Nat} (h : s.Canonical) : (s.setPeg p w cls).Canonical :=
  (h.pegUsed.putPeg.tracePeg _ _ _).pegChanged

theorem State.Canonical.serve {p : Nat} (h : s.Canonical) : (s.serve p).Canonical := by
  unfold State.serve
  dsimp only
  split
  · exact h
  · exact .ite h.updated.setPeg h

theorem State.Canonical.serveAll (h : s.Canonical) : s.serveAll.Canonical := h.foldl (fun _ _ ht => ht.serve) _

theorem State.Canonical.pegScreen {p : Nat} (h : s.Canonical) : (s.pegScreen p).Canonical := by
  unfold State.pegScreen
  extract_lets _ t1
  have h1 : t1.Canonical := (h.bump _ _ _).bump _ _ _
  exact .ite h.stirWaiters (h1.record _ _ _ _ _ _ _ _).pegUsed.putPeg.pegChanged

theorem State.Canonical.waitFault {c e p st : Nat} (h : s.Canonical) : (s.waitFault c e p st).Canonical := h.precise _ _ _ _ _ _

theorem execPegWatch_canonical {c : Fin 64} {e : Fin 6} {second : Bool} (h : s.Canonical) : OutCanonical (execPegWatch c e second s) := by
  unfold execPegWatch
  extract_lets
  split
  · extract_lets t1
    have h1 : t1.Canonical := .ite h h.pegScreen
    exact .ite h.next (.ite h1.waitFault.next h1.updated.next)
  · exact h.next

theorem execPegReport_canonical {c : Fin 64} {e : Fin 6} (h : s.Canonical) : OutCanonical (execPegReport c e s) := by
  unfold execPegReport
  dsimp only
  split
  · exact h.next
  · exact (h.updated.stirNext.setEng _ _ _).next

theorem execPegReturn_canonical {peg : BitVec 16} (h : s.Canonical) : OutCanonical (execPegReturn peg s) := by
  unfold execPegReturn
  extract_lets _ _ t1
  have h1 : t1.Canonical := h.updated.pegScreen
  exact .ite h.next (.ite h1.next (.ite h1.setPeg.next h1.setPeg.next))

theorem execPegArmApply_canonical {c : Fin 64} (h : s.Canonical) : OutCanonical (execPegArmApply c s) := by
  unfold execPegArmApply
  extract_lets
  split
  · exact h.next
  · extract_lets _ t1
    have h1 : t1.Canonical := (h.setCore _ _).pegScreen
    exact .ite h.next (State.Canonical.ite (h1.late _ _ _ _ _ _ _) h1.setPeg).next

theorem execPegRead_canonical {c : Fin 64} (h : s.Canonical) : OutCanonical (execPegRead c s) := by
  unfold execPegRead
  split
  · exact h.next
  · extract_lets _ t1
    have h1 : t1.Canonical := h.pegScreen.pegUsed
    exact .ite h.next ((h1.tracePeg _ _ _).setCore _ _).next

theorem State.Canonical.placePeg {p : Nat} {w : W64} {cls : Nat} (h : s.Canonical) : (s.placePeg p w cls).Canonical := h.setPeg

theorem State.Canonical.abandonPeg {p : Nat} (h : s.Canonical) : (s.abandonPeg p).Canonical := h.setPeg

theorem State.Canonical.runPeg {r : PegRun} {p : Nat} (h : s.Canonical) : (s.runPeg r p).Canonical := by
  unfold State.runPeg
  extract_lets t1
  have h1 : t1.Canonical := .ite h h.pegScreen
  split
  · exact h.placePeg
  · exact .ite h (.ite h1.abandonPeg h1)

theorem State.Canonical.runPegs {r : PegRun} : ∀ (n p : Nat) {s : State}, s.Canonical → (s.runPegs r p n).Canonical
  | 0, _, _, h => h
  | n + 1, p, _, h => State.Canonical.runPegs n (p + 1) h.runPeg

theorem State.Canonical.runDone {r : PegRun} (h : s.Canonical) : (s.runDone r).Canonical := h.setFld _ _ _ _

theorem State.Canonical.advanceRun {n : Nat} {r : PegRun} (h : s.Canonical) : (s.advanceRun n r).Canonical :=
  .ite (h.runPegs _ _).updated.runDone (h.runPegs _ _).updated

theorem State.Canonical.advanceRuns {n : Nat} (h : s.Canonical) : (s.advanceRuns n).Canonical := h.foldl (fun _ _ ht => ht.advanceRun) _

theorem State.Canonical.finishRuns {cl : Nat} {init : Bool} (h : s.Canonical) : (s.finishRuns cl init).Canonical :=
  h.foldl (fun _ _ ht => ht.advanceRun) _

theorem State.Canonical.beginRun {r : PegRun} (h : s.Canonical) : (s.beginRun r).Canonical := h.updated

theorem State.Canonical.pegInitWrite {k : Nat} {path : Path} {v : Nat} (h : s.Canonical) : (s.pegInitWrite k path v).Canonical := by
  unfold State.pegInitWrite
  dsimp only
  split
  · exact h.unmapped _
  · exact .ite h.plainWrite (.ite (h.unmapped _) (h.setRegN _ _).beginRun)

theorem execPegInit_canonical {k : Fin 16} {path : Path} {v : BitVec 32} (h : s.Canonical) : OutCanonical (execPegInit k path v s) :=
  h.guardedOut (fun _ ht => ht.pegInitWrite)

theorem execPegInitDone_canonical {k : Fin 16} (h : s.Canonical) : OutCanonical (execPegInitDone k s) := (h.finishRuns.setFld _ _ _ _).next

theorem State.Canonical.sweepCluster {k mask : Nat} (h : s.Canonical) : (s.sweepCluster k mask).Canonical := (h.updated.setFld _ _ _ _).beginRun

theorem execPegAbandon_canonical {k : Fin 16} {path : Path} {v : BitVec 32} (h : s.Canonical) : OutCanonical (execPegAbandon k path v s) :=
  h.guardedOut (fun _ ht => ht.sweepCluster)

theorem execPegSweepDone_canonical {k : Fin 16} (h : s.Canonical) : OutCanonical (execPegSweepDone k s) := (h.finishRuns.setFld _ _ _ _).next

theorem execLanternFire_canonical {c : Fin 64} (h : s.Canonical) : OutCanonical (execLanternFire c s) := by
  unfold execLanternFire
  extract_lets _ _ _ _ _ _ _ t1
  have h1 : t1.Canonical := h.foldl (fun _ _ ht => ht.setRegN _ _) _
  exact .ite h.next ((((h1.setFld _ _ _ _).setFld _ _ _ _).record _ _ _ _ _ _ _ _).catchCore _ _).next

/-! ### The parameter update -/

theorem State.Canonical.setCellar {d : Nat} {x : Cellar} (h : s.Canonical) : (s.setCellar d x).Canonical := h.updated

theorem State.Canonical.setCve {d e : Nat} {v : Cve} (h : s.Canonical) : (s.setCve d e v).Canonical := h.setCellar

theorem State.Canonical.mapPass {d : Nat} {f : Pass → Pass} (h : s.Canonical) : (s.mapPass d f).Canonical := h.setCellar

theorem State.Canonical.updFault {d code d0 d1 : Nat} (h : s.Canonical) : (s.updFault d code d0 d1).Canonical := h.record _ _ _ _ _ _ _ _

theorem State.Canonical.updFlag {d f : Nat} (h : s.Canonical) : (s.updFlag d f).Canonical := h.orReg _ _

theorem State.Canonical.ruleCfgWrite {d n v mask : Nat} (h : s.Canonical) : (s.ruleCfgWrite d n v mask).Canonical := by
  unfold State.ruleCfgWrite
  dsimp only
  split
  · exact h.unmapped _
  · exact .ite (h.setRegN _ _) (.ite (h.setRegN _ _) ((h.setRegN _ _).setFld _ _ _ _).updFault)

theorem execRuleSlotEnable_canonical {cellar : Fin 4} {slot : Fin 16} {path : Path} {v : BitVec 64} (h : s.Canonical) :
    OutCanonical (execRuleSlotEnable cellar slot path v s) := h.guardedOut (fun _ ht => ht.ruleCfgWrite)

theorem State.Canonical.updateCommand {d : Nat} {bs : List Byte} (h : s.Canonical) : (s.updateCommand d bs).Canonical :=
  .ite h.setCellar.updFault h.setCellar.setCellar

theorem State.Canonical.endPass {d status : Nat} (h : s.Canonical) : (s.endPass d status).Canonical := by
  unfold State.endPass
  extract_lets
  split
  · exact h
  · extract_lets _ _ _ _ t1
    have h1 : t1.Canonical := (h.supWrite.setFld _ _ _ _).setFld _ _ _ _
    exact h1.updated.setCellar

theorem State.Canonical.compWrite {d : Nat} {i : Item} {c rel : Nat} {bs : List Byte} (h : s.Canonical) : (s.compWrite d i c rel bs).Canonical := by
  unfold State.compWrite
  split
  · exact h
  · exact h.physWrite

theorem State.Canonical.storeRec {d e : Nat} {i : Item} {t c k : Nat} {x : Lanes} (h : s.Canonical) : (s.storeRec d e i t c k x).Canonical :=
  .ite h (.ite h.setCve.compWrite.compWrite h.setCve.updFlag.compWrite)

theorem State.Canonical.failItem {d num k : Nat} (h : s.Canonical) : (s.failItem d num k).Canonical :=
  ((h.updFault.bump _ _ _).foldl (fun _ _ ht => .ite ht.setCve ht) _).mapPass

theorem State.Canonical.endRun {d num : Nat} {i : Item} (h : s.Canonical) : (s.endRun d num i).Canonical := by
  unfold State.endRun
  split
  · exact h
  · exact .ite h.mapPass.updated h.mapPass

theorem State.Canonical.countRecords {d n : Nat} (h : s.Canonical) : (s.countRecords d n).Canonical := h.setFld _ _ _ _

theorem State.Canonical.distRecords {d e : Nat} {i : Item} {p : Pass} :
    ∀ (n k : Nat) {s : State}, s.Canonical → (s.distRecords d e i p n k).1.Canonical
  | 0, _, _, h => h
  | n + 1, _, _, h => by
    unfold State.distRecords
    split
    · exact h
    · exact State.Canonical.distRecords n _ h.storeRec

theorem State.Canonical.storeState {d e : Nat} {i : Item} {t k : Nat} {w m v : Lanes} (h : s.Canonical) : (s.storeState d e i t k w m v).Canonical :=
  h.storeRec.storeRec.storeRec

theorem State.Canonical.plainRecord {d e : Nat} {i : Item} {p : Pass} {k : Nat} (h : s.Canonical) : (s.plainRecord d e i p k).Canonical :=
  h.updFlag.storeState.storeRec.countRecords

theorem State.Canonical.plainRecords {d e : Nat} {i : Item} {p : Pass} :
    ∀ (n k : Nat) {s : State}, s.Canonical → (s.plainRecords d e i p n k).1.Canonical
  | 0, _, _, h => h
  | n + 1, _, _, h => by
    unfold State.plainRecords
    split
    · exact h
    · split
      · exact State.Canonical.plainRecords n _ h
      · split
        · exact h
        · exact State.Canonical.plainRecords n _ h.plainRecord

theorem State.Canonical.builtinGroup {d e : Nat} {i : Item} {p : Pass} {k n : Nat} (h : s.Canonical) : (s.builtinGroup d e i p k n).Canonical := by
  unfold State.builtinGroup
  extract_lets _ _ _ _ _ _ _ t1
  have h1 : t1.Canonical := h.updFlag.foldl (fun _ _ ht => ht.updFlag.storeState.storeRec.countRecords) _
  exact h1.compWrite.mapPass

theorem State.Canonical.builtinGroups {d e : Nat} {i : Item} {p : Pass} {stop : Nat} :
    ∀ (n k : Nat) {s : State}, s.Canonical → (s.builtinGroups d e i p stop n k).1.Canonical
  | 0, _, _, h => h
  | n + 1, _, _, h => by
    unfold State.builtinGroups
    dsimp only
    split
    · exact h
    · split
      · exact State.Canonical.builtinGroups n _ h
      · exact State.Canonical.builtinGroups n _ h.builtinGroup

theorem State.Canonical.beginRecord {d e : Nat} {r : CveRun} {j : Nat} (h : s.Canonical) : (s.beginRecord d e r j).Canonical := h.setCve

theorem State.Canonical.beginGroup {d e : Nat} (h : s.Canonical) (r : CveRun) (n pos : Nat) : (s.beginGroup d e r n pos).Canonical := by
  induction n generalizing r pos with
  | zero => exact h.setCve.endRun
  | succ n ih =>
    refine State.Canonical.ite h.setCve.endRun ?_
    split
    · exact h.setCve.failItem
    · split
      · exact ih _ _
      · refine State.Canonical.ite h.setCve.beginRecord ?_
        exact State.Canonical.ite h.setCve.beginRecord h.setCve.setCve

theorem State.Canonical.finishGroup {d e : Nat} {r : CveRun} {t : Nat} (h : s.Canonical) : (s.finishGroup d e r t).Canonical := by
  unfold State.finishGroup
  extract_lets _ _ _ x1 _ t1
  have h1 : t1.Canonical := h.foldl (fun _ _ ht => ht.storeRec) _
  unfold x1
  split
  · exact h1.failItem
  · exact h1.compWrite.beginGroup _ _ _

theorem State.Canonical.cveEnd {d e : Nat} {r : CveRun} {t : Nat} (h : s.Canonical) : (s.cveEnd d e r t).Canonical := by
  unfold State.cveEnd
  extract_lets _ x1 _ _ t1
  have h1 : t1.Canonical := h.storeState.countRecords
  split
  · unfold x1
    split
    · exact h.beginRecord
    · exact .ite h.finishGroup h.setCve
  · refine State.Canonical.ite ?_ ?_
    · exact h.failItem
    · split
      · unfold x1
        split
        · exact h1.setCve.beginRecord
        · exact .ite h1.setCve.finishGroup h1.setCve.setCve
      · exact h1.storeRec.beginGroup _ _ _
  · exact h.finishGroup

theorem State.Canonical.refuseItem {d k : Nat} (h : s.Canonical) : (s.refuseItem d k).Canonical := (h.updFault.bump _ _ _).mapPass

theorem State.Canonical.nextItem {d : Nat} : ∀ (n : Nat) {s : State}, s.Canonical → (s.nextItem d n).Canonical
  | 0, _, h => h
  | n + 1, _, h => by
    unfold State.nextItem
    split
    · exact h
    · split
      · exact h
      · split
        · exact h.mapPass
        · exact State.Canonical.nextItem n h.refuseItem

theorem State.Canonical.runAtOnce {d e num : Nat} {i : Item} {p : Pass} {first n : Nat} (h : s.Canonical) :
    (s.runAtOnce d e num i p first n).Canonical := by
  unfold State.runAtOnce
  dsimp only
  split
  · refine State.Canonical.endRun ?_
    split
    · exact h.distRecords _ _
    · split
      · exact h.builtinGroups _ _
      · exact h.plainRecords _ _
  · refine State.Canonical.failItem ?_
    split
    · exact h.distRecords _ _
    · split
      · exact h.builtinGroups _ _
      · exact h.plainRecords _ _

theorem State.Canonical.takeRun {d e : Nat} (h : s.Canonical) : (s.takeRun d e).Canonical := by
  unfold State.takeRun
  split
  · exact h
  · split
    · exact h
    · exact .ite h.mapPass.runAtOnce (h.mapPass.beginGroup _ _ _)

theorem execCveRun_canonical {cellar : Fin 4} {e : Fin 16} (h : s.Canonical) : OutCanonical (execCveRun cellar e s) := by
  unfold execCveRun
  dsimp only
  split
  · exact h.next
  · exact .ite h.next (.ite (h.nextItem _).next (h.nextItem _).takeRun.next)

theorem State.Canonical.cveCompute {cellar : Fin 4} {e : Fin 16} {op : Nat} {i : CveI} {f : Lanes → Lanes → Lanes → Lanes × Nat}
    (h : s.Canonical) :
    OutCanonical (s.cveCompute cellar e op i f) := by
  unfold State.cveCompute
  dsimp only
  split
  · exact h.next
  · exact h.setCve.updFlag.next

theorem State.Canonical.cveLanes {cellar : Fin 4} {e : Fin 16} {op : Nat} {i : CveI} (h : s.Canonical) : OutCanonical (s.cveLanes cellar e op i) :=
  h.cveCompute

theorem execCveAdd_canonical {cellar : Fin 4} {e : Fin 16} {i : CveI} (h : s.Canonical) : OutCanonical (execCveAdd cellar e i s) := h.cveLanes

theorem execCveSub_canonical {cellar : Fin 4} {e : Fin 16} {i : CveI} (h : s.Canonical) : OutCanonical (execCveSub cellar e i s) := h.cveLanes

theorem execCveMul_canonical {cellar : Fin 4} {e : Fin 16} {i : CveI} (h : s.Canonical) : OutCanonical (execCveMul cellar e i s) := h.cveLanes

theorem execCveFma_canonical {cellar : Fin 4} {e : Fin 16} {i : CveI} (h : s.Canonical) : OutCanonical (execCveFma cellar e i s) := h.cveLanes

theorem execCveFnma_canonical {cellar : Fin 4} {e : Fin 16} {i : CveI} (h : s.Canonical) : OutCanonical (execCveFnma cellar e i s) := h.cveLanes

theorem execCveMin_canonical {cellar : Fin 4} {e : Fin 16} {i : CveI} (h : s.Canonical) : OutCanonical (execCveMin cellar e i s) := h.cveLanes

theorem execCveMax_canonical {cellar : Fin 4} {e : Fin 16} {i : CveI} (h : s.Canonical) : OutCanonical (execCveMax cellar e i s) := h.cveLanes

theorem execCveAbs_canonical {cellar : Fin 4} {e : Fin 16} {i : CveI} (h : s.Canonical) : OutCanonical (execCveAbs cellar e i s) := h.cveLanes

theorem execCveNeg_canonical {cellar : Fin 4} {e : Fin 16} {i : CveI} (h : s.Canonical) : OutCanonical (execCveNeg cellar e i s) := h.cveLanes

theorem execCveSgn_canonical {cellar : Fin 4} {e : Fin 16} {i : CveI} (h : s.Canonical) : OutCanonical (execCveSgn cellar e i s) := h.cveLanes

theorem execCveSqrt_canonical {cellar : Fin 4} {e : Fin 16} {i : CveI} (h : s.Canonical) : OutCanonical (execCveSqrt cellar e i s) := h.cveLanes

theorem execCveRsqrt_canonical {cellar : Fin 4} {e : Fin 16} {i : CveI} (h : s.Canonical) : OutCanonical (execCveRsqrt cellar e i s) := h.cveLanes

theorem execCveRcp_canonical {cellar : Fin 4} {e : Fin 16} {i : CveI} (h : s.Canonical) : OutCanonical (execCveRcp cellar e i s) := h.cveLanes

theorem execCveCmp_canonical {cellar : Fin 4} {e : Fin 16} {i : CveI} (h : s.Canonical) : OutCanonical (execCveCmp cellar e i s) := h.cveLanes

theorem execCveSel_canonical {cellar : Fin 4} {e : Fin 16} {i : CveI} (h : s.Canonical) : OutCanonical (execCveSel cellar e i s) := h.cveLanes

theorem execCveMov_canonical {cellar : Fin 4} {e : Fin 16} {i : CveI} (h : s.Canonical) : OutCanonical (execCveMov cellar e i s) := h.cveLanes

theorem execCveSum_canonical {cellar : Fin 4} {e : Fin 16} {i : CveI} (h : s.Canonical) : OutCanonical (execCveSum cellar e i s) := h.cveCompute

theorem execCveBcast_canonical {cellar : Fin 4} {e : Fin 16} {i : CveI} (h : s.Canonical) : OutCanonical (execCveBcast cellar e i s) := h.cveCompute

theorem execCveLds_canonical {cellar : Fin 4} {e : Fin 16} {i : CveI} (h : s.Canonical) : OutCanonical (execCveLds cellar e i s) := by
  unfold execCveLds
  dsimp only
  split
  · exact h.next
  · exact h.setCve.next

theorem execCveSts_canonical {cellar : Fin 4} {e : Fin 16} {i : CveI} (h : s.Canonical) : OutCanonical (execCveSts cellar e i s) := by
  unfold execCveSts
  dsimp only
  split
  · exact h.next
  · exact h.setCve.next

theorem execCveEnd_canonical {cellar : Fin 4} {e : Fin 16} {i : CveI} (h : s.Canonical) : OutCanonical (execCveEnd cellar e i s) := by
  unfold execCveEnd
  dsimp only
  split
  · exact h.next
  · exact .ite h.next h.cveEnd.next

/-! ### Page moves -/

theorem State.Canonical.supFill {space peg : Nat} (h : s.Canonical) : (s.supFill space peg).Canonical := h.updated

theorem State.Canonical.beginMove {m : PageMove} (h : s.Canonical) : (s.beginMove m).Canonical := by
  unfold State.beginMove
  split
  · exact h
  · exact (h.putPte.setRegN _ _).updated

theorem State.Canonical.beginMoves (h : s.Canonical) : s.beginMoves.Canonical := by
  unfold State.beginMoves
  split
  · exact h
  · split
    · exact h.beginMove
    · exact h

theorem State.Canonical.rewriteItems {m : PageMove} {va n : Nat} (h : s.Canonical) : (s.rewriteItems m va n).Canonical := by
  unfold State.rewriteItems
  split
  · exact h
  · exact h.foldl (fun _ _ ht => ht.foldl (fun _ _ hu => .ite hu.supWrite hu) _) _

theorem State.Canonical.finishMove {m : PageMove} (h : s.Canonical) : (s.finishMove m).Canonical := by
  unfold State.finishMove
  extract_lets _ _ _ t1
  have h1 : t1.Canonical := by
    unfold t1
    split
    · exact h.updated
    · exact (State.Canonical.ite h.updated h.updated.copyCipher).putPte.rewriteItems.resumePage
  split
  · exact .ite h1 h1.supFill
  · exact h1

theorem execMemInvalDone_canonical (h : s.Canonical) : OutCanonical (execMemInvalDone s) :=
  .ite ((h.dropCached.setFld _ _ _ _).foldl (fun _ _ ht => ht.finishMove) _).beginMoves.next h.next

theorem State.Canonical.askMove {m : PageMove} (h : s.Canonical) : (s.askMove m).Canonical := by
  unfold State.askMove
  dsimp only
  split
  · exact h
  · exact .ite h h.updated

theorem execPageMove_canonical {space : Fin 16} {va : BitVec 47} {cellar : Fin 4} {tier : Fin 2} {frame : BitVec 24} (h : s.Canonical) :
    OutCanonical (execPageMove space va cellar tier frame s) := h.askMove.beginMoves.next

theorem execPassStart_canonical {cellar : Fin 4} (h : s.Canonical) : OutCanonical (execPassStart cellar s) := by
  unfold execPassStart
  dsimp only
  split
  · exact h.next
  · exact .ite h.next (.ite (State.Canonical.ite (h.updFault.setFld _ _ _ _) h.updFault).endPass.beginMoves.next h.mapPass.next)

theorem execPassComplete_canonical {cellar : Fin 4} (h : s.Canonical) : OutCanonical (execPassComplete cellar s) := by
  unfold execPassComplete
  dsimp only
  split
  · exact h.next
  · exact .ite h.endPass.beginMoves.next h.next

/-! ### Peg fills -/

theorem State.Canonical.refuseFill {f : Fill} {cause : Nat} (h : s.Canonical) : (s.refuseFill f cause).Canonical := by
  unfold State.refuseFill
  split
  · split
    · exact h
    · exact h.refuse
  · exact h.setStrm.stopAt

theorem State.Canonical.ackFill {f : Fill} {applied : Bool} (h : s.Canonical) : (s.ackFill f applied).Canonical := by
  unfold State.ackFill
  split
  · split
    · exact h
    · exact h.ack
  · exact h.setStrm.settle

theorem State.Canonical.applyFill {f : Fill} (h : s.Canonical) : (s.applyFill f).Canonical := by
  unfold State.applyFill
  dsimp only
  split
  · exact (h.attempt _ _ _ _).refuseFill
  · exact .ite (h.pegScreen.bump _ _ _).ackFill (.ite h.pegScreen.refuseFill
        (State.Canonical.ite ((h.pegScreen.bump _ _ _).record _ _ _ _ _ _ _ _) h.pegScreen).setPeg.ackFill)

theorem execPegFill_canonical {peg : BitVec 16} (h : s.Canonical) : OutCanonical (execPegFill peg s) := by
  unfold execPegFill
  dsimp only
  split
  · exact h.next
  · exact .ite h.next h.updated.applyFill.next

/-! ### Fabric ports -/

theorem State.Canonical.refreshPath (h : s.Canonical) : s.refreshPath.Canonical := h.updated

theorem State.Canonical.mark {n g : Nat} {down : Bool} (h : s.Canonical) : (s.mark n g down).Canonical :=
  ((h.updated.setFld _ _ _ _).setFld _ _ _ _).refreshPath

theorem State.Canonical.sendNotice {n g : Nat} {down : Bool} {seq except : Nat} (h : s.Canonical) : (s.sendNotice n g down seq except).Canonical :=
  h.foldl (fun _ _ ht => .ite ht.forward ht) _

theorem State.Canonical.ownNotice {g : Nat} {down : Bool} (h : s.Canonical) : (s.ownNotice g down).Canonical := (h.setPort _ _).mark.sendNotice

theorem State.Canonical.setFallBack {die : Nat} (h : s.Canonical) : (s.setFallBack die).Canonical :=
  .ite h (h.foldl (fun _ _ ht => ht.setFld _ _ _ _) _)

theorem State.Canonical.portFault {g code d1 d2 d3 : Nat} (h : s.Canonical) : (s.portFault g code d1 d2 d3).Canonical := h.record _ _ _ _ _ _ _ _

theorem State.Canonical.dropPort {g : Nat} (h : s.Canonical) : (s.dropPort g).Canonical := (h.setPort _ _).foldl (fun _ _ ht => ht.blocked) _

theorem State.Canonical.trainPort {g : Nat} (h : s.Canonical) : (s.trainPort g).Canonical := ((h.setFld _ _ _ _).setFld _ _ _ _).setPort _ _

theorem State.Canonical.startRetrain {g lanes : Nat} (h : s.Canonical) : (s.startRetrain g lanes).Canonical :=
  .ite h (.ite h.trainPort (.ite ((((h.setFld _ _ _ _).setFld _ _ _ _).setFld _ _ _ _).setPort _ _) ((h.setFld _ _ _ _).setPort _ _).ownNotice))

theorem State.Canonical.startKept {g : Nat} (h : s.Canonical) : (s.startKept g).Canonical := by
  unfold State.startKept
  dsimp only
  split
  · exact ((h.setFld _ _ _ _).setPort _ _).startRetrain
  · exact h

theorem State.Canonical.portDown {g : Nat} (h : s.Canonical) : (s.portDown g).Canonical := by
  unfold State.portDown
  extract_lets _ _ t1
  have h1 : t1.Canonical := (((h.setFld _ _ _ _).setFld _ _ _ _).bump _ _ _).setFld _ _ _ _
  exact (h1.setPort _ _).portFault.ownNotice.dropPort.startKept

theorem State.Canonical.replay {g : Nat} (h : s.Canonical) : (s.replay g).Canonical := by
  unfold State.replay
  dsimp only
  split
  · exact h
  · exact .ite h.portFault.portDown (h.setPort _ _)

theorem execFrameReceive_canonical {g : Fin 8} {corrected uncorrectable : Nat} {bs : List (BitVec 8)} (h : s.Canonical) :
    OutCanonical (execFrameReceive g corrected uncorrectable bs s) := by
  unfold execFrameReceive
  extract_lets _ t1 _ _ t2
  have h1 : t1.Canonical := (h.setFld _ _ _ _).setFld _ _ _ _
  have h2 : t2.Canonical := .ite h1 (h1.bump _ _ _)
  exact .ite h.next (.ite (h2.setPort _ _).next (State.Canonical.ite (h2.setPort _ _).replay (h2.setPort _ _)).next)

theorem execReplayTimeout_canonical {g : Fin 8} (h : s.Canonical) : OutCanonical (execReplayTimeout g s) := .ite h.replay.next h.next

theorem execPacketForward_canonical {g : Fin 8} (h : s.Canonical) : OutCanonical (execPacketForward g s) := by
  unfold execPacketForward
  dsimp only
  split
  · exact h.next
  · exact .ite (h.setPort _ _).next (.ite h.next ((h.setPort _ _).dieCount _ _).forward.next)

theorem State.Canonical.takePkt {typ n : Nat} {p : Pkt} {t : State} (h : s.Canonical) (he : s.takePkt typ n = some (p, t)) : t.Canonical := by
  obtain ⟨q, -, hq⟩ := Option.map_eq_some_iff.mp he
  cases hq
  exact h.updated

theorem State.Canonical.guyCheck {die k : Nat} (h : s.Canonical) : (s.guyCheck die k).Canonical := h.bump _ _ _

theorem State.Canonical.checked {p : Pkt} {t : State} (h : s.Canonical) (he : s.checked p = some t) : t.Canonical := by
  unfold State.checked at he
  dsimp only at he
  split at he
  · cases he
    exact State.Canonical.ite (h.guyCheck.record _ _ _ _ _ _ _ _) (h.guyCheck.record _ _ _ _ _ _ _ _).nak
  · split at he
    · split at he
      · cases he
      · cases he
        exact State.Canonical.ite (h.guyCheck.record _ _ _ _ _ _ _ _) (h.guyCheck.record _ _ _ _ _ _ _ _).nak
    · cases he

theorem execLinkstate_canonical {n : Nat} {pkg : BitVec 13} {g : Fin 8} {down : Bool} {seq : Nat} (h : s.Canonical) :
    OutCanonical (execLinkstate n pkg g down seq s) := by
  unfold execLinkstate
  dsimp only
  split
  · exact h.next
  · rename_i he
    have ht := h.takePkt he
    split
    · rename_i he
      exact (ht.checked he).next
    · exact .ite ht.next (ht.updated.mark.foldl (fun _ _ hu => hu.setFld _ _ _ _) _).sendNotice.next

theorem execPortLossOfLock_canonical {g : Fin 8} {good : BitVec 4} (h : s.Canonical) : OutCanonical (execPortLossOfLock g good s) := by
  unfold execPortLossOfLock
  dsimp only
  split
  · exact .ite (h.setFld _ _ _ _).next (.ite (h.setFld _ _ _ _).portDown.next (((h.setFld _ _ _ _).setFld _ _ _ _).setPort _ _).next)
  · exact h.next

theorem execPortNarrowDone_canonical {g : Fin 8} {width : Fin 4} (h : s.Canonical) : OutCanonical (execPortNarrowDone g width s) := by
  unfold execPortNarrowDone
  extract_lets _ _ _ t1
  have h1 : t1.Canonical := (h.setFld _ _ _ _).setFld _ _ _ _
  exact .ite (.ite h.portDown.next (h1.setPort _ _).portFault.setFallBack.next) h.next

theorem execPortNarrowTimeout_canonical {g : Fin 8} (h : s.Canonical) : OutCanonical (execPortNarrowTimeout g s) :=
  .ite h.portDown.next h.next

theorem execPortUpHoldExpire_canonical {g : Fin 8} (h : s.Canonical) : OutCanonical (execPortUpHoldExpire g s) :=
  .ite (h.setFld _ _ _ _).ownNotice.next h.next

theorem execPortAutoRetry_canonical {g : Fin 8} (h : s.Canonical) : OutCanonical (execPortAutoRetry g s) := .ite h.trainPort.next h.next

theorem State.Canonical.portCtrlWrite {g v : Nat} (h : s.Canonical) : (s.portCtrlWrite g v).Canonical :=
  .ite (h.setFld _ _ _ _) (.ite (((h.setFld _ _ _ _).setFld _ _ _ _).setPort _ _) (h.setFld _ _ _ _).startRetrain)

theorem execPortRetrain_canonical {g : Fin 8} {path : Option Path} {v : BitVec 32} (h : s.Canonical) :
    OutCanonical (execPortRetrain g path v s) := by
  unfold execPortRetrain
  split
  · exact h.guardedOut (fun _ ht => .ite ht.portCtrlWrite.updated ht.portCtrlWrite)
  · exact (State.Canonical.ite h h.startRetrain).next

theorem State.Canonical.portDrained {g : Nat} (h : s.Canonical) : (s.portDrained g).Canonical := .ite (h.setFld _ _ _ _).dropPort h

theorem State.Canonical.trained {g lanes width peer peerG shape : Nat} {reversed : Bool} (h : s.Canonical) :
    (s.trained g lanes width peer peerG shape reversed).Canonical := by
  unfold State.trained
  extract_lets _ _ t1 _ t2 _ _ t3
  have h1 : t1.Canonical := (((h.setFld _ _ _ _).setFld _ _ _ _).setFld _ _ _ _).setFld _ _ _ _
  have h2 : t2.Canonical := (h1.setFld _ _ _ _).setFld _ _ _ _
  have h3 : t3.Canonical := ((h2.setPort _ _).setFld _ _ _ _).setFld _ _ _ _
  refine State.Canonical.ite ?_ ?_
  · exact ((h2.setPort _ _).setFld _ _ _ _).setFld _ _ _ _
  · exact .ite (.ite h3.portFault (h3.note _ _ _ _ _)) (((h2.setPort _ _).setFld _ _ _ _).setFld _ _ _ _)

theorem execPortRetrainDone_canonical {g : Fin 8} {lanes : BitVec 4} {width : Fin 4} {reversed : Bool} {peer : BitVec 13} {peerG : Fin 8}
    {shape : BitVec 16} (h : s.Canonical) :
    OutCanonical (execPortRetrainDone g lanes width reversed peer peerG shape s) := by
  unfold execPortRetrainDone
  extract_lets t1
  have h1 : t1.Canonical := (h.setFld _ _ _ _).setFld _ _ _ _
  split
  · exact h.trained.startKept.next
  · split
    · exact .ite (h1.setPort _ _).portDown.next (((h1.setPort _ _).setFld _ _ _ _).setPort _ _).startKept.next
    · exact h.next

theorem execSyncSend_canonical {g : Fin 8} (h : s.Canonical) : OutCanonical (execSyncSend g s) := .ite (h.setPort _ _).next h.next

theorem State.Canonical.correct {ns : Int} (h : s.Canonical) : (s.correct ns).Canonical := h.updated

theorem State.Canonical.discipline {g : Nat} {offset8 : Int} {parentLocked : Bool} {depth : Nat} (h : s.Canonical) :
    (s.discipline g offset8 parentLocked depth).Canonical := by
  unfold State.discipline
  extract_lets _ t1
  have h1 : t1.Canonical := ((h.setFld _ _ _ _).setFld _ _ _ _).setFld _ _ _ _
  split
  · split
    · exact h1
    · exact .ite (.ite (h1.updated.correct.setFld _ _ _ _) (h1.updated.updated.setFld _ _ _ _)) h1.updated
  · exact .ite h1.correct (.ite (h1.correct.setFld _ _ _ _) h1)

theorem execSync_canonical {n : Nat} (h : s.Canonical) : OutCanonical (execSync n s) := by
  unfold execSync
  split
  · exact h.next
  · rename_i he
    have ht := h.takePkt he
    extract_lets _ _ _ _ _ _ _ _ _ t1
    have h1 : t1.Canonical := ((ht.setPort _ _).setFld _ _ _ _).setFld _ _ _ _
    split
    · exact (ht.guyCheck.record _ _ _ _ _ _ _ _).next
    · exact .ite (ht.setPort _ _).next (.ite h1.discipline.next h1.next)

theorem execTimHoldover_canonical (h : s.Canonical) : OutCanonical (execTimHoldover s) := by
  unfold execTimHoldover
  split
  · exact h.next
  · exact .ite ((h.setFld _ _ _ _).record _ _ _ _ _ _ _ _).next h.next

theorem execTimMasterLost_canonical (h : s.Canonical) : OutCanonical (execTimMasterLost s) := by
  unfold execTimMasterLost
  dsimp only
  split
  · exact h.next
  · exact .ite ((State.Canonical.ite (((h.setFld _ _ _ _).updated.setFld _ _ _ _).setFld _ _ _ _)
        (h.setFld _ _ _ _)).record _ _ _ _ _ _ _ _).refreshPath.next h.next

/-! ### WRITE, ADD and READ packets, and the accesses of each requester -/

theorem State.Canonical.dropTags {space : Nat} {all : Bool} (h : s.Canonical) : (s.dropTags space all).Canonical := h.updated

theorem State.Canonical.takeTag {src tag space : Nat} {t : State} (h : s.Canonical) (he : s.takeTag src tag space = some t) : t.Canonical := by
  unfold State.takeTag at he
  dsimp only at he
  split at he
  · split at he
    · cases he
    · cases he
      exact h.updated
  · split at he
    · split at he
      · cases he
      · cases he
        exact h
    · cases he
      exact h.updated.setConn.updated

theorem State.Canonical.packetJob {p : Pkt} {t : State} (h : s.Canonical) (he : s.packetJob p = .error t) : t.Canonical := by
  unfold State.packetJob at he
  split at he
  · rename_i hc
    cases he
    exact h.checked hc
  · split at he
    · cases he
      exact (h.attempt _ _ _ _).nak
    · split at he
      · cases he
      · cases he
        exact (h.attempt _ _ _ _).nak

theorem State.Canonical.committed {r : InReq} (h : s.Canonical) : (s.committed r).Canonical := by
  unfold State.committed
  extract_lets _ t1
  have h1 : t1.Canonical := .ite h.updated h.updated.setConn
  split
  · exact h1.updated
  · exact h1

theorem State.Canonical.commitReady : ∀ (n : Nat) {s : State}, s.Canonical → (State.commitReady n s).Canonical
  | 0, _, h => h
  | n + 1, _, h => by
    unfold State.commitReady
    split
    · exact h
    · exact State.Canonical.commitReady n h.dieWrite.committed

theorem State.Canonical.takeWrite {p : Pkt} (h : s.Canonical) : (s.takeWrite p).Canonical := by
  unfold State.takeWrite
  split
  · rename_i he
    exact h.packetJob he
  · split
    · exact (h.attempt _ _ _ _).nak
    · split
      · exact h.nak
      · split
        · exact h.ackPkt
        · rename_i he
          have ht := h.takeTag he
          exact (State.Canonical.ite ht.updated ht.updated.ackPkt).commitReady _

theorem execWrite_canonical {n : Nat} (h : s.Canonical) : OutCanonical (execWrite n s) := by
  unfold execWrite
  split
  · exact h.next
  · rename_i he
    exact (h.takePkt he).takeWrite.next

theorem execAdd_canonical {n : Nat} (h : s.Canonical) : OutCanonical (execAdd n s) := by
  unfold execAdd
  split
  · exact h.next
  · rename_i he
    exact (h.takePkt he).takeWrite.next

theorem State.Canonical.readData {dst ddie tag addr space : Nat} {bs : List Byte} (h : s.Canonical) :
    (s.readData dst ddie tag addr space bs).Canonical := h.respond

theorem execRead_canonical {n : Nat} (h : s.Canonical) : OutCanonical (execRead n s) := by
  unfold execRead
  split
  · exact h.next
  · rename_i he
    have ht := h.takePkt he
    dsimp only
    split
    · rename_i he
      exact (ht.packetJob he).next
    · split
      · exact (ht.attempt _ _ _ _).nak.next
      · exact .ite ht.nak.next (.ite ht.readData.next (.ite ht.next ht.updated.next))

theorem State.Canonical.dropFrom {c slot t : Nat} (h : s.Canonical) : (s.dropFrom c slot t).Canonical := h.updated.setStr

theorem State.Canonical.remoteFault {r : InReq} {cause va : Nat} (h : s.Canonical) : (s.remoteFault r cause va).Canonical :=
  .ite h.xlateFault h.xlateFault.updated

theorem State.Canonical.walkRemote {n : Nat} (h : s.Canonical) : (s.walkRemote n).Canonical := by
  unfold State.walkRemote
  split
  · exact h
  · split
    · exact h
    · split
      · exact h
      · split
        · rename_i he
          exact State.Canonical.of_fst h.doWalk he
        · rename_i he
          exact (State.Canonical.of_fst h.doWalk he).remoteFault

theorem State.Canonical.accessRemote {n : Nat} (h : s.Canonical) : (s.accessRemote n).Canonical := by
  unfold State.accessRemote
  split
  · exact h
  · split
    · exact h
    · split
      · exact h
      · split
        · exact h
        · exact h.remoteFault
        · dsimp only
          split
          · exact h.mapCount.updated.readData
          · exact h.mapWrite.committed.commitReady _
          · exact h.mapAdd.committed.commitReady _

theorem State.Canonical.awayFault {c slot tile va : Nat} (h : s.Canonical) : (s.awayFault c slot tile va).Canonical :=
  .ite h.dropFrom.suspendAt h

theorem execTranslationWalk_canonical {r : Requester} (h : s.Canonical) : OutCanonical (execTranslationWalk r s) := by
  unfold execTranslationWalk
  split
  · exact h.awayFault.next
  · exact h.walkStream.next
  · exact h.walkLoad.next
  · exact h.walkStore.next
  · exact h.walkRemote.next

theorem execTierAccess_canonical {r : Requester} (h : s.Canonical) : OutCanonical (execTierAccess r s) := by
  unfold execTierAccess
  split
  · exact h.next
  · exact h.accessStream.next
  · exact h.accessLoad.next
  · exact h.accessStore.next
  · exact h.accessRemote.next

theorem State.Canonical.dropReq {r : Req} (h : s.Canonical) : (s.dropReq r).Canonical := h.updated

theorem State.Canonical.memAnswered {r : Req} {data : List Byte} (h : s.Canonical) : (s.memAnswered r data).Canonical := by
  unfold State.memAnswered
  dsimp only
  split
  · exact h.setCore _ _
  · split
    · exact h
    · split
      · exact h.setStrm.settle
      · split
        · exact h
        · split
          · exact h
          · exact h.setXfer.stirNext

theorem State.Canonical.memRefused {r : Req} {cause : Nat} (h : s.Canonical) : (s.memRefused r cause).Canonical := by
  unfold State.memRefused
  dsimp only
  split
  · split
    · exact h.holdLoad
    · exact h.holdStore
    · exact h
  · exact .ite h h.dropFrom.setStrm.stopAt

theorem State.Canonical.memFailed {r : Req} (h : s.Canonical) : (s.memFailed r).Canonical :=
  .ite h.memRefused (.ite h h.dropFrom.setStrm.suspendAt)

/-! ### Gradient reduction and distribution -/

theorem State.Canonical.redFault {c code inst bucket rank last : Nat} (h : s.Canonical) : (s.redFault c code inst bucket rank last).Canonical :=
  h.record _ _ _ _ _ _ _ _

theorem State.Canonical.showChan {c : Nat} (h : s.Canonical) : (s.showChan c).Canonical := (h.setFld _ _ _ _).setFld _ _ _ _

theorem State.Canonical.putChan {c : Nat} {x : Chan} (h : s.Canonical) : (s.putChan c x).Canonical := (h.setChan _ _).showChan

theorem State.Canonical.redMap {space va kind n : Nat} (h : s.Canonical) : (s.redMap space va kind n).1.Canonical := by
  unfold State.redMap
  dsimp only
  split
  · rename_i he
    exact State.Canonical.of_fst h.doWalk he
  · rename_i he
    have ht := State.Canonical.of_fst h.doWalk he
    split
    · exact ht
    · exact ht

theorem State.Canonical.redRead {space va n : Nat} (h : s.Canonical) : (s.redRead space va n).1.Canonical := by
  unfold State.redRead
  refine State.Canonical.foldl_fst (fun _ _ ht => ?_) _ h
  split
  · exact ht
  · split
    · rename_i he
      exact State.Canonical.of_fst ht.redMap he
    · rename_i he
      exact (State.Canonical.of_fst ht.redMap he).mapCount

theorem State.Canonical.redMapped {space va n : Nat} (h : s.Canonical) : (s.redMapped space va n).1.Canonical := by
  unfold State.redMapped
  refine State.Canonical.foldl_fst (fun _ _ ht => ?_) _ h
  split
  · exact ht
  · split
    · rename_i he
      exact State.Canonical.of_fst ht.redMap he
    · rename_i he
      exact State.Canonical.of_fst ht.redMap he

theorem State.Canonical.redWrite {space va : Nat} {bs : List Byte} (h : s.Canonical) : (s.redWrite space va bs).1.Canonical := by
  unfold State.redWrite
  refine State.Canonical.foldl_fst (fun _ _ ht => ?_) _ h
  dsimp only
  split
  · rename_i he
    exact State.Canonical.of_fst ht.redMap he
  · rename_i he
    exact (State.Canonical.of_fst ht.redMap he).mapWrite

theorem State.Canonical.redXlate {c kind : Nat} {e : Nat × Nat} {tile : Nat} (h : s.Canonical) : (s.redXlate c kind e tile).Canonical := h.xlateFault

theorem execSendUnitStart_canonical {ch : Fin 64} (h : s.Canonical) : OutCanonical (execSendUnitStart ch s) := by
  unfold execSendUnitStart
  dsimp only
  split
  · exact .ite h.pegScreen.putChan.next (.ite (h.pegScreen.setPeg.setChan _ _).next h.pegScreen.next)
  · exact h.next

theorem State.Canonical.sendSegment {c inst bucket rank seg : Nat} {bs : List Byte} (h : s.Canonical) :
    (s.sendSegment c inst bucket rank seg bs).Canonical := .ite h.sendReq.sendReq h.sendReq

theorem State.Canonical.sendTo {c : Nat} {b : Bucket} : ∀ (l : List Nat) {s : State}, s.Canonical → (s.sendTo c b l).Canonical
  | [], _, h => h.setChan _ _
  | r :: rs, _, h => by
    unfold State.sendTo
    split
    · exact h
    · dsimp only
      split
      · exact State.Canonical.sendTo rs (h.setChan _ _)
      · split
        · exact h
        · split
          · rename_i he
            exact ((State.Canonical.of_fst h.redRead he).redXlate.setChan _ _).updated
          · rename_i he
            exact State.Canonical.sendTo rs ((State.Canonical.of_fst h.redRead he).setChan _ _).sendSegment

theorem execSendRound_canonical {ch : Fin 64} (h : s.Canonical) : OutCanonical (execSendRound ch s) := by
  unfold execSendRound
  dsimp only
  split
  · exact h.next
  · exact .ite h.next (h.sendTo _).next

theorem State.Canonical.sentCheck {c : Nat} (h : s.Canonical) : (s.sentCheck c).Canonical := by
  unfold State.sentCheck
  dsimp only
  split
  · exact h
  · exact .ite (h.setChan _ _) h

theorem State.Canonical.mapJob {space : Nat} {f : Job → Job} (h : s.Canonical) : (s.mapJob space f).Canonical := h.updated

theorem State.Canonical.stepEnded {space : Nat} (h : s.Canonical) : (s.stepEnded space).Canonical := h.mapJob

theorem State.Canonical.closeOne {c : Nat} (h : s.Canonical) : (s.closeOne c).Canonical := by
  unfold State.closeOne
  extract_lets _ _ t1
  have h1 : t1.Canonical := h.stopSend.setFld _ _ _ _
  exact h1.putChan.stepEnded.updated

theorem State.Canonical.closeStep {c : Nat} (h : s.Canonical) : (s.closeStep c).Canonical := h.closeOne.foldl (fun _ _ ht => ht.redFault.closeOne) _

theorem State.Canonical.endStep {c : Nat} {tell : Bool} (h : s.Canonical) : (s.endStep c tell).Canonical :=
  .ite h (.ite h.redFault.closeStep (h.redFault.closeStep.foldl (fun _ _ ht => ht.sendReq) _))

theorem State.Canonical.setPart {c : Nat} {p : Part} (h : s.Canonical) : (s.setPart c p).Canonical := h.setChan _ _

theorem State.Canonical.normWrite {c inst seg fmt d : Nat} {bs : List Byte} (h : s.Canonical) : (s.normWrite c inst seg fmt d bs).Canonical :=
  .ite (h.setCellar.record _ _ _ _ _ _ _ _) h.setCellar

theorem State.Canonical.closeInst {c inst : Nat} (h : s.Canonical) : (s.closeInst c inst).Canonical := by
  unfold State.closeInst
  extract_lets _ _ _ _ t1
  have h1 : t1.Canonical := (h.foldl (fun _ _ ht => ht.redFault) _).setFld _ _ _ _
  exact h1.putChan.updated

theorem State.Canonical.writeSegment {c inst seg : Nat} {vals : List W32} (h : s.Canonical) : (s.writeSegment c inst seg vals).Canonical := by
  unfold State.writeSegment
  extract_lets
  refine State.Canonical.ite ?_ ?_
  · exact h
  · split
    · rename_i he
      exact (State.Canonical.of_fst h.redMapped he).redXlate
    · rename_i he
      have ht := State.Canonical.of_fst h.redMapped he
      extract_lets _ _ t1
      have h1 : t1.Canonical := (ht.orReg _ _).redWrite.foldl (fun _ _ hu => hu.normWrite) _
      exact .ite (h1.setChan _ _).closeInst (h1.setChan _ _)

theorem State.Canonical.settleSegment {c : Nat} {e : Nat × Nat} (h : s.Canonical) : (s.settleSegment c e).Canonical := by
  unfold State.settleSegment
  extract_lets _ _ _ _ _ _ _ t1
  have h1 : t1.Canonical := (State.Canonical.ite h (h.dieCount _ _)).foldl (fun _ _ ht => .ite ht ht.setPart) _
  exact .ite (h1.setChan _ _).writeSegment (h1.setChan _ _)

theorem State.Canonical.settleAdder {c : Nat} : ∀ (n : Nat) {s : State}, s.Canonical → (s.settleAdder c n).Canonical
  | 0, _, h => h
  | n + 1, s, h => by
    have ht := h.foldl (f := fun u e => if (u.chan c).phase = 1 then u.settleSegment c e else u)
      (fun _ _ hu => State.Canonical.ite hu.settleSegment hu) (s.slotted c)
    exact State.Canonical.ite ht (State.Canonical.settleAdder n ht)

theorem State.Canonical.settleNorm {c : Nat} (h : s.Canonical) : (s.settleNorm c).Canonical := by
  unfold State.settleNorm
  dsimp only
  split
  · exact h
  · split
    · exact h
    · exact ((h.setChan _ _).foldl (fun _ _ ht => ht.redFault) _).foldl (fun _ _ ht => ht.sendReq) _

theorem State.Canonical.settleChan {c : Nat} (h : s.Canonical) : (s.settleChan c).Canonical := .ite h.settleNorm (h.settleAdder _)

theorem State.Canonical.atDeadline {c : Nat} (h : s.Canonical) : (s.atDeadline c).Canonical :=
  .ite h (.ite (h.setChan _ _) (.ite (h.setChan _ _).endStep (h.setChan _ _).putChan.settleChan))

theorem execRedDeadline_canonical {ch : Fin 64} (h : s.Canonical) : OutCanonical (execRedDeadline ch s) := .ite h.atDeadline.next h.next

theorem execRedGrace_canonical {ch : Fin 64} (h : s.Canonical) : OutCanonical (execRedGrace ch s) :=
  .ite (.ite h.atDeadline.redFault.endStep.next h.atDeadline.next) h.next

theorem State.Canonical.redTake {p : Pkt} {t : State} (h : s.Canonical) (he : s.redTake p = .error t) : t.Canonical := by
  unfold State.redTake at he
  dsimp only at he
  split at he
  · rename_i hp
    cases he
    exact h.packetJob hp
  · split at he
    · cases he
      exact (h.attempt _ _ _ _).nak
    · cases he

theorem State.Canonical.redAck {c : Nat} {p : Pkt} (h : s.Canonical) : (s.redAck c p).Canonical := h.ackPkt

theorem State.Canonical.redStale {c : Nat} {p : Pkt} (h : s.Canonical) : (s.redStale c p).Canonical := (h.bump _ _ _).redAck

theorem State.Canonical.redBusy {c : Nat} {p : Pkt} (h : s.Canonical) : (s.redBusy c p).Canonical := (h.bump _ _ _).nak

theorem State.Canonical.redOrder {c inst bucket rank : Nat} {p : Pkt} (h : s.Canonical) : (s.redOrder c inst bucket rank p).Canonical := by
  unfold State.redOrder
  dsimp only
  split
  · exact .ite h.redFault.nak.endStep h.redFault.nak
  · exact .ite h.redFault.nak.endStep h.redFault.nak.putChan.settleChan

theorem State.Canonical.markSeen {c rank : Nat} {p : Pkt} (h : s.Canonical) : (s.markSeen c rank p).Canonical := .ite (h.setChan _ _) h

theorem State.Canonical.addContrib {c inst seg half rank : Nat} {p : Pkt} (h : s.Canonical) : (s.addContrib c inst seg half rank p).Canonical :=
  .ite h.redAck (.ite h.setPart.settleChan.redAck h.redBusy)

theorem State.Canonical.takeContrib {p : Pkt} (h : s.Canonical) : (s.takeContrib p).Canonical := by
  unfold State.takeContrib
  extract_lets
  split
  · rename_i he
    exact h.redTake he
  · extract_lets t1
    have h1 : t1.Canonical := .ite h.atDeadline h
    split
    · exact h1.redStale
    · exact h1.redBusy
    · exact h1.redOrder
    · exact .ite h1.redOrder (.ite h1.redStale h1.markSeen.addContrib)

theorem execContrib_canonical {n : Nat} (h : s.Canonical) : OutCanonical (execContrib n s) := by
  unfold execContrib
  split
  · exact h.next
  · rename_i he
    exact (h.takePkt he).takeContrib.next

theorem execRepeatNotice_canonical {n : Nat} (h : s.Canonical) : OutCanonical (execRepeatNotice n s) := by
  unfold execRepeatNotice
  split
  · exact h.next
  · rename_i he
    have ht := h.takePkt he
    split
    · rename_i he
      exact (ht.redTake he).next
    · exact .ite ht.closeStep.redAck.next (.ite ht.redBusy.next ht.redAck.next)

theorem execNormContribution_canonical {ch : Fin 64} (h : s.Canonical) : OutCanonical (execNormContribution ch s) :=
  .ite (h.setChan _ _).sendReq.next h.next

theorem State.Canonical.takeScalar {p : Pkt} (h : s.Canonical) : (s.takeScalar p).Canonical := by
  unfold State.takeScalar
  extract_lets
  split
  · rename_i he
    exact h.redTake he
  · extract_lets t1
    have h1 : t1.Canonical := .ite h.atDeadline h
    split
    · exact h1.redStale
    · exact h1.redBusy
    · exact h1.redOrder
    · refine State.Canonical.ite ?_ ?_
      · exact h1.redOrder
      · exact .ite h1.redStale (.ite h1.redAck (h1.markSeen.setChan _ _).settleNorm.redAck)

theorem execScalar_canonical {n : Nat} (h : s.Canonical) : OutCanonical (execScalar n s) := by
  unfold execScalar
  split
  · exact h.next
  · rename_i he
    exact (h.takePkt he).takeScalar.next

theorem execScalarResult_canonical {n : Nat} (h : s.Canonical) : OutCanonical (execScalarResult n s) := by
  unfold execScalarResult
  split
  · exact h.next
  · rename_i he
    have ht := h.takePkt he
    extract_lets
    split
    · rename_i he
      exact (ht.redTake he).next
    · extract_lets _ _ _ t1
      have h1 : t1.Canonical := ((ht.setRegN _ _).setRegN _ _).setFld _ _ _ _
      exact .ite h1.putChan.updated.redAck.next (.ite ht.redBusy.next ht.redAck.next)

theorem State.Canonical.sendDist {c bucket : Nat} {b : Bucket} {seg : Nat} (h : s.Canonical) : (s.sendDist c bucket b seg).Canonical := by
  unfold State.sendDist
  dsimp only
  split
  · rename_i he
    exact (State.Canonical.of_fst h.redRead he).redXlate
  · rename_i he
    exact (State.Canonical.of_fst h.redRead he).foldl (fun _ _ hu => hu.sendReq) _

theorem execDistSendStart_canonical {n : Nat} (h : s.Canonical) : OutCanonical (execDistSendStart n s) := by
  unfold execDistSendStart
  split
  · exact h.next
  · extract_lets _ _ fault
    split
    · exact h.next
    · unfold fault
      split
      · rename_i t he
        obtain ⟨y, -, hy⟩ := List.exists_of_findSome?_eq_some he
        dsimp only at hy
        split at hy
        · rename_i hr
          cases hy
          exact (State.Canonical.of_fst h.redRead hr).redXlate.next
        · cases hy
      · exact (h.updated.foldl (fun _ _ ht => ht.sendDist) _).next

theorem State.Canonical.takeDist {p : Pkt} (h : s.Canonical) : (s.takeDist p).Canonical := by
  unfold State.takeDist
  dsimp only
  split
  · rename_i he
    exact h.redTake he
  · split
    · exact h.redAck
    · split
      · exact (h.record _ _ _ _ _ _ _ _).nak
      · split
        · rename_i he
          exact (State.Canonical.of_fst h.redMapped he).redXlate.redBusy
        · rename_i he
          have ht := State.Canonical.of_fst h.redMapped he
          exact ((State.Canonical.ite (ht.redWrite.orReg _ _) ht.redWrite).setChan _ _).redAck

theorem execDist_canonical {n : Nat} (h : s.Canonical) : OutCanonical (execDist n s) := by
  unfold execDist
  split
  · exact h.next
  · rename_i he
    exact .ite h.next (h.takePkt he).takeDist.next

theorem execDistDone_canonical {n : Nat} (h : s.Canonical) : OutCanonical (execDistDone n s) := by
  unfold execDistDone
  split
  · exact h.next
  · rename_i he
    have ht := h.takePkt he
    dsimp only
    split
    · rename_i he
      exact (ht.redTake he).next
    · exact .ite ht.redAck.next (ht.setChan _ _).updated.next

theorem State.Canonical.sendDone {c bucket inst rank : Nat} (h : s.Canonical) : (s.sendDone c bucket inst rank).Canonical := h.sendReq

theorem State.Canonical.redAcked {r : Req} (h : s.Canonical) : (s.redAcked r).Canonical := by
  unfold State.redAcked
  dsimp only
  split
  · exact h.sentCheck
  · exact .ite (.ite (h.setChan _ _) (h.setChan _ _).sendDone) (h.setChan _ _)
  · exact h

theorem State.Canonical.redRefused {r : Req} (h : s.Canonical) : (s.redRefused r).Canonical :=
  .ite h.redFault.stopSend (.ite (h.setChan _ _) h)

theorem State.Canonical.redFailed {r : Req} (h : s.Canonical) : (s.redFailed r).Canonical :=
  .ite h.redFault.stopSend.endStep (.ite (.ite h (h.redFault.setChan _ _).updated) h)

theorem State.Canonical.stepSeqWrite {c v : Nat} (h : s.Canonical) : (s.stepSeqWrite c v).Canonical :=
  .ite (h.setRegN _ _) (.ite (h.setRegN _ _).stopSend.putChan.endStep (h.setRegN _ _).stopSend.putChan)

theorem State.Canonical.restoreChans {die cores : Nat} {saved : List (Nat × List Nat)} (h : s.Canonical) :
    (s.restoreChans die cores saved).Canonical :=
  (State.Canonical.ite h (h.setRegN _ _)).foldl (fun _ _ ht => (((ht.setRegN _ _).setRegN _ _).setRegN _ _).setRegN _ _) _

theorem execChannelStepSeq_canonical {ch : Fin 64} {path : Path} {v : BitVec 64} (h : s.Canonical) :
    OutCanonical (execChannelStepSeq ch path v s) := h.guardedOut (fun _ ht => ht.stepSeqWrite)

theorem State.Canonical.redCtrlWrite {c v : Nat} (h : s.Canonical) : (s.redCtrlWrite c v).Canonical := .ite h.endStep h

theorem execChannelAbort_canonical {ch : Fin 64} {path : Path} (h : s.Canonical) : OutCanonical (execChannelAbort ch path s) :=
  h.guardedOut (fun _ ht => ht.redCtrlWrite)

/-! ### The reset of a core -/

theorem State.Canonical.commitInFlight {c : Nat} {f : Xfer} (h : s.Canonical) : (s.commitInFlight c f).Canonical := by
  unfold State.commitInFlight
  dsimp only
  split
  · exact h
  · split
    · split
      · exact .ite h.mapAdd h.mapWrite
      · exact h
    · exact .ite h.writeFar h

theorem State.Canonical.dropWaits {c : Nat} (h : s.Canonical) : (s.dropWaits c).Canonical := h.updated

theorem State.Canonical.commitStore {c : Nat} {x : CtlStore} (h : s.Canonical) : (s.commitStore c x).Canonical := by
  unfold State.commitStore
  split
  · exact h
  · split
    · exact h
    · split
      · exact h.mapWrite
      · exact h

theorem State.Canonical.commitArm {a : Arm} (h : s.Canonical) : (s.commitArm a).Canonical := .ite h.pegScreen h.pegScreen.setPeg

theorem State.Canonical.settleFlight {c : Nat} (h : s.Canonical) : (s.settleFlight c).Canonical := by
  unfold State.settleFlight
  extract_lets _ _ t1
  have h1 : t1.Canonical := (h.foldl (fun _ _ ht => ht.commitInFlight) _).foldl (fun _ _ ht => ht.commitStore) _
  exact (h1.foldl (fun _ _ ht => ht.commitArm) _).updated

theorem State.Canonical.resetCore {c : Nat} (h : s.Canonical) : (s.resetCore c).Canonical :=
  ((h.settleFlight.dropWaits.resetRegs _ _ _).setCore _ _).zeroCredit

theorem State.Canonical.resetSpare {q : Nat} (h : s.Canonical) : (s.resetSpare q).Canonical := h.setCore _ _

theorem State.Canonical.freshPeriod {c : Nat} (h : s.Canonical) : (s.freshPeriod c).Canonical := h.setCore _ _

theorem State.Canonical.zeroCore {c : Nat} (h : s.Canonical) : (s.zeroCore c).Canonical := ((h.zeroMem _ _).zeroMem _ _).zeroMem _ _

/-! ### Rings between supervisor and controller -/

theorem State.Canonical.supFault {code d0 d1 d2 d3 : Nat} (h : s.Canonical) : (s.supFault code d0 d1 d2 d3).Canonical := h.record _ _ _ _ _ _ _ _

theorem State.Canonical.jobFault {j : Job} {code d0 d1 : Nat} (h : s.Canonical) : (s.jobFault j code d0 d1).Canonical := h.recordFor _ _ _ _ _ _ _ _ _

theorem State.Canonical.chkFail {k : Nat} (h : s.Canonical) : (s.chkFail k).Canonical := h.bump _ _ _

theorem State.Canonical.chkFault {k fold want found : Nat} (h : s.Canonical) : (s.chkFault k fold want found).Canonical := h.chkFail.supFault

theorem State.Canonical.setRing {r : Nat} {x : Ring} (h : s.Canonical) : (s.setRing r x).Canonical := h.updated

theorem State.Canonical.produce {r : Nat} {hd : Held} (h : s.Canonical) : (s.produce r hd).Canonical :=
  .ite ((h.wr _ _).wr _ _).setRing.updated ((h.wr _ _).wr _ _).setRing

theorem State.Canonical.complete1 {hd : Held} (h : s.Canonical) : (s.complete1 hd).Canonical := by
  unfold State.complete1
  dsimp only
  split
  · exact h.produce
  · split
    · exact h.updated
    · split
      · exact h.updated.bump _ _ _
      · exact .ite (h.bump _ _ _) h.updated

theorem State.Canonical.flush : ∀ (n : Nat) {s : State}, s.Canonical → (State.flush n s).Canonical
  | 0, _, h => h
  | n + 1, _, h => by
    unfold State.flush
    split
    · exact h
    · exact State.Canonical.ite (State.Canonical.flush n h.updated.produce) h

theorem State.Canonical.postJob {etype : Nat} {j : Job} {body : List Byte} (h : s.Canonical) : (s.postJob etype j body).Canonical := h.complete1

theorem State.Canonical.postNotice {code : Nat} {detail : List Byte} (h : s.Canonical) : (s.postNotice code detail).Canonical :=
  .ite h.produce (h.bump _ _ _)

theorem State.Canonical.postResult {e : Entry} {jk : Nat × Nat} {status code detail : Nat} (h : s.Canonical) :
    (s.postResult e jk status code detail).Canonical := h.complete1

theorem State.Canonical.drain : ∀ (n : Nat) {s : State}, s.Canonical → (State.drain n s).Canonical
  | 0, _, h => h
  | n + 1, _, h => by
    unfold State.drain
    split
    · exact h
    · split
      · exact h
      · exact State.Canonical.drain n h.updated.postResult

theorem State.Canonical.finishWork (h : s.Canonical) : s.finishWork.Canonical := by
  unfold State.finishWork
  dsimp only
  split
  · exact .ite (h.updated.postResult.drain _) h
  · exact h

theorem State.Canonical.refuseHead {code detail : Nat} (h : s.Canonical) : (s.refuseHead code detail).Canonical := h.updated.finishWork

theorem State.Canonical.sendEntry {space dst etype flags : Nat} {j : Job} {body : List Byte} (h : s.Canonical) :
    (s.sendEntry space dst etype flags j body).1.Canonical := h.updated.sendReq

theorem State.Canonical.relay {space etype flags : Nat} {j : Job} {body : List Byte} (h : s.Canonical) :
    (s.relay space etype flags j body).1.Canonical := by
  unfold State.relay
  refine State.Canonical.foldl_fst (fun _ _ hr => ?_) _ h
  exact hr.sendEntry

theorem State.Canonical.relayDone {r : Req} (h : s.Canonical) : (s.relayDone r).Canonical := by
  unfold State.relayDone
  dsimp only
  split
  · exact h.updated.finishWork
  · exact h

theorem State.Canonical.beginWork {e : Entry} {space : Nat} {j : Job} {done : Bool} (h : s.Canonical) : (s.beginWork e space j done).Canonical := by
  unfold State.beginWork
  extract_lets x1 t1
  have h1 : t1.Canonical := by
    unfold t1 x1
    split
    · exact h.relay
    · exact h
  exact h1.updated.finishWork

theorem State.Canonical.takeEntries {r : Nat} : ∀ (l : List (List Byte)) {s : State}, s.Canonical → (s.takeEntries r l).Canonical
  | [], _, h => h
  | bs :: rest, s, h => by
    unfold State.takeEntries
    extract_lets _ _ t1 _ t2 t3 _ _ t4
    have h1 : t1.Canonical := (h.chkFail.supFault.bump _ _ _).setRing
    have h2 : t2.Canonical := State.Canonical.ite h h.supFault
    have h3 : t3.Canonical := h2.setRing.wr _ _
    have h4 : t4.Canonical := State.Canonical.ite h3.updated (State.Canonical.ite h3.updated h3)
    split
    · exact h
    · split
      · exact State.Canonical.ite (h1.setFld _ _ _ _) h1
      · split
        · exact h
        · exact State.Canonical.takeEntries rest h4

theorem State.Canonical.pollRing {r prod : Nat} {entries : List (List Byte)} (h : s.Canonical) : (s.pollRing r prod entries).Canonical :=
  .ite (h.setRing.takeEntries _) h

theorem execJobPoll_canonical {prod0 : BitVec 64} {entries0 : List (List (BitVec 8))} {prod3 : BitVec 64} {entries3 : List (List (BitVec 8))}
    {cons1 cons2 : BitVec 64} (h : s.Canonical) :
    OutCanonical (execJobPoll prod0 entries0 prod3 entries3 cons1 cons2 s) := by
  unfold execJobPoll
  extract_lets _ _ _ t1
  have h1 : t1.Canonical := .ite (State.Canonical.ite h.updated.setRing h.updated).setRing (.ite h.updated.setRing h.updated)
  exact .ite ((h1.flush _).pollRing.drain _).pollRing.next h.next

theorem State.Canonical.ringCfgWrite {path : Path} {r v : Nat} (h : s.Canonical) : (s.ringCfgWrite path r v).Canonical := by
  unfold State.ringCfgWrite
  dsimp only
  split
  · exact .ite (h.unmapped _) (h.setFld _ _ _ _)
  · exact .ite (((h.plainWrite.setRing.setRegN _ _).setFld _ _ _ _).setFld _ _ _ _) h.plainWrite

theorem execRingEnable_canonical {r : Fin 4} {path : Path} {v : BitVec 32} (h : s.Canonical) : OutCanonical (execRingEnable r path v s) :=
  h.guardedOut (fun _ ht => ht.ringCfgWrite)

/-! ### LOAD -/

theorem State.Canonical.setRegs {ws : List (Nat × Nat)} (h : s.Canonical) : (s.setRegs ws).Canonical := h.foldl (fun _ _ ht => ht.setRegN _ _) _

theorem State.Canonical.placeUpdate {u : UpdDef} {die : Nat} (h : s.Canonical) : (s.placeUpdate u die).1.Canonical := by
  unfold State.placeUpdate
  extract_lets _ t1
  have h1 : t1.Canonical := h.setRegs.setFld _ _ _ _
  refine State.Canonical.foldl_fst (fun _ _ ht => ?_) _ h1.setRegs
  dsimp only
  split
  · exact ht
  · split
    · exact (ht.setRegN _ _).setRegs.setRegN _ _
    · exact ht

theorem State.Canonical.placeImage {c : Nat} {i : Image} (h : s.Canonical) : (s.placeImage c i).Canonical :=
  ((h.wr _ _).setRegN _ _).setRegs.setRegs.zeroCredit.foldl (fun _ _ ht => ht.setEng _ _ _) _

theorem State.Canonical.placeCores {j : Job} (h : s.Canonical) : (s.placeCores j).Canonical :=
  h.foldl (fun _ _ ht => ht.resetCore.zeroCore.placeImage) _

theorem State.Canonical.placePegs {j : Job} (h : s.Canonical) : (s.placePegs j).Canonical :=
  h.foldl (fun _ _ ht => ht.foldl (fun _ _ hu => hu.setPeg) _) _

theorem State.Canonical.placeTables {d : LoadData} (h : s.Canonical) : (s.placeTables d).Canonical :=
  (h.foldl (fun _ _ ht => ht.putPte) _).foldl (fun _ _ ht => (ht.foldl (fun _ _ hu => hu.putPte) _).putPte) _

theorem State.Canonical.placePage {d : LoadData} {key : Nat} {i : InitItem} {k frame : Nat} (h : s.Canonical) :
    (s.placePage d key i k frame).Canonical := by
  unfold State.placePage
  extract_lets _ _ _ t1
  have h1 : t1.Canonical := by
    unfold t1
    split
    · exact h.putPte
    · split
      · exact h.putPte
      · exact h
  split
  · exact (h1.zeroMem _ _).updated
  · exact (h1.zeroMem _ _).updated.wr _ _

theorem State.Canonical.placePages {d : LoadData} {key : Nat} (h : s.Canonical) : (s.placePages d key).Canonical :=
  h.foldl (fun _ _ ht => ht.foldl (fun _ _ hu => hu.placePage) _) _

theorem State.Canonical.placeChans {d : LoadData} (h : s.Canonical) : (s.placeChans d).Canonical := by
  unfold State.placeChans
  extract_lets t1
  have h1 : t1.Canonical := h.foldl (fun _ _ ht => (ht.setChan _ _).setRegs.supWrite) _
  exact .ite h1 h1.setRegs.setFallBack.setFallBack

theorem State.Canonical.placeItems {d : LoadData} (h : s.Canonical) : (s.placeItems d).Canonical :=
  h.foldl (fun _ _ ht => ht.foldl (fun _ _ hu => hu.supWrite) _) _

theorem State.Canonical.placeJob {d : LoadData} (h : s.Canonical) : (s.placeJob d).Canonical := by
  unfold State.placeJob
  extract_lets _ _ _ t1 _ t2 _ t3
  have h1 : t1.Canonical := (h.foldl (fun _ _ ht => ht.setKey) _).foldl (fun _ _ ht => ht.setKey.setKey) _
  have h2 : t2.Canonical := h1.updated.foldl (fun _ _ ht => ht.zeroMem _ _) _
  have h3 : t3.Canonical := h2.placeCores.placePegs.foldl (fun _ _ ht => ht.setFld _ _ _ _) _
  exact (h3.setRegN _ _).placeTables.placePages.placeChans.placeItems.refreshPath

theorem State.Canonical.placeRules {d : LoadData} (h : s.Canonical) : (s.placeRules d).1.Canonical := by
  unfold State.placeRules
  split
  · exact h
  · generalize [1, 2, 3, 4] = dies
    refine State.Canonical.foldl_fst (fun _ _ hr => ?_) dies h
    exact hr.placeUpdate

theorem State.Canonical.tryLoad {d : LoadData} {len : Nat} {t : State} (h : s.Canonical) (he : s.tryLoad d len = .ok t) : t.Canonical := by
  unfold State.tryLoad at he
  dsimp only at he
  repeat' split at he
  all_goals cases he
  exact h.placeRules.placeJob

theorem execLoad_canonical {d : LoadData} (h : s.Canonical) : OutCanonical (execLoad d s) := by
  unfold execLoad
  split
  · exact h.next
  · split
    · exact h.refuseHead.next
    · split
      · extract_lets t1
        have h1 : t1.Canonical := by
          unfold t1
          split
          · exact h.chkFail
          · exact h
        exact h1.supFault.refuseHead.next
      · rename_i he
        exact (h.tryLoad he).updated.finishWork.next

/-! ### Running jobs -/

theorem State.Canonical.eachCore {j : Job} {f : State → Nat → State} (h : s.Canonical) (hf : ∀ t a, t.Canonical → (f t a).Canonical) :
    (s.eachCore j f).Canonical := h.foldl (fun _ _ ht => hf _ _ ht) _

theorem State.Canonical.runJob {j : Job} (h : s.Canonical) : (s.runJob j).Canonical := h.foldl (fun _ _ ht => ht.eachEng (fun _ _ hu => hu.runEng)) _

theorem State.Canonical.resumeJob {j : Job} (h : s.Canonical) : (s.resumeJob j).Canonical :=
  h.eachCore (fun _ _ ht => ht.eachEng (fun _ _ hu => .ite hu.runEng hu))

theorem State.Canonical.stopJob {j : Job} (h : s.Canonical) : (s.stopJob j).Canonical :=
  h.eachCore (fun _ _ ht => ht.eachEng (fun _ _ hu => hu.stopEng))

theorem State.Canonical.abortStreams {j : Job} {cause : Nat} (h : s.Canonical) : (s.abortStreams j cause).Canonical :=
  h.eachCore (fun _ _ ht => ht.foldl (fun _ _ hu => .ite hu.abortStream hu) _)

theorem State.Canonical.endJobStep {space : Nat} {j : Job} {tell : Bool} (h : s.Canonical) : (s.endJobStep space j tell).Canonical :=
  (h.foldl (fun _ _ ht => ht.endStep) _).stepEnded

theorem State.Canonical.recoveryNotice {code : Nat} {unit : W32} {d0 d1 d2 d3 : Nat} (h : s.Canonical) :
    (s.recoveryNotice code unit d0 d1 d2 d3).Canonical := h.record _ _ _ _ _ _ _ _

theorem State.Canonical.windowDone {w : Recov} (h : s.Canonical) : (s.windowDone w).Canonical := h.updated.recoveryNotice

theorem State.Canonical.leaveWindows {id : Nat} (h : s.Canonical) : (s.leaveWindows id).Canonical := h.updated.foldl (fun _ _ ht => ht.windowDone) _

theorem State.Canonical.headFor {etype : Nat} {ok : JobSt → Bool} {t : State} (h : s.Canonical) (he : s.headFor etype ok = some (.error t)) :
    t.Canonical := by
  obtain ⟨e, -, hx⟩ := Option.map_eq_some_iff.mp he
  split at hx
  · split at hx
    · cases hx
    · cases hx
      exact h.supFault.refuseHead
  · cases hx
    exact h.supFault.refuseHead

theorem State.Canonical.openStep {space : Nat} {j : Job} {again : Bool} (h : s.Canonical) : (s.openStep space j again).Canonical := h.relay.updated

theorem execStart_canonical (h : s.Canonical) : OutCanonical (execStart s) := by
  unfold execStart
  split
  · exact h.next
  · rename_i he
    exact (h.headFor he).next
  · extract_lets _ _ t1
    have h1 : t1.Canonical := h.mapJob.eachCore (fun _ _ ht => ht.tallyClear.queueClear.zeroCredit)
    exact (State.Canonical.ite h1.runJob.openStep h1.runJob).beginWork.next

theorem State.Canonical.pauseNow {space : Nat} {j : Job} (h : s.Canonical) : (s.pauseNow space j).Canonical := h.stopJob.mapJob

theorem execPause_canonical (h : s.Canonical) : OutCanonical (execPause s) := by
  unfold execPause
  split
  · exact h.next
  · rename_i he
    exact (h.headFor he).next
  · extract_lets _ t1
    have h1 : t1.Canonical := .ite (State.Canonical.ite h.stopJob.endJobStep h.stopJob).mapJob (.ite h.mapJob h.pauseNow)
    exact h1.beginWork.next

theorem execResume_canonical (h : s.Canonical) : OutCanonical (execResume s) := by
  unfold execResume
  split
  · exact h.next
  · rename_i he
    exact (h.headFor he).next
  · extract_lets t1
    have h1 : t1.Canonical := h.mapJob.resumeJob
    exact (State.Canonical.ite h1.openStep h1).beginWork.next

theorem State.Canonical.startTeardown {space : Nat} {j : Job} {reason : Nat} {entry : Bool} (h : s.Canonical) :
    (s.startTeardown space j reason entry).Canonical := by
  unfold State.startTeardown
  extract_lets _ t1
  have h1 : t1.Canonical := h.stopJob.abortStreams.foldl (fun _ _ ht => ht.endStep.stopSend) _
  exact .ite h (h1.foldl (fun _ _ ht => ht.sweepCluster) _).mapJob.leaveWindows

theorem execTeardown_canonical (h : s.Canonical) : OutCanonical (execTeardown s) := by
  unfold execTeardown
  split
  · exact h.next
  · rename_i he
    exact (h.headFor he).next
  · exact h.startTeardown.beginWork.next

theorem State.Canonical.finishTeardown {space : Nat} {j : Job} {x : Teardown} (h : s.Canonical) : (s.finishTeardown space j x).Canonical := by
  unfold State.finishTeardown
  extract_lets _ t1 _ t2 _ _ _ t3 _ t4 _ t5
  have h1 : t1.Canonical := (h.foldl (fun _ _ ht => ht.finishRuns) _).eachCore (fun _ _ ht => ht.resetCore.zeroCore.freshPeriod)
  have h2 : t2.Canonical := (h1.foldl (fun _ _ ht => ht.zeroMem _ _) _).foldl (fun _ _ ht => .ite ht ht.postJob) _
  have h3 : t3.Canonical := .ite h2.postJob.updated h2.postJob
  have h4 : t4.Canonical := h3.finishWork.foldl (fun _ _ ht => ht.setKey) _
  have h5 : t5.Canonical := ((h4.foldl (fun _ _ ht => ht.setKey.setKey.setKey) _).setFld _ _ _ _).dropCached.dropTags
  exact (h5.foldl (fun _ _ ht => (ht.setRegN _ _).putChan) _).updated

theorem execTeardownFinish_canonical {space : Fin 16} (h : s.Canonical) : OutCanonical (execTeardownFinish space s) := by
  unfold execTeardownFinish
  split
  · exact h.next
  · split
    · exact h.next
    · exact .ite h.finishTeardown.next h.next

theorem State.Canonical.exportRange {space key : Nat} : ∀ (n va bus : Nat) {s t : State}, s.Canonical →
    s.exportRange space key va bus n = some t → t.Canonical
  | 0, _, _, _, _, h, he => by
    cases he
    exact h
  | n + 1, va, bus, _, _, h, he => by
    unfold State.exportRange at he
    split at he
    · cases he
    · rename_i hr
      exact State.Canonical.exportRange n _ _ ((State.Canonical.of_fst h.redRead hr).wr _ _) he

theorem execExport_canonical (h : s.Canonical) : OutCanonical (execExport s) := by
  unfold execExport
  dsimp only
  split
  · exact h.next
  · rename_i he
    exact (h.headFor he).next
  · split
    · rename_i he
      exact (State.Canonical.exportRange _ _ _ h he).beginWork.next
    · exact h.updated.finishWork.next

theorem State.Canonical.passAll {space : Nat} {j : Job} {x : ServDef} {body : List Byte} (h : s.Canonical) :
    (s.passAll space j x body).Canonical := h.foldl (fun _ _ ht => ht.sendEntry) _

theorem State.Canonical.spaceWrite {space va : Nat} {bs : List Byte} (h : s.Canonical) : (s.spaceWrite space va bs).Canonical :=
  h.foldl (fun _ _ ht => .ite ht ht.redWrite) _

theorem execRequest_canonical {space : Fin 16} {input : List (BitVec 8)} (h : s.Canonical) : OutCanonical (execRequest space input s) := by
  unfold execRequest
  dsimp only
  split
  · exact h.next
  · split
    · exact h.updated.supFault.next
    · split
      · exact h.next
      · split
        · exact h.updated.supFault.next
        · split
          · exact h.updated.supFault.next
          · split
            · exact h.next
            · exact h.updated.spaceWrite.mapJob.passAll.next

theorem State.Canonical.dropFab {space : Nat} {bs : List Byte} (h : s.Canonical) : (s.dropFab space bs).Canonical := h.updated

theorem execReqPass_canonical (h : s.Canonical) : OutCanonical (execReqPass s) := by
  unfold execReqPass
  split
  · exact h.next
  · exact h.dropFab.mapJob.next

theorem execRequestExpire_canonical {space : Fin 16} {slot : Nat} (h : s.Canonical) : OutCanonical (execRequestExpire space slot s) := by
  unfold execRequestExpire
  split
  · exact h.next
  · split
    · exact .ite h.next (State.Canonical.ite h.postJob.mapJob h.postJob.mapJob.passAll).next
    · exact h.next

theorem State.Canonical.applyOpen {space : Nat} {j : Job} {b : List Byte} (h : s.Canonical) : (s.applyOpen space j b).Canonical := by
  unfold State.applyOpen
  extract_lets _ _ _ _ t1 _ t2
  have h1 : t1.Canonical := h.foldl (fun _ _ ht => ht.setKey) _
  have h2 : t2.Canonical := h1.mapJob.dropTags.foldl (fun _ _ ht => ht.setCellar) _
  exact (h2.foldl (fun _ _ ht => (ht.setRegN _ _).stepSeqWrite) _).foldl (fun _ _ ht => (ht.wr _ _).freshPeriod.supFill) _

theorem execStepOpen_canonical (h : s.Canonical) : OutCanonical (execStepOpen s) := by
  unfold execStepOpen
  split
  · exact h.next
  · exact (State.Canonical.ite h.dropFab h.dropFab.applyOpen).next

theorem execUpdateCommand_canonical {cellar : Fin 4} {bytes : List (BitVec 8)} (h : s.Canonical) :
    OutCanonical (execUpdateCommand cellar bytes s) := by
  unfold execUpdateCommand
  dsimp only
  split
  · exact h.next
  · split
    · exact h.updateCommand.next
    · exact .ite h.updateCommand.next (.ite h.next h.updateCommand.next)

theorem State.Canonical.stepRecord {j : Job} {status : Nat} (h : s.Canonical) : (s.stepRecord j status).Canonical :=
  h.postJob.foldl (fun _ _ ht => ht.postJob) _

theorem State.Canonical.closeJobStep {space : Nat} {j : Job} (h : s.Canonical) : (s.closeJobStep space j).Canonical := by
  unfold State.closeJobStep
  refine State.Canonical.ite ?_ ?_
  · exact h.stepRecord.updated.mapJob
  · exact .ite h.stepRecord.updated.mapJob.postJob.mapJob (.ite h.stepRecord.updated.mapJob.pauseNow
        (.ite h.stepRecord.updated.mapJob.openStep h.stepRecord.updated.mapJob))

theorem execStepClose_canonical {space : Fin 16} (h : s.Canonical) : OutCanonical (execStepClose space s) := by
  unfold execStepClose
  split
  · exact h.next
  · exact .ite h.closeJobStep.next h.next

theorem execJobStepLate_canonical {space : Fin 16} (h : s.Canonical) : OutCanonical (execJobStepLate space s) := by
  unfold execJobStepLate
  split
  · exact h.next
  · exact .ite h.jobFault.mapJob.endJobStep.next h.next

theorem execJobRootLost_canonical {space : Fin 16} (h : s.Canonical) : OutCanonical (execJobRootLost space s) := by
  unfold execJobRootLost
  split
  · exact h.next
  · exact .ite (State.Canonical.ite h.jobFault.endJobStep h.jobFault).startTeardown.next h.next

theorem execMailboxArrival_canonical {space : Fin 16} (h : s.Canonical) : OutCanonical (execMailboxArrival space s) := by
  unfold execMailboxArrival
  split
  · exact h.next
  · dsimp only
    split
    · exact h.pegScreen.next
    · split
      · rename_i he
        exact (State.Canonical.of_fst h.pegScreen.redRead he).next
      · rename_i he
        have ht := State.Canonical.of_fst h.pegScreen.redRead he
        exact (State.Canonical.ite ht.setPeg (State.Canonical.ite ht.setPeg ht.setPeg.chkFail).jobFault).mapJob.next

theorem State.Canonical.dropMail {space : Nat} (h : s.Canonical) : (s.dropMail space).Canonical := h.mapJob

theorem State.Canonical.giveBubble {space : Nat} {j : Job} {b : Nat} (h : s.Canonical) : (s.giveBubble space j b).Canonical :=
  (h.foldl (fun _ _ ht => (ht.wr _ _).supFill) _).mapJob

theorem execBubbleAt_canonical {space : Fin 16} (h : s.Canonical) : OutCanonical (execBubbleAt space s) := by
  unfold execBubbleAt
  split
  · exact h.next
  · split
    · exact h.next
    · extract_lets _ t1
      have h1 : t1.Canonical := h.dropMail.mapJob
      exact .ite h1.giveBubble.next h1.next

theorem execReqOut_canonical {space : Fin 16} (h : s.Canonical) : OutCanonical (execReqOut space s) := by
  unfold execReqOut
  dsimp only
  split
  · exact h.next
  · split
    · split
      · exact h.dropMail.next
      · split
        · exact h.dropMail.next
        · exact .ite h.dropMail.mapJob.next (h.dropMail.mapJob.wr _ _).postJob.next
    · exact h.dropMail.next
    · exact h.next

theorem execPlace_canonical {space : Fin 16} {frames : List (Fin 4 × BitVec 24)} (h : s.Canonical) : OutCanonical (execPlace space frames s) := by
  unfold execPlace
  extract_lets
  split
  · exact h.next
  · split
    · exact h.next
    · extract_lets _ _ _ _ _ t1
      have h1 : t1.Canonical := h.dropMail.foldl (fun _ _ ht => ht.askMove) _
      exact .ite h.next (State.Canonical.ite h1 h1.supFill).beginMoves.next

theorem execMailboxNote_canonical {space : Fin 16} (h : s.Canonical) : OutCanonical (execMailboxNote space s) := by
  unfold execMailboxNote
  split
  · exact h.next
  · split
    · exact h.next
    · exact h.dropMail.postJob.next

theorem State.Canonical.queueEntry {space seq : Nat} {bs : List Byte} (h : s.Canonical) : (s.queueEntry space seq bs).Canonical :=
  .ite h.updated (.ite h.updated h.updated)

theorem State.Canonical.takeCtrlEntry {p : Pkt} (h : s.Canonical) : (s.takeCtrlEntry p).Canonical := by
  unfold State.takeCtrlEntry
  dsimp only
  split
  · exact (h.attempt _ _ _ _).nak
  · split
    · exact h.ackPkt
    · split
      · exact h.chkFault.nak
      · split
        · exact (h.attempt _ _ _ _).nak
        · exact .ite h.nak (.ite h.updated.supFault.ackPkt h.updated.queueEntry.ackPkt)

/-! ### Pulls of firmware -/

theorem State.Canonical.onBu {f : Bu → Bu} (h : s.Canonical) : (s.onBu f).Canonical := h.updated

theorem State.Canonical.onFw {f : Fw → Fw} (h : s.Canonical) : (s.onFw f).Canonical := h.onBu

theorem State.Canonical.pull {first count : Nat} (h : s.Canonical) : (s.pull first count).Canonical := h.onFw.sendReq

theorem State.Canonical.pullNext (h : s.Canonical) : s.pullNext.Canonical := .ite h (.ite h.pull h.pull)

theorem State.Canonical.nextParent (h : s.Canonical) : s.nextParent.Canonical := by
  unfold State.nextParent
  dsimp only
  split
  · exact h
  · exact (h.setFld _ _ _ _).onFw.foldl (fun _ _ ht => ht.pull) _

theorem State.Canonical.chunkFail {index : Nat} (h : s.Canonical) : (s.chunkFail index).1.Canonical := (h.chkFail.note _ _ _ _ _).onFw

theorem State.Canonical.retryChunk {k : Nat} (h : s.Canonical) : (s.retryChunk k).Canonical :=
  .ite h.chunkFail.nextParent h.chunkFail.onFw.pull

theorem State.Canonical.pullFailed {tag : Nat} (h : s.Canonical) : (s.pullFailed tag).Canonical :=
  .ite h (h.foldl (fun _ _ ht => .ite ht.retryChunk ht) _)

/-! ### Answers at the requester -/

theorem State.Canonical.answered {r : Req} {data : List Byte} (h : s.Canonical) : (s.answered r data).Canonical :=
  .ite h.dropReq.memAnswered (.ite h.dropReq.relayDone h.dropReq.redAcked)

theorem State.Canonical.refusedReq {r : Req} {cause : Nat} (h : s.Canonical) : (s.refusedReq r cause).Canonical :=
  .ite h.dropReq.memRefused (.ite h.dropReq.relayDone h.dropReq.redRefused)

theorem State.Canonical.failedReq {r : Req} (h : s.Canonical) : (s.failedReq r).Canonical := by
  unfold State.failedReq
  extract_lets _ t1
  have h1 : t1.Canonical := h.dropReq.record _ _ _ _ _ _ _ _
  split
  · exact h1.memFailed
  · exact .ite (.ite h1.pullFailed h1.relayDone) h1.redFailed

theorem State.Canonical.mapReq {r : Req} {f : Req → Req} (h : s.Canonical) : (s.mapReq r f).Canonical := h.updated

theorem State.Canonical.resend {r : Req} (h : s.Canonical) : (s.resend r).Canonical := h.mapReq.emit

theorem State.Canonical.response {typ n : Nat} {p : Pkt} {t : State} {r : Option Req} (h : s.Canonical) (he : s.response typ n = some (p, t, r)) :
    t.Canonical := by
  obtain ⟨x, hx, hr⟩ := Option.map_eq_some_iff.mp he
  have hx := h.takePkt hx
  split at hr
  · rename_i hc
    cases hr
    exact hx.checked hc
  · cases hr
    exact hx

theorem execReadData_canonical {n : Nat} (h : s.Canonical) : OutCanonical (execReadData n s) := by
  unfold execReadData
  split
  · rename_i he
    have ht := h.response he
    exact .ite ht.answered.next ht.next
  · rename_i he
    exact (h.response he).next
  · exact h.next

theorem execAck_canonical {n : Nat} (h : s.Canonical) : OutCanonical (execAck n s) := by
  unfold execAck
  split
  · rename_i he
    have ht := h.response he
    exact .ite ht.next ht.answered.next
  · rename_i he
    exact (h.response he).next
  · exact h.next

theorem execNak_canonical {n : Nat} (h : s.Canonical) : OutCanonical (execNak n s) := by
  unfold execNak
  split
  · rename_i he
    have ht := h.response he
    split
    · exact ht.mapReq.next
    · exact ht.mark.resend.next
    · exact ht.resend.next
    · exact ht.refusedReq.next
    · exact ht.next
  · rename_i he
    exact (h.response he).next
  · exact h.next

theorem execE2eTimeout_canonical {n : Nat} (h : s.Canonical) : OutCanonical (execE2eTimeout n s) := by
  unfold execE2eTimeout
  split
  · exact h.next
  · exact .ite h.resend.next h.next

theorem execBackoffExpire_canonical {n : Nat} (h : s.Canonical) : OutCanonical (execBackoffExpire n s) := by
  unfold execBackoffExpire
  split
  · exact h.next
  · exact .ite h.resend.next h.next

theorem execE2eLimit_canonical {n : Nat} (h : s.Canonical) : OutCanonical (execE2eLimit n s) := by
  unfold execE2eLimit
  split
  · exact h.next
  · exact .ite h.failedReq.next h.next

/-! ### Core clock islands and measurement registers -/

theorem State.Canonical.setMr {i : Nat} {bs : List Byte} (h : s.Canonical) : (s.setMr i bs).Canonical := h.foldl (fun _ _ ht => ht.setRegN _ _) _

theorem State.Canonical.extendMr {i : Nat} {x : List Byte} (h : s.Canonical) : (s.extendMr i x).Canonical := h.setMr

theorem State.Canonical.setFreq {c step : Nat} (h : s.Canonical) : (s.setFreq c step).Canonical :=
  .ite (h.setCore _ _) (.ite (((h.setFld _ _ _ _).setFld _ _ _ _).setCore _ _) (h.setFld _ _ _ _))

theorem State.Canonical.freqWrite {path : Path} {c v : Nat} (h : s.Canonical) : (s.freqWrite path c v).Canonical :=
  .ite (h.unmapped _) (.ite (.ite h (h.attempt _ _ _ _)) (State.Canonical.ite h.extendMr h).setFreq)

theorem execCoreFreqChange_canonical {c : Fin 64} {path : Path} {v : BitVec 32} (h : s.Canonical) :
    OutCanonical (execCoreFreqChange c path v s) := h.guardedOut (fun _ ht => ht.freqWrite)

theorem State.Canonical.relocked {c : Nat} (h : s.Canonical) : (s.relocked c).Canonical := by
  unfold State.relocked
  extract_lets _ _ t1
  have h1 : t1.Canonical := ((h.setFld _ _ _ _).setFld _ _ _ _).setCore _ _
  split
  · split
    · exact h1.setFreq
    · exact h1
  · exact h

theorem execCoreFreqRelockDone_canonical {c : Fin 64} (h : s.Canonical) : OutCanonical (execCoreFreqRelockDone c s) := h.relocked.next

/-! ### Bring-up -/

theorem State.Canonical.buFail {detail fault : Nat} {unit : W32} {d0 d1 : Nat} (h : s.Canonical) : (s.buFail detail fault unit d0 d1).Canonical :=
  h.onBu

theorem State.Canonical.buEnd {outcome detail fault : Nat} {unit : W32} {d0 d1 : Nat} (h : s.Canonical) :
    (s.buEnd outcome detail fault unit d0 d1).Canonical := (h.logEntry _).onBu

theorem State.Canonical.buGo {step : Nat} (h : s.Canonical) : (s.buGo step).Canonical :=
  .ite (h.note _ _ _ _ _) (.ite h.onBu.buEnd h.onBu)

theorem State.Canonical.buStep {path : Path} {step : Nat} {act : State → State}
    (h : s.Canonical) (hact : ∀ t, t.Canonical → (act t).Canonical) :
    OutCanonical (s.buStep path step act) := by
  unfold State.buStep
  extract_lets run t
  have hrun : ∀ u, u.Canonical → (run u).Canonical := fun u hu => State.Canonical.ite (hact _ hu.onBu) hu
  have ht : t.Canonical := h.accessed path
  split
  · exact (hrun _ h).next
  · split
    · rename_i he
      exact (ht.guard he).next
    · exact State.Canonical.next (State.Canonical.ite ht.buGo (hrun _ ht.buGo))

theorem State.Canonical.checkPower {rail : Option Nat} {pll : Option (Nat × Nat)} (h : s.Canonical) : (s.checkPower rail pll).Canonical := by
  unfold State.checkPower
  dsimp only
  split
  · exact h.buFail
  · split
    · exact h.buFail
    · split
      · exact h.buFail
      · split
        · exact h.buFail
        · split
          · exact h.buFail
          · exact h

theorem execPowerAndClocks_canonical {path : Path} {rail : Option (BitVec 32)} {pll : Option (Fin 7 × BitVec 32)} (h : s.Canonical) :
    OutCanonical (execPowerAndClocks path rail pll s) := h.buStep (fun _ ht => ht.checkPower)

theorem State.Canonical.showArrays (h : s.Canonical) : s.showArrays.Canonical := h.foldl (fun _ _ ht => ht.setRegN _ _) _

theorem State.Canonical.readFuses {d : Defects} (h : s.Canonical) : (s.readFuses d).Canonical :=
  ((h.onBu.foldl (fun _ _ ht => ht.setRegN _ _) _).setFld _ _ _ _).showArrays

theorem execFuseRead_canonical {path : Path} {bad : Option (BitVec 32)} {d : Defects} (h : s.Canonical) :
    OutCanonical (execFuseRead path bad d s) := by
  unfold execFuseRead
  refine h.buStep fun _ ht => ?_
  split
  · exact ht.buFail
  · exact ht.readFuses

theorem State.Canonical.noteDefects {d : Defects} {tests : List (BitVec 31)} (h : s.Canonical) : (s.noteDefects d tests).Canonical := by
  unfold State.noteDefects
  extract_lets _ t1 _ t2
  have h1 : t1.Canonical := h.foldl (fun _ _ ht => ht.note _ _ _ _ _) _
  have h2 : t2.Canonical := (h1.foldl (fun _ _ ht => ht.note _ _ _ _ _) _).foldl (fun _ _ ht => ht.note _ _ _ _ _) _
  exact (h2.foldl (fun _ _ ht => ht.note _ _ _ _ _) _).foldl (fun _ _ ht => ht.note _ _ _ _ _) _

theorem State.Canonical.takeTest {d : Defects} {tests : List (BitVec 31)} (h : s.Canonical) : (s.takeTest d tests).Canonical := by
  unfold State.takeTest
  extract_lets _ _ _ _ t1
  have h1 : t1.Canonical := (((h.onBu.foldl (fun _ _ ht => ht.setRegN _ _) _).setFld _ _ _ _).setFld _ _ _ _).setFld _ _ _ _
  exact (h1.foldl (fun _ _ ht => ht.setRegN _ _) _).showArrays.noteDefects

theorem execSelfTest_canonical {path : Path} {d : Defects} {tests : List (BitVec 31)} (h : s.Canonical) :
    OutCanonical (execSelfTest path d tests s) := h.buStep (fun _ ht => ht.takeTest)

theorem State.Canonical.formYield (h : s.Canonical) : s.formYield.Canonical := by
  unfold State.formYield
  extract_lets t1
  have h1 : t1.Canonical := h.foldl (fun _ _ ht => ht.setRegN _ _) _
  split
  · exact h1.buFail
  · exact h1

theorem execYieldMap_canonical {path : Path} (h : s.Canonical) : OutCanonical (execYieldMap path s) := h.buStep (fun _ ht => ht.formYield)

theorem State.Canonical.checkSpares (h : s.Canonical) : s.checkSpares.Canonical := by
  unfold State.checkSpares
  split
  · exact h.buFail
  · split
    · exact h.buFail
    · split
      · exact h.buFail
      · exact h

theorem execSpares_canonical {path : Path} (h : s.Canonical) : OutCanonical (execSpares path s) := h.buStep (fun _ ht => ht.checkSpares)

theorem State.Canonical.regsSetAll {l : List (Nat × W64)} {spares : Tab (Tab W64)} (h : s.Canonical) :
    ({ s with regs := Tab.setAll regReset s.regs l, spares := spares } : State).Canonical := ⟨h.1, wf_setAll _ _ _ h.2⟩

theorem State.Canonical.swapBlock {c : Nat} (h : s.Canonical) : (s.swapBlock c).Canonical := by
  unfold State.swapBlock
  exact (((((h.resetRegs _ _ _).setCore _ _).setCore _ _).swapMem _ _ _).swapMem _ _ _).regsSetAll

theorem State.Canonical.repoint {q v : Nat} (h : s.Canonical) : (s.repoint q v).Canonical := by
  unfold State.repoint
  extract_lets _ t1
  have h1 : t1.Canonical := .ite h.swapBlock h
  exact .ite h ((State.Canonical.ite h1.swapBlock h1).setFld _ _ _ _)

theorem State.Canonical.spareWrite {path : Path} {v : Nat} (h : s.Canonical) : (s.spareWrite path v).Canonical := by
  unfold State.spareWrite
  dsimp only
  split
  · exact .ite h (h.attempt _ _ _ _)
  · split
    · exact h.onBu
    · exact h.foldl (fun _ _ ht => ht.repoint) _

theorem execSpareRepoint_canonical {path : Path} {v : BitVec 32} (h : s.Canonical) : OutCanonical (execSpareRepoint path v s) :=
  h.guardedOut (fun _ ht => ht.spareWrite)

theorem State.Canonical.startIslands (h : s.Canonical) : s.startIslands.Canonical := h.foldl (fun _ _ ht => (ht.setFld _ _ _ _).setCore _ _) _

theorem execIslandClocks_canonical {path : Path} {bad : Option (Fin 7 × BitVec 32 × BitVec 32)} (h : s.Canonical) :
    OutCanonical (execIslandClocks path bad s) := by
  unfold execIslandClocks
  refine h.buStep fun _ ht => ?_
  split
  · exact ht.buFail
  · exact ht.startIslands

theorem execDieToDieLinks_canonical {path : Path} {narrow : List (Fin 7 × BitVec 32)} {bad : Option (Fin 7 × BitVec 32)} (h : s.Canonical) :
    OutCanonical (execDieToDieLinks path narrow bad s) := by
  unfold execDieToDieLinks
  refine h.buStep fun _ ht => ?_
  extract_lets t1
  have h1 : t1.Canonical := ht.foldl (fun _ _ hu => hu.note _ _ _ _ _) _
  split
  · exact h1.buFail
  · exact h1

theorem State.Canonical.memKeep {p : Nat → Bool} {sealed : Tab (Option Seal)} (h : s.Canonical) :
    ({ s with mem := Tab.keep p s.mem, sealed := sealed } : State).Canonical := ⟨wf_keep _ _ _ h.1, h.2⟩

theorem State.Canonical.startTier1 {bad : Option (Nat × Nat × Nat)} (h : s.Canonical) : (s.startTier1 bad).Canonical := by
  unfold State.startTier1
  extract_lets t1
  have h1 : t1.Canonical := h.foldl (fun _ _ ht => ht.setKey.tickFree.foldl (fun _ _ hu => hu.setFld _ _ _ _) _) _
  split
  · exact h1.buFail
  · exact h1.memKeep

theorem execTier1_canonical {path : Path} {bad : Option (Fin 4 × Fin 16 × Fin 5)} (h : s.Canonical) : OutCanonical (execTier1 path bad s) :=
  h.buStep (fun _ ht => ht.startTier1)

theorem State.Canonical.startTier2 {spd : List (List Spd)} {bad : Option (Nat × Nat × Nat)}
    (h : s.Canonical) : (s.startTier2 spd bad).Canonical := by
  unfold State.startTier2
  extract_lets _ _ _ t1 t2
  have h1 : t1.Canonical := h.foldl (fun _ _ ht => ht.setFld _ _ _ _) _
  have h2 : t2.Canonical := h1.foldl (fun _ _ ht => (ht.setFld _ _ _ _).foldl (fun _ _ hu => hu.setFld _ _ _ _) _) _
  split
  · exact h1.buFail
  · split
    · exact h1.buFail
    · split
      · exact h2.buFail
      · exact h2

theorem execTier2_canonical {path : Path} {spd : List (List Spd)} {bad : Option (Fin 4 × Fin 4 × Fin 5)} (h : s.Canonical) :
    OutCanonical (execTier2 path spd bad s) := h.buStep (fun _ ht => ht.startTier2)

theorem State.Canonical.startFabric (h : s.Canonical) : s.startFabric.Canonical := by
  unfold State.startFabric
  dsimp only
  split
  · exact h.buFail
  · exact .ite h.buFail (h.foldl (fun _ _ ht => .ite ht.trainPort ht) _)

theorem execFabric_canonical {path : Path} (h : s.Canonical) : OutCanonical (execFabric path s) := h.buStep (fun _ ht => ht.startFabric)

theorem State.Canonical.startTime (h : s.Canonical) : s.startTime.Canonical :=
  .ite h.buFail (.ite h.buFail (h.setFld _ _ _ _).refreshPath)

theorem execTimeBase_canonical {path : Path} (h : s.Canonical) : OutCanonical (execTimeBase path s) := h.buStep (fun _ ht => ht.startTime)

theorem State.Canonical.measure {ok : Bool} (h : s.Canonical) : (s.measure ok).Canonical := by
  unfold State.measure
  extract_lets t1
  have h1 : t1.Canonical := h.foldl (fun _ _ ht => ht.setMr) _
  exact .ite h1.buFail (h1.tickFree.foldl (fun _ _ ht => (ht.setReg _ _).setReg _ _) _).extendMr.extendMr

theorem execIdentityAndMeasurement_canonical {path : Path} {ok : Bool} (h : s.Canonical) : OutCanonical (execIdentityAndMeasurement path ok s) :=
  h.buStep (fun _ ht => ht.measure)

theorem execReady_canonical {path : Path} (h : s.Canonical) : OutCanonical (execReady path s) := h.buStep (fun _ ht => ht)

theorem State.Canonical.buPassed (h : s.Canonical) : s.buPassed.Canonical := by
  unfold State.buPassed
  split
  · exact h.foldl (fun _ _ ht => ht.setFld _ _ _ _) _
  · exact h.foldl (fun _ _ ht => ht.setFld _ _ _ _) _
  · refine State.Canonical.foldl ?_ _ h
    intro _ _ ht
    extract_lets t1
    have h1 : t1.Canonical := .ite ht (ht.note _ _ _ _ _).mark
    exact .ite (h1.note _ _ _ _ _) h1
  · exact h.updated
  · exact h.onBu
  · exact h

theorem execBuStepEnd_canonical (h : s.Canonical) : OutCanonical (execBuStepEnd s) := by
  unfold execBuStepEnd
  split
  · split
    · exact h.next
    · exact h.buEnd.next
    · exact .ite h.next h.buPassed.buEnd.next
  · exact h.next

theorem execBuStepLimit_canonical (h : s.Canonical) : OutCanonical (execBuStepLimit s) := by
  unfold execBuStepLimit
  dsimp only
  split
  · split
    · exact h.buEnd.next
    · split
      · exact h.buEnd.next
      · exact h.buEnd.next
  · exact h.next

/-! ### Firmware -/

theorem State.Canonical.checkLen (h : s.Canonical) : s.checkLen.Canonical := .ite h.buFail h

theorem State.Canonical.imageWhole (h : s.Canonical) : s.imageWhole.Canonical := by
  unfold State.imageWhole
  extract_lets _ t1 t2
  have h1 : t1.Canonical := h.extendMr.setFld _ _ _ _
  have h2 : t2.Canonical := ((h1.setFld _ _ _ _).setFld _ _ _ _).onFw
  split
  · exact h.buFail
  · exact .ite h1 (.ite h2.pullNext h2.checkLen)

theorem State.Canonical.keepChunk {index : Nat} {bs : List Byte} (h : s.Canonical) : (s.keepChunk index bs).Canonical := by
  unfold State.keepChunk
  extract_lets _ _ _ t1
  have h1 : t1.Canonical := h.supWrite.onFw.setFld _ _ _ _
  exact .ite h1.imageWhole (.ite h1.pullNext h1)

theorem State.Canonical.portChunk {addr : Nat} {bs : List Byte} (h : s.Canonical) : (s.portChunk addr bs).Canonical := by
  unfold State.portChunk
  dsimp only
  split
  · exact h
  · split
    · exact h.buFail
    · exact .ite h.keepChunk (.ite h.chunkFail.buFail h.chunkFail)

theorem State.Canonical.packetChunk {p : Pkt} (h : s.Canonical) : (s.packetChunk p).Canonical := by
  unfold State.packetChunk
  dsimp only
  split
  · exact .ite h.ackPkt h.nak
  · split
    · exact .ite h.ackPkt h.ackPkt.retryChunk
    · exact .ite h.ackPkt.onFw.keepChunk h.ackPkt.retryChunk

theorem State.Canonical.startFirmware (h : s.Canonical) : s.startFirmware.Canonical := by
  unfold State.startFirmware
  split
  · split
    · exact (h.setFld _ _ _ _).pullNext
    · exact h
  · exact h.checkLen

theorem execFirmwareLoad_canonical {path : Path} (h : s.Canonical) : OutCanonical (execFirmwareLoad path s) :=
  .ite h.startFirmware.next (h.buStep (fun _ ht => ht.startFirmware))

theorem State.Canonical.ctrlPkt {n : Nat} {ok : Pkt → Bool} {p : Pkt} {t : State} (h : s.Canonical)
    (he : s.ctrlPkt n ok = some (.ok (p, t))) : t.Canonical := by
  unfold State.ctrlPkt at he
  split at he
  · cases he
  · rename_i hp
    split at he
    · cases he
    · split at he
      · cases he
      · cases he
        exact h.takePkt hp

theorem State.Canonical.ctrlPkt_error {n : Nat} {ok : Pkt → Bool} {t : State} (h : s.Canonical) (he : s.ctrlPkt n ok = some (.error t)) :
    t.Canonical := by
  unfold State.ctrlPkt at he
  split at he
  · cases he
  · rename_i hp
    split at he
    · cases he
    · split at he
      · rename_i hc
        cases he
        exact (h.takePkt hp).checked hc
      · cases he

theorem execFirmwareChunk_canonical {src : ChunkFrom} (h : s.Canonical) : OutCanonical (execFirmwareChunk src s) := by
  unfold execFirmwareChunk
  split
  · exact h.portChunk.next
  · split
    · exact h.next
    · rename_i he
      exact (h.ctrlPkt_error he).next
    · rename_i he
      exact (h.ctrlPkt he).packetChunk.next

theorem State.Canonical.serveChunk {dst image index : Nat} (h : s.Canonical) : (s.serveChunk dst image index).Canonical := (h.setFld _ _ _ _).sendReq

theorem execFirmwarePull_canonical {n : Nat} {image : Fin 4} {first count : BitVec 16} (h : s.Canonical) :
    OutCanonical (execFirmwarePull n image first count s) := by
  unfold execFirmwarePull
  dsimp only
  split
  · exact h.next
  · rename_i he
    exact (h.ctrlPkt_error he).next
  · rename_i he
    have ht := h.ctrlPkt he
    exact .ite ht.chkFault.nak.next ((State.Canonical.ite ht.ackPkt ht.nak).foldl (fun _ _ hu => hu.serveChunk) _).next

theorem execCtrl_canonical {n : Nat} (h : s.Canonical) : OutCanonical (execCtrl n s) := by
  unfold execCtrl
  split
  · exact h.next
  · rename_i he
    exact (h.ctrlPkt_error he).next
  · rename_i he
    have ht := h.ctrlPkt he
    exact (State.Canonical.ite ht.packetChunk ht.takeCtrlEntry).next

theorem State.Canonical.startCores (h : s.Canonical) : s.startCores.Canonical :=
  h.foldl (fun _ _ ht => (((ht.wr _ _).setRegN _ _).setRegN _ _).runEng) _

theorem State.Canonical.startDies (h : s.Canonical) : s.startDies.Canonical := h.foldl (fun _ _ ht => .ite ht.onFw ht) _

theorem execCoreFirmware_canonical {path : Path} {noAck : Option (Fin 7 × BitVec 8)} (h : s.Canonical) :
    OutCanonical (execCoreFirmware path noAck s) := h.buStep (fun _ ht => (State.Canonical.ite ht.startCores ht).startDies.onBu)

/-! ### Fault buffers, resets and recovery -/

theorem State.Canonical.releaseRecs {n : Nat} (h : s.Canonical) : (s.releaseRecs n).Canonical := h.setFbuf _ _

theorem execFaultRecordMove_canonical {die : Fin 7} (h : s.Canonical) : OutCanonical (execFaultRecordMove die s) := by
  unfold execFaultRecordMove
  dsimp only
  split
  · exact h.next
  · split
    · exact h.next
    · exact .ite (.ite h.produce.releaseRecs.next h.next) ((h.setFbuf _ _).bufferRecord _ _).next

theorem execFltBufAck_canonical {path : Path} {count : BitVec 11} (h : s.Canonical) : OutCanonical (execFltBufAck path count s) :=
  h.guardedOut (fun _ ht => .ite (ht.unmapped _) ht.releaseRecs)

theorem State.Canonical.resetGuyline {die : Nat} (h : s.Canonical) : (s.resetGuyline die).Canonical := by
  unfold State.resetGuyline
  extract_lets _ _ _ _ t1 _ _ t2 _ t3
  have h1 : t1.Canonical := (h.foldl (fun _ _ ht => ht.endStep) _).foldl (fun _ _ ht => ht.bufferRecord _ _) _
  have h2 : t2.Canonical := ((h1.setFbuf _ _).foldl (fun _ _ ht => ht.dropPort) _).resetRegs _ _ _
  have h3 : t3.Canonical := (h2.foldl (fun _ _ ht => ht.setPort _ _) _).foldl (fun _ _ ht => ht.setChan _ _) _
  exact (h3.foldl (fun _ _ ht => .ite ht ht.mark.sendNotice) _).updated.restoreChans

theorem State.Canonical.beginReset {level target : Nat} (h : s.Canonical) : (s.beginReset level target).Canonical := by
  unfold State.beginReset
  extract_lets _ _ t1 t2 t3
  have h1 : t1.Canonical := (h.updated.setFld _ _ _ _).setFld _ _ _ _
  have h2 : t2.Canonical := .ite (h1.foldl (fun _ _ ht => ht.sweepCluster) _) h1
  have h3 : t3.Canonical := .ite h2.resetSpare h2
  exact .ite h3.resetGuyline (h3.foldl (fun _ _ ht => ht.resetCore) _)

theorem State.Canonical.fltResetWrite {v : Nat} (h : s.Canonical) : (s.fltResetWrite v).Canonical :=
  .ite ((h.setFld _ _ _ _).setFld _ _ _ _) (.ite (h.unmapped _) h.beginReset)

theorem execFltReset_canonical {path : Path} {v : BitVec 32} (h : s.Canonical) : OutCanonical (execFltReset path v s) :=
  h.guardedOut (fun _ ht => ht.fltResetWrite)

theorem State.Canonical.nextReset (h : s.Canonical) : s.nextReset.Canonical := by
  unfold State.nextReset
  split
  · exact h
  · split
    · exact h
    · exact h.updated.beginReset

theorem execResetComplete_canonical (h : s.Canonical) : OutCanonical (execResetComplete s) := by
  unfold execResetComplete
  split
  · exact h.next
  · extract_lets t1
    have h1 : t1.Canonical := .ite (h.foldl (fun _ _ ht => ht.finishRuns) _) h
    split
    · exact (State.Canonical.ite h1.updated.updated.windowDone h1.updated.updated).nextReset.next
    · exact (State.Canonical.ite h1.updated.recoveryNotice h1.updated).nextReset.next

theorem State.Canonical.failJob {space : Nat} {j : Job} {cause : Nat} (h : s.Canonical) : (s.failJob space j cause).Canonical :=
  h.recoveryNotice.relay.startTeardown

theorem State.Canonical.passExpired {space : Nat} {j : Job} (h : s.Canonical) : (s.passExpired space j).Canonical :=
  h.foldl (fun _ _ ht => .ite ht.mapJob ht.sendEntry) _

theorem State.Canonical.haltJob {space : Nat} {j : Job} (h : s.Canonical) : (s.haltJob space j).Canonical := by
  unfold State.haltJob
  extract_lets t1
  have h1 : t1.Canonical := h.stopJob.abortStreams
  exact (State.Canonical.ite h1.passExpired.stepEnded h1.endJobStep).mapJob

theorem State.Canonical.startRecovery {level target began : Nat} {before : List Nat} (h : s.Canonical) :
    (s.startRecovery level target began before).Canonical := by
  unfold State.startRecovery
  extract_lets _ _ _ t r
  have hr : r.1.Canonical := by
    refine State.Canonical.foldl_fst (fun r x hr => ?_) _ (State.Canonical.updated h)
    dsimp only
    split
    · exact hr
    · split
      · exact hr.failJob
      · exact hr.haltJob
  exact State.Canonical.ite hr hr.updated.nextReset

theorem State.Canonical.packageRecovery {r : FaultRec} (h : s.Canonical) : (s.packageRecovery r).Canonical := by
  unfold State.packageRecovery
  extract_lets _ t1
  have h1 : t1.Canonical := h.updated.foldl (fun _ _ ht => .ite ht ht.failJob) _
  exact h1.postNotice.updated.setFld _ _ _ _

theorem State.Canonical.recoverAt {level target began : Nat} {before : List Nat} {r : FaultRec} (h : s.Canonical) :
    (s.recoverAt level target began before r).Canonical := .ite h.packageRecovery h.startRecovery

theorem State.Canonical.escalate {w : Recov} {r : FaultRec} (h : s.Canonical) : (s.escalate w r).Canonical := h.recoveryNotice.updated.recoverAt

theorem execRecoveryStart_canonical (h : s.Canonical) : OutCanonical (execRecoveryStart s) := by
  unfold execRecoveryStart
  split
  · exact h.next
  · dsimp only
    split
    · exact h.next
    · split
      · exact h.updated.updated.next
      · split
        · exact h.updated.escalate.next
        · split
          · exact h.updated.next
          · exact .ite h.updated.next h.updated.recoverAt.next

theorem State.Canonical.rewound {space : Nat} {j : Job} (h : s.Canonical) : (s.rewound space j).Canonical := by
  unfold State.rewound
  extract_lets _ _ t1
  have h1 : t1.Canonical := h.placeCores.placePegs
  exact .ite h1.updated.mapJob.runJob h1.updated.mapJob

theorem execRewindDone_canonical {space : Fin 16} (h : s.Canonical) : OutCanonical (execRewindDone space s) := by
  unfold execRewindDone
  split
  · exact h.next
  · exact .ite h.rewound.leaveWindows.next h.next

theorem State.Canonical.uncatch {c : Nat} (h : s.Canonical) : (s.uncatch c).Canonical := by
  unfold State.uncatch
  dsimp only
  split
  · exact h.updated
  · split
    · exact h.updated.updated
    · exact .ite h.updated.updated.placeCores.runJob h.updated.updated.placeCores

theorem execFltHeartbeat_canonical {path : Path} (h : s.Canonical) : OutCanonical (execFltHeartbeat path s) :=
  h.guardedOut (fun _ ht => .ite ht.updated ht)

theorem execSupFault_canonical {core : Bool} (h : s.Canonical) : OutCanonical (execSupFault core s) := by
  unfold execSupFault
  split
  · exact h.next
  · refine .ite h.next (State.Canonical.next (State.Canonical.updated ?_))
    exact (h.record _ _ _ _ _ _ _ _).foldl (fun _ _ ht => ht.eachEng (fun _ _ hu => hu.stopEng)) _

theorem execD2dLink_canonical {near far : Fin 7} {module : BitVec 32} {lost : Bool} (h : s.Canonical) :
    OutCanonical (execD2dLink near far module lost s) := .ite h.next (h.record _ _ _ _ _ _ _ _).next

/-! ### Check values, quotes and minimum versions -/

theorem State.Canonical.chkWrite {v : Nat} (h : s.Canonical) : (s.chkWrite v).Canonical :=
  .ite (h.setFld _ _ _ _) (.ite (h.unmapped _) ((h.setFld _ _ _ _).setFld _ _ _ _))

theorem execChkCompute_canonical {path : Path} {poly : Fin 4} (h : s.Canonical) : OutCanonical (execChkCompute path poly s) :=
  h.guardedOut (fun _ ht => ht.chkWrite)

theorem execChkCompare_canonical {path : Path} {poly : Fin 4} (h : s.Canonical) : OutCanonical (execChkCompare path poly s) :=
  h.guardedOut (fun _ ht => ht.chkWrite)

theorem execChkDone_canonical (h : s.Canonical) : OutCanonical (execChkDone s) := by
  unfold execChkDone
  extract_lets _ _ _ t1
  have h1 : t1.Canonical := (h.setFld _ _ _ _).setRegN _ _
  exact .ite h.next (State.Canonical.ite (h1.setFld _ _ _ _) h1).next

theorem State.Canonical.quoteWrite {v : Nat} (h : s.Canonical) : (s.quoteWrite v).Canonical :=
  .ite (h.setFld _ _ _ _) (.ite (h.unmapped _) ((h.setFld _ _ _ _).setFld _ _ _ _))

theorem execQuote_canonical {path : Path} {space : Fin 16} {job : Bool} (h : s.Canonical) : OutCanonical (execQuote path space job s) :=
  h.guardedOut (fun _ ht => ht.quoteWrite)

theorem execQuoteDone_canonical (h : s.Canonical) : OutCanonical (execQuoteDone s) :=
  .ite h.next ((h.updated.tickFree.setFld _ _ _ _).setFld _ _ _ _).next

theorem State.Canonical.nonceWrite {j : Nat} {v : W64} (h : s.Canonical) : (s.nonceWrite j v).Canonical := (h.setReg _ _).setFld _ _ _ _

theorem execSecNonceWrite_canonical {path : Path} {j : Fin 6} {v : BitVec 64} (h : s.Canonical) : OutCanonical (execSecNonceWrite path j v s) :=
  h.guardedOut (fun _ ht => ht.nonceWrite)

theorem State.Canonical.raiseSvn {image svn : Nat} (h : s.Canonical) : (s.raiseSvn image svn).Canonical := .ite h.updated h

theorem execSecSvnRaise_canonical {path : Path} {image : Fin 4} {svn : BitVec 6} (h : s.Canonical) :
    OutCanonical (execSecSvnRaise path image svn s) := h.guardedOut (fun _ ht => ht.raiseSvn)

/-! ### The vector engine -/

theorem State.Canonical.setVec {c : Nat} {v : Vec} (h : s.Canonical) : (s.setVec c v).Canonical := h.setCore _ _

theorem State.Canonical.vput {c n : Nat} {vs : List W32} {lat flags : Nat} (h : s.Canonical) : (s.vput c n vs lat flags).Canonical :=
  h.setVec.orReg _ _

theorem State.vecHazard_canonical {c : Nat} {rs : List Nat} {r : IssueRes} (he : s.vecHazard c rs = some r) : r.Canonical := by
  obtain ⟨n, -, rfl⟩ := Option.map_eq_some_iff.mp he
  exact .fault

theorem vecBody_canonical {c : Nat} {w : EngW} {reads : List Nat} {opc lat : Nat} {f : State → List W32 × Nat} (h : s.Canonical) :
    (vecBody c w reads opc lat f s).Canonical := by
  unfold vecBody
  dsimp only
  split
  · rename_i he
    exact State.vecHazard_canonical he
  · exact h.vput.go

theorem State.vecRange_canonical {c : Nat} {w : EngW} {a hi align : Nat} {r : IssueRes} (he : s.vecRange c w a hi align = some r) : r.Canonical := by
  obtain ⟨-, hr⟩ := Option.ite_none_left_eq_some.mp he
  cases hr
  exact IssueRes.Canonical.ite .fault .fault

theorem State.Canonical.popMem {c : Nat} {w : EngW} (h : s.Canonical) : (s.popMem c w).Canonical := .ite h.popA h

theorem execVld_canonical {c : Fin 64} {w : EngW} (h : s.Canonical) : OutCanonical (execVld c w s) := by
  unfold execVld
  dsimp only
  refine h.issueOut fun _ ht => ?_
  split
  · exact .stall
  · split
    · exact .stall
    · split
      · rename_i he
        exact State.vecHazard_canonical he
      · split
        · rename_i he
          exact State.vecRange_canonical he
        · exact ht.vput.popMem.go

theorem State.Canonical.vecDraws {c : Nat} {sr : Bool} (h : s.Canonical) : (s.vecDraws c sr).1.Canonical := by
  unfold State.vecDraws
  dsimp only
  split
  · exact h.setReg _ _
  · exact h

theorem execVst_canonical {c : Fin 64} {w : EngW} (h : s.Canonical) : OutCanonical (execVst c w s) := by
  unfold execVst
  dsimp only
  refine h.issueOut fun _ ht => ?_
  split
  · exact .stall
  · split
    · exact .stall
    · split
      · rename_i he
        exact State.vecHazard_canonical he
      · split
        · rename_i he
          exact State.vecRange_canonical he
        · exact (ht.vecDraws.wrRuns.orReg _ _).popMem.go

theorem execVarith_canonical {c : Fin 64} {w : EngW} (h : s.Canonical) : OutCanonical (execVarith c w s) :=
  h.issueOut (fun _ ht => vecBody_canonical ht)

theorem execVcmp_canonical {c : Fin 64} {w : EngW} (h : s.Canonical) : OutCanonical (execVcmp c w s) := h.issueOut (fun _ ht => vecBody_canonical ht)

theorem execVsel_canonical {c : Fin 64} {w : EngW} (h : s.Canonical) : OutCanonical (execVsel c w s) := h.issueOut (fun _ ht => vecBody_canonical ht)

theorem execVred_canonical {c : Fin 64} {w : EngW} (h : s.Canonical) : OutCanonical (execVred c w s) := h.issueOut (fun _ ht => vecBody_canonical ht)

theorem execVperm_canonical {c : Fin 64} {w : EngW} (h : s.Canonical) : OutCanonical (execVperm c w s) :=
  h.issueOut (fun _ ht => vecBody_canonical ht)

theorem execVcvt_canonical {c : Fin 64} {w : EngW} (h : s.Canonical) : OutCanonical (execVcvt c w s) := by
  unfold execVcvt
  dsimp only
  refine h.issueOut fun _ ht => ?_
  split
  · exact .stall
  · split
    · rename_i he
      exact State.vecHazard_canonical he
    · exact ht.vecDraws.vput.go

theorem execVsfu_canonical {c : Fin 64} {w : EngW} (h : s.Canonical) : OutCanonical (execVsfu c w s) := by
  unfold execVsfu
  dsimp only
  refine h.issueOut fun _ ht => ?_
  split
  · exact .ite .stall (vecBody_canonical ht.setVec)
  · exact vecBody_canonical ht.setVec

theorem execVmovi_canonical {c : Fin 64} {w : EngW} (h : s.Canonical) : OutCanonical (execVmovi c w s) :=
  h.issueOut (fun _ ht => vecBody_canonical ht)

theorem execVbcq_canonical {c : Fin 64} {w : EngW} (h : s.Canonical) : OutCanonical (execVbcq c w s) := by
  refine h.issueOut (fun t ht => ?_)
  split
  · exact .stall
  · have hv := vecBody_canonical (c := c) (w := w) (reads := []) (opc := 0x1A) (lat := 1) (f := fun _ => eachLane (fun _ => (‹W32›, 0))) ht
    split
    · rename_i he
      exact (hv _ _ _ he).popP.go
    · exact hv

theorem execVseed_canonical {c : Fin 64} {w : EngW} (h : s.Canonical) : OutCanonical (execVseed c w s) := by
  unfold execVseed
  dsimp only
  refine h.issueOut fun _ ht => ?_
  split
  · exact .stall
  · refine IssueRes.Canonical.ite ?_ ?_
    · exact .stall
    · split
      · rename_i he
        exact State.vecRange_canonical he
      · exact .ite (ht.popMem.setRegN _ _).setVec.go (ht.wrLE _ _ _).popMem.go

theorem execVecResultReady_canonical {c : Fin 64} {v : BitVec 6} (h : s.Canonical) : OutCanonical (execVecResultReady c v s) :=
  .ite h.setVec.next h.next

/-! ### Debug access -/

theorem State.Canonical.dbgFail {path : Path} {e : DbgErr} (h : s.Canonical) : (s.dbgFail path e).Canonical :=
  .ite ((h.orReg _ _).attempt _ _ _ _) (h.orReg _ _)

theorem State.Canonical.answer {bs : List Byte} (h : s.Canonical) : (s.answer bs).Canonical := h.updated

theorem State.Canonical.answerWord {v : W64} (h : s.Canonical) : (s.answerWord v).Canonical := h.answer

theorem State.Canonical.engCtrlWrite {path : Path} {v : Nat} (h : s.Canonical) : (s.engCtrlWrite path v).Canonical := by
  unfold State.engCtrlWrite
  split
  · exact h.dbgFail
  · extract_lets _ t1
    have h1 : t1.Canonical := .ite h.dbgFail h
    exact .ite h1.dbgFail ((h1.foldl (fun _ _ ht => ht.setEng _ _ _) _).traceAdd _ _ _ _)

theorem execDbgHalt_canonical {path : Path} {engines : BitVec 6} (h : s.Canonical) : OutCanonical (execDbgHalt path engines s) :=
  h.guardedOut (fun _ ht => ht.engCtrlWrite)

theorem execDbgResume_canonical {path : Path} {engines : BitVec 6} (h : s.Canonical) : OutCanonical (execDbgResume path engines s) :=
  h.guardedOut (fun _ ht => ht.engCtrlWrite)

theorem execDbgStep_canonical {path : Path} {engines : BitVec 6} (h : s.Canonical) : OutCanonical (execDbgStep path engines s) :=
  h.guardedOut (fun _ ht => ht.engCtrlWrite)

theorem execDbgClrfault_canonical {path : Path} {engines : BitVec 6} (h : s.Canonical) : OutCanonical (execDbgClrfault path engines s) :=
  h.guardedOut (fun _ ht => ht.engCtrlWrite)

theorem State.Canonical.catchWrite {path : Path} {v : Nat} (h : s.Canonical) : (s.catchWrite path v).Canonical := by
  unfold State.catchWrite
  extract_lets _ _ _ t1
  have h1 : t1.Canonical := .ite h h.dbgFail
  exact (h1.setRegN _ _).foldl (fun _ _ ht => ht.uncatch) _

theorem execDbgCatchWrite_canonical {path : Path} {v : BitVec 64} (h : s.Canonical) : OutCanonical (execDbgCatchWrite path v s) :=
  h.guardedOut (fun _ ht => ht.catchWrite)

theorem State.Canonical.itemWrite {c kind index pair : Nat} {v : W64} (h : s.Canonical) : (s.itemWrite c kind index pair v).Canonical := by
  unfold State.itemWrite
  dsimp only
  split
  · exact .ite h (h.setCore _ _)
  · exact h.setCore _ _
  · exact (h.postOp _ _).traceAdd _ _ _ _
  · exact h.setCore _ _
  · exact h.setCore _ _

theorem State.Canonical.regDataRead {path : Path} (h : s.Canonical) : (s.regDataRead path).1.Canonical := by
  unfold State.regDataRead
  split
  · exact h.dbgFail
  · exact h

theorem State.Canonical.regDataWrite {path : Path} {v mask : W64} (h : s.Canonical) : (s.regDataWrite path v mask).Canonical := by
  unfold State.regDataWrite
  dsimp only
  split
  · exact h.dbgFail
  · exact h.itemWrite

theorem State.Canonical.dbgRead {path : Path} {f : State → State × W64} (h : s.Canonical) (hf : ∀ t, t.Canonical → (f t).1.Canonical) :
    OutCanonical (s.dbgRead path f) := .ite h.dbgFail.answerWord.next (hf _ (h.accessed _)).answerWord.next

theorem State.Canonical.dbgWrite {path : Path} {off : Nat} {f : State → State} (h : s.Canonical) (hf : ∀ t, t.Canonical → (f t).Canonical) :
    OutCanonical (s.dbgWrite path off f) := .ite h.dbgFail.next (h.guardedOut (fun _ ht => hf _ ht))

theorem execDbgRegRead_canonical {path : Path} (h : s.Canonical) : OutCanonical (execDbgRegRead path s) := h.dbgRead (fun _ ht => ht.regDataRead)

theorem execDbgRegWrite_canonical {path : Path} {v : BitVec 64} (h : s.Canonical) : OutCanonical (execDbgRegWrite path v s) :=
  h.dbgWrite (fun _ ht => ht.regDataWrite)

theorem State.Canonical.pegDataRead {path : Path} (h : s.Canonical) : (s.pegDataRead path).1.Canonical := by
  unfold State.pegDataRead
  dsimp only
  split
  · exact h.dbgFail
  · exact h.pegScreen.tracePeg _ _ _

theorem State.Canonical.pegDataWrite {path : Path} {v mask : W64} (h : s.Canonical) : (s.pegDataWrite path v mask).Canonical :=
  .ite h.dbgFail (.ite h.dbgFail (h.placePeg.traceAdd _ _ _ _))

theorem execDbgPegRead_canonical {path : Path} (h : s.Canonical) : OutCanonical (execDbgPegRead path s) := h.dbgRead (fun _ ht => ht.pegDataRead)

theorem execDbgPegWrite_canonical {path : Path} {v : BitVec 64} (h : s.Canonical) : OutCanonical (execDbgPegWrite path v s) :=
  h.dbgWrite (fun _ ht => ht.pegDataWrite)

theorem State.Canonical.memDataRead {path : Path} (h : s.Canonical) : (s.memDataRead path).1.Canonical := by
  unfold State.memDataRead
  split
  · exact h.dbgFail
  · dsimp only
    split
    · exact h
    · exact h.mapCount

theorem State.Canonical.memDataWrite {path : Path} {v mask : W64} (h : s.Canonical) : (s.memDataWrite path v mask).Canonical := by
  unfold State.memDataWrite
  split
  · exact h.dbgFail
  · dsimp only
    split
    · exact h.wr _ _
    · exact h.mapWrite

theorem execDbgMemRead_canonical {path : Path} (h : s.Canonical) : OutCanonical (execDbgMemRead path s) := h.dbgRead (fun _ ht => ht.memDataRead)

theorem execDbgMemWrite_canonical {path : Path} {v : BitVec 64} (h : s.Canonical) : OutCanonical (execDbgMemWrite path v s) :=
  h.dbgWrite (fun _ ht => ht.memDataWrite)

theorem State.Canonical.traceCtrlWrite {v : Nat} (h : s.Canonical) : (s.traceCtrlWrite v).Canonical :=
  .ite (h.setRegN _ _).updated (h.setRegN _ _)

theorem execDbgTraceClear_canonical {path : Path} (h : s.Canonical) : OutCanonical (execDbgTraceClear path s) :=
  h.guardedOut (fun _ ht => ht.traceCtrlWrite)

theorem State.Canonical.markTrace {v : W64} (h : s.Canonical) : (s.markTrace v).Canonical := h.traceAdd _ _ _ _

theorem execDbgTraceMark_canonical {path : Path} {v : BitVec 64} (h : s.Canonical) : OutCanonical (execDbgTraceMark path v s) :=
  h.guardedOut (fun _ ht => ht.markTrace)

/-! ### Register reads -/

theorem State.Canonical.regRead {path : Path} {d : RegDesc} {base : Nat} (h : s.Canonical) : (s.regRead path d base).1.Canonical := by
  unfold State.regRead
  split
  · exact h.regDataRead
  · exact h.pegDataRead
  · exact h.memDataRead
  · split
    · exact h.dbgFail
    · exact h
  · exact h

theorem State.Canonical.laneRead {path : Path} {off : Nat} {held : Option (Nat × Nat)} {loads : Bool} (h : s.Canonical) :
    (s.laneRead path off held loads).1.Canonical := by
  unfold State.laneRead
  split
  · exact h
  · dsimp only
    split
    · split
      · exact h
      · exact h.regRead
    · exact h.regRead
  · dsimp only
    split
    · exact h.regRead.updated
    · exact h.regRead

theorem State.Canonical.busRead {path : Path} {off size : Nat} (h : s.Canonical) : (s.busRead path off size).1.Canonical := by
  unfold State.busRead
  dsimp only
  split
  · exact h.takeLatch.event _ _ _
  · split
    · exact h.takeLatch.laneRead
    · split
      · split
        · exact h.takeLatch.regRead
        · exact h.takeLatch.laneRead.laneRead
      · exact h.takeLatch.laneRead

/-! ### Writes by the bus -/

theorem State.Canonical.coreCtrlWrite {c v : Nat} (h : s.Canonical) : (s.coreCtrlWrite c v).Canonical := by
  unfold State.coreCtrlWrite
  extract_lets _ t1 t2
  have h1 : t1.Canonical := .ite h.tallyClear h
  have h2 : t2.Canonical := .ite h1.queueClear h1
  exact (h2.eachEng (fun _ _ ht => ht.stopEng)).eachEng (fun _ _ ht => ht.runEng)

theorem State.Canonical.regWrite {path : Path} {d : RegDesc} {base v mask : Nat} (h : s.Canonical) : (s.regWrite path d base v mask).Canonical := by
  unfold State.regWrite
  dsimp only
  split
  · exact .ite h.buGo h
  · exact h.spareWrite
  · exact h.freqWrite
  · exact h.coreCtrlWrite
  · exact h.splitWrite
  · exact h.pegInitWrite
  · exact .ite (h.unmapped _) h.plainWrite
  · exact h.sweepCluster
  · exact .ite (h.unmapped _) h.plainWrite
  · exact h.invalWrite
  · exact h.retrainWrite
  · exact h.attZeroWrite
  · exact .ite (h.unmapped _) h.plainWrite
  · exact h.ruleCfgWrite
  · exact .ite (h.unmapped _) h.plainWrite
  · exact .ite (h.unmapped _) h.plainWrite
  · exact .ite (h.unmapped _) h.plainWrite
  · exact h.portCtrlWrite
  · exact .ite (h.unmapped _) h.plainWrite
  · exact .ite (h.unmapped _) h.plainWrite
  · exact .ite (h.unmapped _) h.plainWrite
  · exact .ite (h.unmapped _) h.plainWrite
  · exact .ite (h.unmapped _) h.plainWrite
  · exact .ite (h.unmapped _) h.stepSeqWrite
  · exact .ite (h.unmapped _) h.redCtrlWrite
  · exact .ite (h.unmapped _) h
  · exact .ite (h.unmapped _) h.plainWrite
  · exact .ite (h.unmapped _) h.plainWrite
  · exact h.ringCfgWrite
  · exact h.fltResetWrite
  · exact .ite h.updated h
  · exact .ite (h.unmapped _) h.releaseRecs
  · exact h.chkWrite
  · exact h.nonceWrite
  · exact h.quoteWrite
  · exact h.raiseSvn
  · exact h.engCtrlWrite
  · exact h.catchWrite
  · exact .ite h.dbgFail h.plainWrite
  · exact .ite h.dbgFail h.plainWrite
  · exact h.regDataWrite
  · exact h.pegDataWrite
  · exact h.memDataWrite
  · exact h.traceCtrlWrite
  · exact h.markTrace
  · exact h.plainWrite

theorem State.Canonical.laneWrite {path : Path} {off v : Nat} (h : s.Canonical) : (s.laneWrite path off v).Canonical := by
  unfold State.laneWrite
  split
  · exact .ite h (h.unmapped _)
  · split
    · rename_i he
      exact h.guard he
    · exact .ite h.regWrite h.regWrite

theorem State.Canonical.busWrite {path : Path} {off size v : Nat} (h : s.Canonical) : (s.busWrite path off size v).Canonical := by
  unfold State.busWrite
  dsimp only
  split
  · exact h
  · split
    · exact h.takeLatch
    · split
      · exact h.takeLatch.event _ _ _
      · split
        · exact h.takeLatch.laneWrite
        · split
          · split
            · split
              · rename_i he
                exact h.takeLatch.guard he
              · exact h.takeLatch.regWrite
            · exact h.takeLatch.laneWrite.laneWrite
          · exact h.takeLatch.laneWrite.laneWrite

theorem execRegisterWrite_canonical {path : Path} {off : BitVec 24} {size : Nat} {v : BitVec 64} (h : s.Canonical) :
    OutCanonical (execRegisterWrite path off size v s) := h.busWrite.next

/-! ### The TAP, telemetry and pins -/

theorem State.Canonical.selectIr {code : Nat} (h : s.Canonical) : (s.selectIr code).Canonical := h.updated

theorem execBypass_canonical (h : s.Canonical) : OutCanonical (execBypass s) := h.selectIr.next

theorem execIdcode_canonical (h : s.Canonical) : OutCanonical (execIdcode s) := h.selectIr.answer.next

theorem execSamplePreload_canonical {sampled preload : List (BitVec 8)} (h : s.Canonical) : OutCanonical (execSamplePreload sampled preload s) :=
  .ite h.selectIr.next h.updated.answer.next

theorem execExtest_canonical {chain : List (BitVec 8)} (h : s.Canonical) : OutCanonical (execExtest chain s) :=
  .ite h.updated.next h.selectIr.next

theorem execClamp_canonical (h : s.Canonical) : OutCanonical (execClamp s) := h.selectIr.next

theorem execHighz_canonical (h : s.Canonical) : OutCanonical (execHighz s) := h.selectIr.next

theorem execTestLogicReset_canonical (h : s.Canonical) : OutCanonical (execTestLogicReset s) := h.selectIr.next

theorem State.Canonical.accessDone {status : Nat} {bs : List Byte} (h : s.Canonical) : (s.accessDone status bs).Canonical := h.updated.answer

theorem execDbgacc_canonical {dr : BitVec 96} (h : s.Canonical) : OutCanonical (execDbgacc dr s) := by
  unfold execDbgacc
  dsimp only
  split
  · exact h.selectIr.accessDone.next
  · split
    · exact .ite h.selectIr.busWrite.accessDone.next h.selectIr.busWrite.accessDone.next
    · exact h.selectIr.busRead.accessDone.next

theorem State.Canonical.smbAnswer {cmd : Nat} {data : List Byte} (h : s.Canonical) : (s.smbAnswer cmd data).Canonical :=
  .ite h.answer h.answer

theorem execSmbIdentity_canonical (h : s.Canonical) : OutCanonical (execSmbIdentity s) := h.smbAnswer.next

theorem execSmbState_canonical (h : s.Canonical) : OutCanonical (execSmbState s) := h.smbAnswer.next

theorem State.Canonical.readSensors {dies : BitVec 112} (h : s.Canonical) : (s.readSensors dies).Canonical :=
  h.foldl (fun _ _ ht => (ht.setFld _ _ _ _).setFld _ _ _ _) _

theorem execSmbTemperatures_canonical {dies : BitVec 112} (h : s.Canonical) : OutCanonical (execSmbTemperatures dies s) :=
  .ite h.answer.next h.readSensors.smbAnswer.next

theorem execSmbPowers_canonical {powers : BitVec 128} (h : s.Canonical) : OutCanonical (execSmbPowers powers s) := h.smbAnswer.next

theorem execSmbLatestFault_canonical (h : s.Canonical) : OutCanonical (execSmbLatestFault s) := h.smbAnswer.next

theorem Tab.filter_key {α : Type} (p : Nat → Bool) (t : Tab α) : t.filter (fun x => p x.1) = Tab.keep p t := by
  induction t with
  | nil => rfl
  | cons x t ih =>
    obtain ⟨a, w⟩ := x
    by_cases ha : p a = true <;> simp [Tab.keep, ha, ih]

/-- What a package reset leaves of memory and registers is canonical: each is a part of what stood there, by key. -/
theorem State.Canonical.packageReset (h : s.Canonical) : s.packageReset.Canonical := by
  have hr : Tab.wf regReset (s.regs.filter (fun x => decide (0xB1000 ≤ x.1 ∧ x.1 < 0xB1040))) = true := by
    rw [Tab.filter_key (fun k => decide (0xB1000 ≤ k ∧ k < 0xB1040))]
    exact wf_keep _ _ _ h.2
  have hm : Memory.wf (Tab.keep outside s.mem) = true := wf_keep _ _ _ h.1
  unfold State.packageReset
  refine State.Canonical.setRegN ?_ _ _
  exact ⟨hm, hr⟩

theorem execPwrOkRise_canonical {straps : BitVec 2} (h : s.Canonical) : OutCanonical (execPwrOkRise straps s) :=
  .ite h.next h.updated.next

theorem execPwrOkFall_canonical (h : s.Canonical) : OutCanonical (execPwrOkFall s) := (h.packageReset.updated.resetRegs _ _ _).next

theorem execResetNFall_canonical {heldNs : Nat} (h : s.Canonical) : OutCanonical (execResetNFall heldNs s) := by
  unfold execResetNFall
  dsimp only
  split
  · exact h.next
  · split
    · exact .ite h.updated.next h.packageReset.updated.next
    · exact .ite h.next (.ite h.tickFree.packageReset.updated.next h.tickFree.next)

theorem execResetNRise_canonical (h : s.Canonical) : OutCanonical (execResetNRise s) := .ite h.updated.next h.next

theorem execThermalTrip_canonical (h : s.Canonical) : OutCanonical (execThermalTrip s) := .ite h.next h.updated.packageReset.next

theorem State.Canonical.stopIslands (h : s.Canonical) : s.stopIslands.Canonical :=
  (h.foldl (fun _ _ ht => (ht.eachEng (fun _ _ hu => hu.stopEng)).setCore _ _) _).updated

theorem State.Canonical.loseSerdes {die : Nat} (h : s.Canonical) : (s.loseSerdes die).Canonical := by
  unfold State.loseSerdes
  extract_lets x1 t1
  have h1 : t1.Canonical := h.foldl (fun _ _ ht => .ite (ht.setFld _ _ _ _).portDown ht) _
  unfold x1
  split
  · exact .ite h1.buFail h1
  · exact .ite h1.buFail h1

theorem execRefclkLost_canonical {clock : Fin 3} (h : s.Canonical) : OutCanonical (execRefclkLost clock s) := by
  unfold execRefclkLost
  dsimp only
  split
  · exact h.next
  · split
    · exact .ite h.updated.next (.ite h.updated.buFail.next (.ite h.updated.stopIslands.next h.updated.next))
    · exact .ite h.updated.next (.ite h.updated.buFail.next h.updated.loseSerdes.next)

theorem execRefclkReturn_canonical {b : Bool} (h : s.Canonical) : OutCanonical (execRefclkReturn b s) := h.updated.next

theorem execRailExcursion_canonical {rail : Fin 13} {mv : BitVec 32} {us : Nat} (h : s.Canonical) :
    OutCanonical (execRailExcursion rail mv us s) := by
  unfold execRailExcursion
  dsimp only
  split
  · exact h.next
  · exact .ite h.buFail.next (.ite (h.record _ _ _ _ _ _ _ _).next h.updated.next)

theorem execDieInternalFault_canonical {die : Fin 7} {d0 d1 : BitVec 32} (h : s.Canonical) : OutCanonical (execDieInternalFault die d0 d1 s) :=
  .ite h.next (h.record _ _ _ _ _ _ _ _).next

theorem State.Canonical.measurePower {energy : BitVec 256} {dies : BitVec 112} (h : s.Canonical) : (s.measurePower energy dies).Canonical :=
  (h.foldl (fun _ _ ht => ht.setRegN _ _) _).updated.readSensors

theorem State.Canonical.applyCap (h : s.Canonical) : s.applyCap.Canonical :=
  h.foldl (fun _ _ ht => .ite (ht.foldl (fun _ _ hu => hu.setFreq) _) ht) _

theorem State.Canonical.moveCap {cap : Nat} {byPower byHeat : Bool} (h : s.Canonical) : (s.moveCap cap byPower byHeat).Canonical := by
  unfold State.moveCap
  extract_lets _ _ _ _ t1 t2 t3 t4
  have h1 : t1.Canonical := (State.Canonical.ite h h.updated).setFld _ _ _ _
  have h2 : t2.Canonical := .ite (.ite (h1.setFld _ _ _ _) h1) (h1.setFld _ _ _ _)
  have h3 : t3.Canonical := .ite (.ite (h2.setFld _ _ _ _) h2) (h2.setFld _ _ _ _)
  have h4 : t4.Canonical := .ite (h3.setFld _ _ _ _) h3
  exact .ite h4.updated.postNotice (.ite h4.updated.postNotice h4)

theorem execPowerCapEval_canonical {energy : BitVec 256} {dies : BitVec 112} (h : s.Canonical) : OutCanonical (execPowerCapEval energy dies s) := by
  unfold execPowerCapEval
  extract_lets _ t1
  have h1 : t1.Canonical := h.measurePower.setFld _ _ _ _
  exact .ite h.next (.ite h1.next h1.moveCap.applyCap.next)

theorem execStewardLinkReset_canonical (h : s.Canonical) : OutCanonical (execStewardLinkReset s) := h.updated.next

theorem execBusMasterEnable_canonical (h : s.Canonical) : OutCanonical (execBusMasterEnable s) := .ite h.next h.updated.next

/-! ### Half a nanosecond with no command -/

theorem State.Canonical.refusals {c : Nat} (h : s.Canonical) : (s.refusals c).Canonical := .ite (h.pmu _ _ _ _).tickFree h

theorem State.Canonical.pmuCycles {c n : Nat} {quiet : Bool} (h : s.Canonical) : (s.pmuCycles c n quiet).Canonical := by
  unfold State.pmuCycles
  extract_lets _ t1
  have h1 : t1.Canonical := by
    unfold t1
    refine State.Canonical.foldl ?_ _ (h.pmu _ _ _ _)
    intro _ _ ht
    split
    · exact ht
    · split
      · exact ht.pmu _ _ _ _
      · exact ht.pmu _ _ _ _
      · exact ht.pmu _ _ _ _
      · exact ht
  exact .ite h (State.Canonical.ite ((h1.pmu _ _ _ _).pmu _ _ _ _) (h1.pmu _ _ _ _)).refusals

theorem State.Canonical.lanternCycles {c n : Nat} {quiet : Bool} (h : s.Canonical) : (s.lanternCycles c n quiet).Canonical :=
  .ite (.ite h (h.setFld _ _ _ _)) ((h.setFld _ _ _ _).setFld _ _ _ _)

theorem State.Canonical.takeReport {c e : Nat} {r : Report} (h : s.Canonical) : (s.takeReport c e r).Canonical :=
  .ite h (.ite h.waitFault (h.setEng _ _ _))

theorem State.Canonical.takeReports {c e : Nat} (h : s.Canonical) : (s.takeReports c e).Canonical := by
  unfold State.takeReports
  dsimp only
  split
  · exact h
  · exact (h.setEng _ _ _).foldl (fun _ _ ht => ht.takeReport) _

theorem State.Canonical.endCycle {c : Nat} (h : s.Canonical) : (s.endCycle c).Canonical := by
  unfold State.endCycle
  extract_lets _ _ t1
  have h1 : t1.Canonical := (h.closeWindow.applyOps _).foldl (fun _ _ ht => .ite ht.haltNow ht) _
  exact (h1.foldl (fun _ _ ht => ht.takeReports) _).setCore _ _

theorem State.Canonical.tickCore {c : Nat} (h : s.Canonical) : (s.tickCore c).Canonical :=
  .ite h (.ite (h.setCore _ _) (h.setCore _ _).endCycle.lanternCycles.pmuCycles)

theorem State.Canonical.holdRate (h : s.Canonical) : s.holdRate.Canonical := .ite h.updated h

theorem State.Canonical.tickTime (h : s.Canonical) : s.tickTime.Canonical := .ite h.holdRate.updated h.holdRate.updated

theorem State.Canonical.tick (h : s.Canonical) : s.tick.Canonical := by
  unfold State.tick
  extract_lets _ _ t1 _ _ t2
  have h1 : t1.Canonical := .ite h.serveAll h
  have h2 : t2.Canonical := (State.Canonical.ite h1.updated.tickTime h1.updated).foldl (fun _ _ ht => ht.tickCore) _
  exact .ite h1.updated (.ite (h2.advanceRuns.foldl (fun _ _ ht => ht.portDrained.portTick) _) h2.advanceRuns)

/-! ### The outer-product engines -/

theorem State.Canonical.retire {c e pc opc : Nat} (h : s.Canonical) : (s.retire c e pc opc).Canonical := by
  unfold State.retire
  dsimp only
  split
  · exact h
  · exact ((h.setEng _ _ _).signals _ _ _ _ _ _).tryHalt

theorem execMmaPairBegin_canonical {c : Fin 64} {e : Fin 2} (h : s.Canonical) : OutCanonical (execMmaPairBegin c e s) := by
  unfold execMmaPairBegin
  extract_lets
  split
  · extract_lets _ _ _ _ _ _ _ _ t1
    have h1 : t1.Canonical := h.popA.setOpe _ _ _
    exact .ite h.next (.ite (((h.setOpe _ _ _).setEng _ _ _).late _ _ _ _ _ _ _).next
        (((State.Canonical.ite (h1.orReg _ _) h1).setRegN _ _).pmu _ _ _ _).next)
  · exact h.next

theorem execMmaLastRead_canonical {c : Fin 64} {e : Fin 2} (h : s.Canonical) : OutCanonical (execMmaLastRead c e s) := by
  unfold execMmaLastRead
  dsimp only
  split
  · exact .ite h.next (h.setOpe _ _ _).retire.next
  · exact h.next

theorem drpBody_canonical {c e : Nat} {w : EngW} (h : s.Canonical) : (drpBody c e w s).Canonical := by
  unfold drpBody
  extract_lets _ _ _ _ _ _ _ _ _ _ _ t1
  have h1 : t1.Canonical := .ite h.popP h
  split
  · exact .stall
  · exact .ite .stall (.ite .fault (.ite .fault ((State.Canonical.ite h1.popA h1).setOpe _ _ _).go))

theorem execDrp_canonical {c : Fin 64} {e : Fin 2} {w : EngW} (h : s.Canonical) : OutCanonical (execDrp c e w s) :=
  h.issueOut (fun _ ht => drpBody_canonical ht)

theorem State.Canonical.drainAcc {c e : Nat} {d : Drp} {bank : Tab W32} (h : s.Canonical) : (s.drainAcc c e d bank).Canonical :=
  (h.foldl (fun _ _ ht => ht.wr _ _) _).orReg _ _

theorem State.Canonical.drainOut {c e : Nat} {d : Drp} {bank : Tab W32} (h : s.Canonical) : (s.drainOut c e d bank).Canonical := by
  unfold State.drainOut
  extract_lets _ _ _ _ _ _ _ _ t1
  have h1 : t1.Canonical := .ite (h.wrRuns.wrLE _ _ _) h.wrRuns
  exact (State.Canonical.ite (h1.setReg _ _) h1).orReg _ _

theorem State.Canonical.phaseStart {c e : Nat} (h : s.Canonical) : (s.phaseStart c e).Canonical := by
  unfold State.phaseStart
  extract_lets
  split
  · exact h
  · extract_lets _ _ _ t1
    have h1 : t1.Canonical := by
      unfold t1
      split
      · exact h
      · exact h.drainOut
      · exact h.drainAcc
    split
    · exact h
    · exact .ite h ((h1.setOpe _ _ _).pmu _ _ _ _)

theorem State.Canonical.fixPhases {c e : Nat} : ∀ (n : Nat) {s : State}, s.Canonical → (s.fixPhases c e n).Canonical
  | 0, _, h => h
  | n + 1, _, h => State.Canonical.fixPhases n h.phaseStart

theorem execBankPhaseStart_canonical {c : Fin 64} {e : Fin 2} (h : s.Canonical) : OutCanonical (execBankPhaseStart c e s) :=
  .ite h.next h.phaseStart.next

theorem mmaBody_canonical {c e : Nat} {w : EngW} (h : s.Canonical) : (mmaBody c e w s).Canonical := by
  unfold mmaBody
  extract_lets _ t1
  have h1 : t1.Canonical := .ite (h.fixPhases _) h
  refine IssueRes.Canonical.ite ?_ ?_
  · exact .stall
  · split
    · exact .stall
    · dsimp only
      refine IssueRes.Canonical.ite ?_ ?_
      · exact .fault
      · split
        · exact .fault
        · exact .ite (h1.popP.setOpe _ _ _).go (h1.popP.setOpe _ _ _).go

theorem execMma_canonical {c : Fin 64} {e : Fin 2} {w : EngW} (h : s.Canonical) : OutCanonical (execMma c e w s) :=
  h.issueOut (fun _ ht => mmaBody_canonical ht)

theorem execSwap_canonical {c : Fin 64} {e : Fin 2} {w : EngW} (h : s.Canonical) : OutCanonical (execSwap c e w s) := by
  unfold execSwap
  refine h.issueOut fun _ ht => ?_
  dsimp only
  split
  · exact .stall
  · split
    · exact .fault
    · exact ((ht.fixPhases _).setOpe _ _ _).go

theorem execDrpComplete_canonical {c : Fin 64} {e : Fin 2} (h : s.Canonical) : OutCanonical (execDrpComplete c e s) := by
  unfold execDrpComplete
  dsimp only
  split
  · exact h.next
  · exact (h.setOpe _ _ _).retire.next

theorem execStg_canonical {c : Fin 64} {e : Fin 2} {w : EngW} (h : s.Canonical) : OutCanonical (execStg c e w s) := by
  unfold execStg
  dsimp only
  refine h.issueOut fun _ ht => ?_
  split
  · exact .stall
  · split
    · exact .stall
    · exact .ite .fault (.ite .fault (ht.popA.setOpe _ _ _).go)

theorem execStgComplete_canonical {c : Fin 64} {e : Fin 2} (h : s.Canonical) : OutCanonical (execStgComplete c e s) := by
  unfold execStgComplete
  dsimp only
  split
  · exact h.next
  · exact .ite h.next (h.setOpe _ _ _).retire.next

theorem execSrs_canonical {c : Fin 64} {e : Fin 2} {w : EngW} (h : s.Canonical) : OutCanonical (execSrs c e w s) := by
  unfold execSrs
  refine h.issueOut fun _ ht => ?_
  dsimp only
  split
  · exact .stall
  · split
    · exact .stall
    · exact .ite .fault (State.Canonical.ite (ht.wrLE _ _ _) (ht.setRegN _ _)).popA.go

/-! ### The thin-path engine -/

theorem State.Canonical.setTpe {c : Nat} {t : Tpe} (h : s.Canonical) : (s.setTpe c t).Canonical := h.setCore _ _

theorem execTmv_canonical {c : Fin 64} {w : EngW} (h : s.Canonical) : OutCanonical (execTmv c w s) := by
  unfold execTmv
  dsimp only
  refine h.issueOut fun _ ht => ?_
  split
  · exact .stall
  · split
    · exact .stall
    · exact .ite .fault (.ite ht.popP.go ht.popP.setTpe.go)

theorem execTmvTileBegin_canonical {c : Fin 64} (h : s.Canonical) : OutCanonical (execTmvTileBegin c s) := by
  unfold execTmvTileBegin
  dsimp only
  split
  · exact .ite h.next (.ite ((h.setTpe.setEng _ _ _).late _ _ _ _ _ _ _).next ((h.popA.setTpe.setRegN _ _).pmu _ _ _ _).next)
  · exact h.next

theorem execTldx_canonical {c : Fin 64} {w : EngW} (h : s.Canonical) : OutCanonical (execTldx c w s) := by
  unfold execTldx
  dsimp only
  refine h.issueOut fun _ ht => ?_
  split
  · exact .stall
  · split
    · exact .stall
    · exact .ite .fault (.ite .fault ht.popA.setTpe.go)

theorem execTsty_canonical {c : Fin 64} {w : EngW} (h : s.Canonical) : OutCanonical (execTsty c w s) := by
  unfold execTsty
  dsimp only
  refine h.issueOut fun _ ht => ?_
  split
  · exact .stall
  · split
    · exact .stall
    · exact .ite .fault (.ite .fault ((ht.popA.setTpe.foldl (fun _ _ hu => hu.wr _ _) _).orReg _ _).go)

theorem execTzy_canonical {c : Fin 64} {w : EngW} (h : s.Canonical) : OutCanonical (execTzy c w s) :=
  h.issueOut (fun _ ht => .ite .stall (.ite .fault ht.setTpe.go))

/-! ### Peg takes -/

theorem State.Canonical.runEngWord {c : Fin 64} {e x : Nat} (h : s.Canonical) : OutCanonical (s.runEngWord c e x) := by
  unfold State.runEngWord
  dsimp only
  split
  · split
    · exact execNop_canonical h
    · exact execLoop_canonical h
    · exact execJump_canonical h
    · exact execBrq_canonical h
    · exact execSettle_canonical h
    · exact execHalt_canonical h
    · split
      · split
        · exact execMma_canonical h
        · exact execSwap_canonical h
        · exact execDrp_canonical h
        · exact execStg_canonical h
        · exact execSrs_canonical h
      · split
        · split
          · exact execTmv_canonical h
          · exact execTldx_canonical h
          · exact execTsty_canonical h
          · exact execTzy_canonical h
        · split
          · split
            · exact execVld_canonical h
            · exact execVst_canonical h
            · exact execVarith_canonical h
            · exact execVcmp_canonical h
            · exact execVsel_canonical h
            · exact execVred_canonical h
            · exact execVperm_canonical h
            · exact execVcvt_canonical h
            · exact execVsfu_canonical h
            · exact execVmovi_canonical h
            · exact execVbcq_canonical h
            · exact execVseed_canonical h
          · exact execStrm_canonical h
  · exact h.next

theorem State.Canonical.runWord {c : Fin 64} {e : Nat} (h : s.Canonical) : OutCanonical (s.runWord c e) := by
  unfold State.runWord
  split
  · exact h.next
  · exact .ite (execPwait_canonical h) h.runEngWord

theorem State.Canonical.withGrant {c e p : Nat} (h : s.Canonical) : (s.withGrant c e p).Canonical := h.setEng _ _ _

theorem execPegTakeRequest_canonical {c : Fin 64} {e : Fin 6} (h : s.Canonical) : OutCanonical (execPegTakeRequest c e s) := by
  unfold execPegTakeRequest
  split
  · exact .ite h.next (.ite h.pegScreen.waitFault.next h.pegScreen.updated.stirWaiters.serve.next)
  · exact h.next

theorem execPegGrant_canonical {c : Fin 64} {e : Fin 6} (h : s.Canonical) : OutCanonical (execPegGrant c e s) := by
  unfold execPegGrant
  extract_lets
  split
  · exact h.next
  · extract_lets t1
    have h1 : t1.Canonical := h.updated.stirNext
    exact .ite h1.withGrant.runWord h1.updated.next

/-! ### Every command, and the step -/

/-- Every command keeps the form. -/
theorem exec_canonical (h : s.Canonical) : ∀ i : Instr, OutCanonical (exec i s)
  | .instructionFetch .. => execInstructionFetch_canonical h
  | .nop .. => execNop_canonical h
  | .loop .. => execLoop_canonical h
  | .jump .. => execJump_canonical h
  | .brq .. => execBrq_canonical h
  | .settle .. => execSettle_canonical h
  | .halt .. => execHalt_canonical h
  | .instructionComplete .. => execInstructionComplete_canonical h
  | .alu .. => execAlu_canonical h
  | .addi .. => execAddi_canonical h
  | .andi .. => execAndi_canonical h
  | .ori .. => execOri_canonical h
  | .xori .. => execXori_canonical h
  | .slti .. => execSlti_canonical h
  | .sltiu .. => execSltiu_canonical h
  | .shi .. => execShi_canonical h
  | .lui .. => execLui_canonical h
  | .lih .. => execLih_canonical h
  | .lit .. => execLit_canonical h
  | .lb .. => execLb_canonical h
  | .lbu .. => execLbu_canonical h
  | .lh .. => execLh_canonical h
  | .lhu .. => execLhu_canonical h
  | .lw .. => execLw_canonical h
  | .lwu .. => execLwu_canonical h
  | .ld .. => execLd_canonical h
  | .sb .. => execSb_canonical h
  | .sh .. => execSh_canonical h
  | .sw .. => execSw_canonical h
  | .sd .. => execSd_canonical h
  | .loadDataReturn .. => execLoadDataReturn_canonical h
  | .ctlResultReady .. => execCtlResultReady_canonical h
  | .beq .. => execBeq_canonical h
  | .bne .. => execBne_canonical h
  | .blt .. => execBlt_canonical h
  | .bge .. => execBge_canonical h
  | .bltu .. => execBltu_canonical h
  | .bgeu .. => execBgeu_canonical h
  | .jal .. => execJal_canonical h
  | .jalr .. => execJalr_canonical h
  | .ctlLoop .. => execCtlLoop_canonical h
  | .pusha .. => execPusha_canonical h
  | .pushp .. => execPushp_canonical h
  | .tadd .. => execTadd_canonical h
  | .twait .. => execTwait_canonical h
  | .ttake .. => execTtake_canonical h
  | .trd .. => execTrd_canonical h
  | .pwait .. => execPwait_canonical h
  | .waitg .. => execWaitg_canonical h
  | .rds .. => execRds_canonical h
  | .ctlHalt .. => execCtlHalt_canonical h
  | .storeRetire .. => execStoreRetire_canonical h
  | .mma .. => execMma_canonical h
  | .mmaPairBegin .. => execMmaPairBegin_canonical h
  | .mmaLastRead .. => execMmaLastRead_canonical h
  | .swap .. => execSwap_canonical h
  | .drp .. => execDrp_canonical h
  | .bankPhaseStart .. => execBankPhaseStart_canonical h
  | .drpComplete .. => execDrpComplete_canonical h
  | .stg .. => execStg_canonical h
  | .stgComplete .. => execStgComplete_canonical h
  | .srs .. => execSrs_canonical h
  | .tmv .. => execTmv_canonical h
  | .tmvTileBegin .. => execTmvTileBegin_canonical h
  | .tldx .. => execTldx_canonical h
  | .tsty .. => execTsty_canonical h
  | .tzy .. => execTzy_canonical h
  | .vld .. => execVld_canonical h
  | .vst .. => execVst_canonical h
  | .varith .. => execVarith_canonical h
  | .vcmp .. => execVcmp_canonical h
  | .vsel .. => execVsel_canonical h
  | .vred .. => execVred_canonical h
  | .vperm .. => execVperm_canonical h
  | .vcvt .. => execVcvt_canonical h
  | .vsfu .. => execVsfu_canonical h
  | .vmovi .. => execVmovi_canonical h
  | .vbcq .. => execVbcq_canonical h
  | .vseed .. => execVseed_canonical h
  | .vecResultReady .. => execVecResultReady_canonical h
  | .strmWindowOpen .. => execStrmWindowOpen_canonical h
  | .strm .. => execStrm_canonical h
  | .streamRequestStart .. => execStreamRequestStart_canonical h
  | .listPieceRead .. => execListPieceRead_canonical h
  | .transferArrive .. => execTransferArrive_canonical h
  | .tileCommit .. => execTileCommit_canonical h
  | .transferRetire .. => execTransferRetire_canonical h
  | .streamComplete .. => execStreamComplete_canonical h
  | .suspensionResume .. => execSuspensionResume_canonical h
  | .suspensionAbort .. => execSuspensionAbort_canonical h
  | .strSplitWrite .. => execStrSplitWrite_canonical h
  | .pegFill .. => execPegFill_canonical h
  | .pegWatch .. => execPegWatch_canonical h
  | .pegReport .. => execPegReport_canonical h
  | .pegTakeRequest .. => execPegTakeRequest_canonical h
  | .pegGrant .. => execPegGrant_canonical h
  | .pegReturn .. => execPegReturn_canonical h
  | .pegArmApply .. => execPegArmApply_canonical h
  | .pegRead .. => execPegRead_canonical h
  | .pegInit .. => execPegInit_canonical h
  | .pegAbandon .. => execPegAbandon_canonical h
  | .lanternFire .. => execLanternFire_canonical h
  | .run .. => execRun_canonical h
  | .stop .. => execStop_canonical h
  | .tallyClear .. => execTallyClear_canonical h
  | .queueClear .. => execQueueClear_canonical h
  | .coreFreqChange .. => execCoreFreqChange_canonical h
  | .coreFreqRelockDone .. => execCoreFreqRelockDone_canonical h
  | .registerWrite .. => execRegisterWrite_canonical h
  | .translationWalk .. => execTranslationWalk_canonical h
  | .tierAccess .. => execTierAccess_canonical h
  | .memInval .. => execMemInval_canonical h
  | .memInvalDone .. => execMemInvalDone_canonical h
  | .pageMove .. => execPageMove_canonical h
  | .memRetrain .. => execMemRetrain_canonical h
  | .retrainDone .. => execRetrainDone_canonical h
  | .attZero .. => execAttZero_canonical h
  | .attZeroDone .. => execAttZeroDone_canonical h
  | .updateCommand .. => execUpdateCommand_canonical h
  | .passStart .. => execPassStart_canonical h
  | .cveRun .. => execCveRun_canonical h
  | .passComplete .. => execPassComplete_canonical h
  | .ruleSlotEnable .. => execRuleSlotEnable_canonical h
  | .cveAdd .. => execCveAdd_canonical h
  | .cveSub .. => execCveSub_canonical h
  | .cveMul .. => execCveMul_canonical h
  | .cveFma .. => execCveFma_canonical h
  | .cveFnma .. => execCveFnma_canonical h
  | .cveMin .. => execCveMin_canonical h
  | .cveMax .. => execCveMax_canonical h
  | .cveAbs .. => execCveAbs_canonical h
  | .cveNeg .. => execCveNeg_canonical h
  | .cveSgn .. => execCveSgn_canonical h
  | .cveSqrt .. => execCveSqrt_canonical h
  | .cveRsqrt .. => execCveRsqrt_canonical h
  | .cveRcp .. => execCveRcp_canonical h
  | .cveCmp .. => execCveCmp_canonical h
  | .cveSel .. => execCveSel_canonical h
  | .cveSum .. => execCveSum_canonical h
  | .cveBcast .. => execCveBcast_canonical h
  | .cveLds .. => execCveLds_canonical h
  | .cveSts .. => execCveSts_canonical h
  | .cveMov .. => execCveMov_canonical h
  | .cveEnd .. => execCveEnd_canonical h
  | .frameReceive .. => execFrameReceive_canonical h
  | .replayTimeout .. => execReplayTimeout_canonical h
  | .packetForward .. => execPacketForward_canonical h
  | .write .. => execWrite_canonical h
  | .add .. => execAdd_canonical h
  | .read .. => execRead_canonical h
  | .readData .. => execReadData_canonical h
  | .ack .. => execAck_canonical h
  | .nak .. => execNak_canonical h
  | .ctrl .. => execCtrl_canonical h
  | .linkstate .. => execLinkstate_canonical h
  | .e2eTimeout .. => execE2eTimeout_canonical h
  | .backoffExpire .. => execBackoffExpire_canonical h
  | .e2eLimit .. => execE2eLimit_canonical h
  | .portLossOfLock .. => execPortLossOfLock_canonical h
  | .portNarrowDone .. => execPortNarrowDone_canonical h
  | .portNarrowTimeout .. => execPortNarrowTimeout_canonical h
  | .portUpHoldExpire .. => execPortUpHoldExpire_canonical h
  | .portAutoRetry .. => execPortAutoRetry_canonical h
  | .portRetrain .. => execPortRetrain_canonical h
  | .portRetrainDone .. => execPortRetrainDone_canonical h
  | .syncSend .. => execSyncSend_canonical h
  | .sync .. => execSync_canonical h
  | .timHoldover .. => execTimHoldover_canonical h
  | .timMasterLost .. => execTimMasterLost_canonical h
  | .sendUnitStart .. => execSendUnitStart_canonical h
  | .sendRound .. => execSendRound_canonical h
  | .contrib .. => execContrib_canonical h
  | .redDeadline .. => execRedDeadline_canonical h
  | .redGrace .. => execRedGrace_canonical h
  | .repeatNotice .. => execRepeatNotice_canonical h
  | .normContribution .. => execNormContribution_canonical h
  | .scalar .. => execScalar_canonical h
  | .scalarResult .. => execScalarResult_canonical h
  | .distSendStart .. => execDistSendStart_canonical h
  | .dist .. => execDist_canonical h
  | .distDone .. => execDistDone_canonical h
  | .channelAbort .. => execChannelAbort_canonical h
  | .channelStepSeq .. => execChannelStepSeq_canonical h
  | .jobPoll .. => execJobPoll_canonical h
  | .ringEnable .. => execRingEnable_canonical h
  | .load .. => execLoad_canonical h
  | .start .. => execStart_canonical h
  | .pause .. => execPause_canonical h
  | .resume .. => execResume_canonical h
  | .teardown .. => execTeardown_canonical h
  | .teardownFinish .. => execTeardownFinish_canonical h
  | .export_ .. => execExport_canonical h
  | .request .. => execRequest_canonical h
  | .stepOpen .. => execStepOpen_canonical h
  | .reqPass .. => execReqPass_canonical h
  | .stepClose .. => execStepClose_canonical h
  | .jobStepLate .. => execJobStepLate_canonical h
  | .jobRootLost .. => execJobRootLost_canonical h
  | .requestExpire .. => execRequestExpire_canonical h
  | .mailboxArrival .. => execMailboxArrival_canonical h
  | .bubbleAt .. => execBubbleAt_canonical h
  | .reqOut .. => execReqOut_canonical h
  | .place .. => execPlace_canonical h
  | .mailboxNote .. => execMailboxNote_canonical h
  | .powerAndClocks .. => execPowerAndClocks_canonical h
  | .fuseRead .. => execFuseRead_canonical h
  | .selfTest .. => execSelfTest_canonical h
  | .yieldMap .. => execYieldMap_canonical h
  | .spares .. => execSpares_canonical h
  | .islandClocks .. => execIslandClocks_canonical h
  | .dieToDieLinks .. => execDieToDieLinks_canonical h
  | .tier1 .. => execTier1_canonical h
  | .tier2 .. => execTier2_canonical h
  | .fabric .. => execFabric_canonical h
  | .timeBase .. => execTimeBase_canonical h
  | .identityAndMeasurement .. => execIdentityAndMeasurement_canonical h
  | .firmwareLoad .. => execFirmwareLoad_canonical h
  | .coreFirmware .. => execCoreFirmware_canonical h
  | .ready .. => execReady_canonical h
  | .buStepEnd .. => execBuStepEnd_canonical h
  | .buStepLimit .. => execBuStepLimit_canonical h
  | .spareRepoint .. => execSpareRepoint_canonical h
  | .firmwareChunk .. => execFirmwareChunk_canonical h
  | .firmwarePull .. => execFirmwarePull_canonical h
  | .faultRecordMove .. => execFaultRecordMove_canonical h
  | .recoveryStart .. => execRecoveryStart_canonical h
  | .fltReset .. => execFltReset_canonical h
  | .resetComplete .. => execResetComplete_canonical h
  | .rewindDone .. => execRewindDone_canonical h
  | .fltHeartbeat .. => execFltHeartbeat_canonical h
  | .supFault .. => execSupFault_canonical h
  | .fltBufAck .. => execFltBufAck_canonical h
  | .chkCompute .. => execChkCompute_canonical h
  | .chkCompare .. => execChkCompare_canonical h
  | .chkDone .. => execChkDone_canonical h
  | .d2dLink .. => execD2dLink_canonical h
  | .quote .. => execQuote_canonical h
  | .quoteDone .. => execQuoteDone_canonical h
  | .secNonceWrite .. => execSecNonceWrite_canonical h
  | .secSvnRaise .. => execSecSvnRaise_canonical h
  | .dbgHalt .. => execDbgHalt_canonical h
  | .dbgResume .. => execDbgResume_canonical h
  | .dbgStep .. => execDbgStep_canonical h
  | .dbgClrfault .. => execDbgClrfault_canonical h
  | .dbgCatchWrite .. => execDbgCatchWrite_canonical h
  | .dbgRegRead .. => execDbgRegRead_canonical h
  | .dbgRegWrite .. => execDbgRegWrite_canonical h
  | .dbgPegRead .. => execDbgPegRead_canonical h
  | .dbgPegWrite .. => execDbgPegWrite_canonical h
  | .dbgMemRead .. => execDbgMemRead_canonical h
  | .dbgMemWrite .. => execDbgMemWrite_canonical h
  | .dbgTraceClear .. => execDbgTraceClear_canonical h
  | .dbgTraceMark .. => execDbgTraceMark_canonical h
  | .bypass .. => execBypass_canonical h
  | .idcode .. => execIdcode_canonical h
  | .samplePreload .. => execSamplePreload_canonical h
  | .extest .. => execExtest_canonical h
  | .clamp .. => execClamp_canonical h
  | .highz .. => execHighz_canonical h
  | .dbgacc .. => execDbgacc_canonical h
  | .smbIdentity .. => execSmbIdentity_canonical h
  | .smbState .. => execSmbState_canonical h
  | .smbTemperatures .. => execSmbTemperatures_canonical h
  | .smbPowers .. => execSmbPowers_canonical h
  | .smbLatestFault .. => execSmbLatestFault_canonical h
  | .pwrOkRise .. => execPwrOkRise_canonical h
  | .pwrOkFall .. => execPwrOkFall_canonical h
  | .resetNFall .. => execResetNFall_canonical h
  | .resetNRise .. => execResetNRise_canonical h
  | .thermalTrip .. => execThermalTrip_canonical h
  | .refclkLost .. => execRefclkLost_canonical h
  | .railExcursion .. => execRailExcursion_canonical h
  | .powerCapEval .. => execPowerCapEval_canonical h
  | .stewardLinkReset .. => execStewardLinkReset_canonical h
  | .pegInitDone .. => execPegInitDone_canonical h
  | .pegSweepDone .. => execPegSweepDone_canonical h
  | .dieInternalFault .. => execDieInternalFault_canonical h
  | .refclkReturn .. => execRefclkReturn_canonical h
  | .busMasterEnable .. => execBusMasterEnable_canonical h
  | .testLogicReset .. => execTestLogicReset_canonical h

/-- The command at the front keeps the form, and so does the tick. -/
theorem step_canonical (h : s.Canonical) : OutCanonical (step s) := by
  unfold step
  split
  · exact exec_canonical h.updated _
  · exact h.tick.next

end Sys2Proof.Machine

open Sys2Proof Sys2Proof.Machine

/-- Settles O60: the canonical form is kept by every command (`exec_canonical`) and by the tick (`State.Canonical.tick`), so by every step. -/
theorem canonicalKept : Obligations.CanonicalKept := fun _ t h ht => step_canonical h t ht
end

section
/-! CORE_CTRL and ISL_CORE_FREQ (R36, R41, R42, R51, R78, R92, R94): the bits of a register's fields, what a setup write that passes its guard
does, and what RUN, STOP, the clears and a frequency change leave. -/
namespace Sys2Proof.Machine

variable (s : State)

/-! ### Fields of a register -/

theorem testBit_bitsOf (x lo len i : Nat) : (bitsOf x lo len).testBit i = (decide (i < len) && x.testBit (lo + i)) := by
  simp [bitsOf, Nat.testBit_mod_two_pow, Nat.testBit_shiftRight]

/-- A number with one field replaced, cut at the field's two ends. -/
theorem withBits_eq (x lo len v : Nat) :
    withBits x lo len v = 2 ^ lo * (2 ^ len * (x >>> lo >>> len) + v % 2 ^ len) + x % 2 ^ lo := by
  have hlow : x = 2 ^ lo * (x >>> lo) + x % 2 ^ lo := by rw [Nat.shiftRight_eq_div_pow, Nat.div_add_mod]
  have hfield : x >>> lo = 2 ^ len * (x >>> lo >>> len) + bitsOf x lo len := by
    rw [bitsOf, Nat.shiftRight_eq_div_pow _ len, Nat.div_add_mod]
  have hx : x = 2 ^ lo * (2 ^ len * (x >>> lo >>> len)) + 2 ^ lo * bitsOf x lo len + x % 2 ^ lo := by
    rw [← Nat.mul_add, ← hfield, ← hlow]
  simp only [withBits, Nat.shiftLeft_eq, Nat.mul_add, Nat.mul_comm _ (2 ^ lo)]
  omega

theorem testBit_withBits (x lo len v i : Nat) :
    (withBits x lo len v).testBit i = if lo ≤ i ∧ i < lo + len then v.testBit (i - lo) else x.testBit i := by
  rw [withBits_eq, Nat.testBit_two_pow_mul_add _ (Nat.mod_lt _ (Nat.two_pow_pos _)), Nat.testBit_two_pow_mul_add _ (Nat.mod_lt _ (Nat.two_pow_pos _)),
    Nat.testBit_mod_two_pow, Nat.testBit_mod_two_pow, Nat.testBit_shiftRight, Nat.testBit_shiftRight]
  by_cases hlo : i < lo
  · have hout : ¬ (lo ≤ i ∧ i < lo + len) := by omega
    rw [if_pos hlo, if_neg hout, decide_eq_true hlo, Bool.true_and]
  · by_cases hlen : i - lo < len
    · have : lo ≤ i ∧ i < lo + len := by omega
      simp [hlo, hlen, this]
    · have hout : ¬ (lo ≤ i ∧ i < lo + len) := by omega
      have hi : lo + (len + (i - lo - len)) = i := by omega
      simp [hlo, hlen, hout, hi]

theorem bitsOf_withBits_same (x lo len v : Nat) : bitsOf (withBits x lo len v) lo len = v % 2 ^ len := by
  refine Nat.eq_of_testBit_eq fun i => ?_
  rw [testBit_bitsOf, testBit_withBits, Nat.testBit_mod_two_pow]
  by_cases hi : i < len <;> simp [hi]

theorem bitsOf_withBits_other (x lo len v lo' len' : Nat) (h : lo + len ≤ lo' ∨ lo' + len' ≤ lo) :
    bitsOf (withBits x lo len v) lo' len' = bitsOf x lo' len' := by
  refine Nat.eq_of_testBit_eq fun i => ?_
  rw [testBit_bitsOf, testBit_bitsOf, testBit_withBits]
  by_cases hi : i < len'
  · have : ¬ (lo ≤ lo' + i ∧ lo' + i < lo + len) := by omega
    simp [this]
  · simp [hi]

/-- A field within a word reads through the word's width. -/
theorem bitsOf_mod (x lo len n : Nat) (h : lo + len ≤ n) : bitsOf (x % 2 ^ n) lo len = bitsOf x lo len := by
  refine Nat.eq_of_testBit_eq fun i => ?_
  rw [testBit_bitsOf, testBit_bitsOf, Nat.testBit_mod_two_pow]
  by_cases hi : i < len
  · have : lo + i < n := by omega
    simp [this]
  · simp [hi]

theorem State.regN_setFld (off lo len v : Nat) : (s.setFld off lo len v).regN off = withBits (s.regN off) lo len v % 2 ^ 64 := by
  simp [State.setFld, State.setRegN, State.regN]

theorem State.fld_setFld_same (off lo len v : Nat) (h : lo + len ≤ 64) : (s.setFld off lo len v).fld off lo len = v % 2 ^ len := by
  rw [State.fld, State.regN_setFld, bitsOf_mod _ _ _ _ h, bitsOf_withBits_same]

theorem State.fld_setFld_other (off lo len v lo' len' : Nat) (h : lo' + len' ≤ 64) (hd : lo + len ≤ lo' ∨ lo' + len' ≤ lo) :
    (s.setFld off lo len v).fld off lo' len' = s.fld off lo' len' := by
  rw [State.fld, State.regN_setFld, bitsOf_mod _ _ _ _ h, bitsOf_withBits_other _ _ _ _ _ _ hd, State.fld]

theorem RegsOnly.setFld (off lo len v : Nat) : RegsOnly s (s.setFld off lo len v) (fun x => x = off) :=
  fun _ h => State.reg_setFld s _ _ _ _ _ h

theorem State.fld_setCore (c : Nat) (x : Core) (off lo len : Nat) : (s.setCore c x).fld off lo len = s.fld off lo len := rfl

theorem RegsOnly.trans {s t u : State} {P : Nat → Prop} (h : RegsOnly s t P) (g : RegsOnly t u P) : RegsOnly s u P :=
  fun off ho => (g off ho).trans (h off ho)

/-! ### A setup write that passes its guard -/

/-- A setup access changes only the latches. -/
theorem State.accessed_eq (path : Path) : ∃ l, s.accessed path = { s with latch := l } := by
  unfold State.accessed
  split
  · exact ⟨s.latch, rfl⟩
  · exact ⟨_, rfl⟩

@[simp] theorem State.accessed_mem (path : Path) : (s.accessed path).mem = s.mem := by
  obtain ⟨l, hl⟩ := s.accessed_eq path; rw [hl]

@[simp] theorem State.accessed_regs (path : Path) : (s.accessed path).regs = s.regs := by
  obtain ⟨l, hl⟩ := s.accessed_eq path; rw [hl]

@[simp] theorem State.accessed_core (path : Path) (c : Nat) : (s.accessed path).core c = s.core c := by
  obtain ⟨l, hl⟩ := s.accessed_eq path; rw [hl]; rfl

@[simp] theorem State.accessed_eng (path : Path) (c e : Nat) : (s.accessed path).eng c e = s.eng c e := by simp [State.eng]

@[simp] theorem State.accessed_reg (path : Path) (off : Nat) : (s.accessed path).reg off = s.reg off := by simp [State.reg]

@[simp] theorem State.accessed_fld (path : Path) (off lo len : Nat) : (s.accessed path).fld off lo len = s.fld off lo len := by
  simp [State.fld, State.regN]

@[simp] theorem State.accessed_inCode (path : Path) (c pc : Nat) : (s.accessed path).inCode c pc = s.inCode c pc := by
  obtain ⟨l, hl⟩ := s.accessed_eq path; rw [hl]; rfl

@[simp] theorem State.accessed_coreRuns (path : Path) (c : Nat) : (s.accessed path).coreRuns c = s.coreRuns c := by simp [State.coreRuns]

@[simp] theorem State.accessed_coreInReset (path : Path) (c : Nat) : (s.accessed path).coreInReset c = s.coreInReset c := by
  obtain ⟨l, hl⟩ := s.accessed_eq path; rw [hl]; rfl

@[simp] theorem State.accessed_measuresWrites (path : Path) : (s.accessed path).measuresWrites = s.measuresWrites := by
  obtain ⟨l, hl⟩ := s.accessed_eq path; rw [hl]; rfl

@[simp] theorem State.accessed_locked (path by' : Path) (off : Nat) : (s.accessed path).locked by' off = s.locked by' off := by
  obtain ⟨l, hl⟩ := s.accessed_eq path; rw [hl]; rfl

@[simp] theorem otherCores_accessed (path : Path) (t : State) (c : Nat) : OtherCores (s.accessed path) t c ↔ OtherCores s t c := by
  simp [OtherCores]

@[simp] theorem regsOnly_accessed (path : Path) (t : State) (P : Nat → Prop) : RegsOnly (s.accessed path) t P ↔ RegsOnly s t P := by
  simp [RegsOnly]

@[simp] theorem gKept_accessed (path : Path) (t : State) (c : Nat) : GKept (s.accessed path) t c ↔ GKept s t c := by simp [GKept]

/-- The latches take no part in what the guard lets pass. -/
theorem State.mayWrite_latch (path : Path) (off : Nat) (l : List (Path × Nat × Nat)) :
    ({ s with latch := l } : State).mayWrite path off = s.mayWrite path off := by
  have hr : ({ s with latch := l } : State).inReset = s.inReset := rfl
  have ho : ({ s with latch := l } : State).supOwned off = s.supOwned off := rfl
  have hu : ({ s with latch := l } : State).inUse off = s.inUse off := rfl
  have hc (c : Nat) : ({ s with latch := l } : State).coreRuns c = s.coreRuns c := rfl
  cases path <;> cases hk : coreAt off <;> simp [State.mayWrite, State.guard, hr, ho, hu, hc, hk, apply_ite Option.isNone]

theorem State.guarded_of_mayWrite {s : State} {path : Path} {off : Nat} (h : s.mayWrite path off = true) (f : State → State) :
    s.guarded path off f = .next (f (s.accessed path)) := by
  obtain ⟨l, hl⟩ := s.accessed_eq path
  rw [← State.mayWrite_latch s path off l, ← hl, State.mayWrite, Option.isNone_iff_eq_none] at h
  simp [State.guarded, h]

/-! ### RUN and STOP -/

theorem testBit_oneEngine (e : Fin 6) (i : Nat) : (BitVec.ofNat 6 (2 ^ e.val)).toNat.testBit i = decide (e.val = i) := by
  have h : 2 ^ e.val < 2 ^ 6 := Nat.pow_lt_pow_right (by decide) e.isLt
  rw [BitVec.toNat_ofNat, Nat.mod_eq_of_lt h, Nat.testBit_two_pow]

/-- A fold that acts on one element of a list without repetitions acts once. -/
theorem foldl_single {α : Type} (f : α → Nat → α) (e : Nat) (l : List Nat) (hl : l.Nodup) (a : α) :
    l.foldl (fun t i => if e = i then f t i else t) a = if e ∈ l then f a e else a := by
  induction l generalizing a with
  | nil => rfl
  | cons i l ih =>
    obtain ⟨hi, hl⟩ := List.nodup_cons.mp hl
    rw [List.foldl_cons, ih hl]
    by_cases he : e = i
    · subst he; simp [hi]
    · simp [he]

/-- A mask of one bit acts on that engine alone. -/
theorem State.eachEng_single (e : Fin 6) (f : State → Nat → State) :
    s.eachEng (BitVec.ofNat 6 (2 ^ e.val)).toNat f = f s e := by
  simp only [State.eachEng, testBit_oneEngine, decide_eq_true_eq]
  rw [foldl_single f e _ List.nodup_range, if_pos (by simp)]

theorem State.runEng_halted {s : State} {c e : Nat} (hst : (s.eng c e).st = .halted) (hd : (s.eng c e).dhold = false)
    (hr : s.coreInReset c = false) (hin : s.inCode c (s.fld (Reg.engStart c e) 0 20) = true)
    (hal : s.fld (Reg.engStart c e) 0 20 % insnSize e = 0) :
    s.runEng c e = s.setEng c e { s.eng c e with st := .issuing, pc := s.fld (Reg.engStart c e) 0 20, iq := [], loops := [] } := by
  have hin' (x : Eng) : (s.setEng c e x).inCode c (s.fld (Reg.engStart c e) 0 20) = true := hin
  simp [State.runEng, hst, hd, hr, hin', hal]

theorem State.runEng_stopped {s : State} {c e : Nat} (hst : (s.eng c e).st = .stopped) (hd : (s.eng c e).dhold = false)
    (hr : s.coreInReset c = false) : s.runEng c e = s.setEng c e { s.eng c e with st := .issuing } := by
  simp [State.runEng, hst, hd, hr]

/-- What the stopped engine holds: its wait is over, its place and loops stand. -/
def Eng.stoppedNow (k : Eng) : Eng := { k with st := .stopped, reports := [], repNew := [], grant := none }


theorem OtherCores.setCore (c : Nat) (x : Core) : OtherCores s (s.setCore c x) c := fun d hd => by simp [State.core_setCore, hd]

theorem OtherCores.trans {s t u : State} {c : Nat} (h : OtherCores s t c) (g : OtherCores t u c) : OtherCores s u c :=
  fun k hk => (g k hk).trans (h k hk)

/-- A core written with the same engines. -/
theorem State.eng_setCore_engs {s : State} {c : Nat} {x : Core} (h : x.engs = (s.core c).engs) (d e : Nat) : (s.setCore c x).eng d e = s.eng d e := by
  by_cases hd : d = c
  · subst hd; simp [State.eng, Core.eng, h]
  · simp [State.eng, State.core_setCore, hd]

theorem State.eng_withdraw (c e d f : Nat) : (s.withdraw c e).eng d f = s.eng d f := rfl

theorem State.eng_endWait (c e f : Nat) :
    (s.endWait c e).eng c f = if f = e then { s.eng c e with reports := [], repNew := [], grant := none } else s.eng c f := by
  simp only [State.endWait, State.eng_setEng, true_and]
  rfl

theorem State.endWait_otherCores (c e : Nat) : OtherCores s (s.endWait c e) c := OtherCores.setCore _ c _

/-- The running engine e stopped, before the stream engine's window is closed. -/
def State.engStopped (s : State) (c e : Nat) : State :=
  let u := (s.withdraw c e).endWait c e
  u.setEng c e { u.eng c e with st := .stopped }

theorem State.stopEng_of_runs {s : State} {c e : Nat} (h : (s.eng c e).st.runs = true) :
    s.stopEng c e = if e = 4 then
        (s.engStopped c e).setCore c { (s.engStopped c e).core c with str := { ((s.engStopped c e).core c).str with window := none } }
      else s.engStopped c e := by
  simp [State.stopEng, State.engStopped, h]

theorem State.eng_engStopped (c e f : Nat) : (s.engStopped c e).eng c f = if f = e then (s.eng c e).stoppedNow else s.eng c f := by
  by_cases hf : f = e <;> simp [State.engStopped, State.eng_setEng, State.eng_endWait, State.eng_withdraw, Eng.stoppedNow, hf]

theorem State.engStopped_otherCores (c e : Nat) : OtherCores s (s.engStopped c e) c :=
  OtherCores.trans (State.endWait_otherCores (s.withdraw c e) c e) (OtherCores.setCore _ c _)

theorem State.eng_stopEng {s : State} {c e : Nat} (h : (s.eng c e).st.runs = true) (f : Nat) :
    (s.stopEng c e).eng c f = if f = e then (s.eng c e).stoppedNow else s.eng c f := by
  rw [State.stopEng_of_runs h, ← State.eng_engStopped]
  split
  · rw [State.eng_setCore_engs (s := s.engStopped c e) (by rfl)]
  · rfl

theorem State.stopEng_otherCores {s : State} {c e : Nat} (h : (s.eng c e).st.runs = true) : OtherCores s (s.stopEng c e) c := by
  rw [State.stopEng_of_runs h]
  split
  · exact (s.engStopped_otherCores c e).trans (OtherCores.setCore _ c _)
  · exact s.engStopped_otherCores c e

theorem State.stopEng_window {s : State} {c : Nat} (h : (s.eng c 4).st.runs = true) : ((s.stopEng c 4).core c).str.window = none := by
  rw [State.stopEng_of_runs h]
  simp

theorem State.stopEng_mem (c e : Nat) : (s.stopEng c e).mem = s.mem := by
  unfold State.stopEng
  split
  · dsimp only; split <;> rfl
  · rfl

theorem State.stopEng_regs (c e : Nat) : (s.stopEng c e).regs = s.regs := by
  unfold State.stopEng
  split
  · dsimp only; split <;> rfl
  · rfl

/-! ### TALLY_CLEAR and QUEUE_CLEAR -/

theorem State.tallyClear_of_rest {s : State} {c : Nat} (h : s.coreRuns c = false) :
    s.tallyClear c = s.setCore c { s.core c with tally := [], tops := [], stirred := true } := by
  simp [State.tallyClear, h]

/-- The engine with its address and parameter queues empty. -/
def Eng.noQueues (k : Eng) : Eng := { k with aq := [], pq := [], aqNew := [], pqNew := [] }

/-- Engines written one after the other, each from what it holds: every engine of the list is written, and nothing else of the state. -/
theorem State.foldl_setEng (c : Nat) (f : Eng → Eng) (l : List Nat) (hl : l.Nodup) :
    let t := l.foldl (fun t e => t.setEng c e (f (t.eng c e))) s
    CoreOnly s t ∧ OtherCores s t c ∧ GKept s t c ∧ ∀ e, t.eng c e = if e ∈ l then f (s.eng c e) else s.eng c e := by
  induction l generalizing s with
  | nil => exact ⟨rfl, fun _ _ => rfl, ⟨rfl, rfl⟩, fun e => by simp⟩
  | cons i l ih =>
    obtain ⟨hi, hl⟩ := List.nodup_cons.mp hl
    obtain ⟨hc, ho, ⟨hg, hp⟩, he⟩ := ih (s.setEng c i (f (s.eng c i))) hl
    refine ⟨CoreOnly.trans (CoreOnly.setCore _ _ _) hc, OtherCores.trans (OtherCores.setCore _ c _) ho, ⟨?_, ?_⟩, fun e => ?_⟩
    · rw [List.foldl_cons, hg]; simp [State.setEng, Core.setEng]
    · rw [List.foldl_cons, hp]; simp [State.setEng, Core.setEng]
    · rw [List.foldl_cons, he, State.eng_setEng]
      by_cases h : e = i
      · subst h; simp [hi]
      · simp [h]

theorem State.queueClear_of_rest {s : State} {c : Nat} (h : s.coreRuns c = false) :
    s.queueClear c = (List.range 5).foldl (fun t e => t.setEng c e (t.eng c e).noQueues) s := by
  simp [State.queueClear, h, State.clearQueues, Eng.noQueues]

/-! ### ISL_CORE_FREQ -/

theorem State.freqWrite_unlocked {s : State} {path : Path} {c v : Nat} (hv : bitsOf v 0 4 < 13) (hl : s.locked path (Reg.coreFreq c) = false)
    (hm : s.measuresWrites = false) : s.freqWrite path c v = s.setFreq c (bitsOf v 0 4) := by
  simp [State.freqWrite, Nat.not_le.mpr hv, hl, hm]

theorem State.freqWrite_reserved {path : Path} {c v : Nat} (hv : 13 ≤ bitsOf v 0 4) : s.freqWrite path c v = s.unmapped (Reg.coreFreq c) := by
  simp [State.freqWrite, hv]

/-- A change of a running island's step: the step stands in the register, the change is under way and the clock is held. -/
theorem State.setFreq_of_running {s : State} {c step : Nat} (hb : s.fld (Reg.coreFreq c) 31 1 = 0) (hon : (s.core c).clkOn = true)
    (hs : step ≠ s.fld (Reg.coreFreq c) 16 4) :
    s.setFreq c step = ((s.setFld (Reg.coreFreq c) 0 4 step).setFld (Reg.coreFreq c) 31 1 1).setCore c { s.core c with clkHeld := true } := by
  have hcur := State.fld_setFld_other s (Reg.coreFreq c) 0 4 step 16 4 (by decide) (by decide)
  have hcore : (s.setFld (Reg.coreFreq c) 0 4 step).core c = s.core c := rfl
  simp [State.setFreq, hb, hcur, hcore, hon, hs]

theorem State.relocked_of_change {s : State} {c : Nat} (hb : s.fld (Reg.coreFreq c) 31 1 = 1) (hk : (s.core c).kept = none) :
    s.relocked c = ((s.setFld (Reg.coreFreq c) 16 4 (s.fld (Reg.coreFreq c) 0 4)).setFld (Reg.coreFreq c) 31 1 0).setCore c
      { s.core c with clkHeld := false, kept := none } := by
  simp [State.relocked, hb, hk]

/-- Two fields of a register written, and then a core whose engines stand. -/
theorem twoFields_frame (off lo len v lo' len' v' c : Nat) (x : Core) (hx : x.engs = (s.core c).engs) :
    let t := ((s.setFld off lo len v).setFld off lo' len' v').setCore c x
    CoreOnly s t ∧ OtherCores s t c ∧ (∀ e, t.eng c e = s.eng c e) ∧ RegsOnly s t (fun r => r = off) :=
  ⟨rfl, fun _ hd => State.core_setCore _ c _ x |>.trans (if_neg hd),
    State.eng_setCore_engs (s := (s.setFld off lo len v).setFld off lo' len' v') hx c,
    (RegsOnly.setFld s off lo len v).trans (RegsOnly.setFld _ off lo' len' v')⟩

/-! ### The commands, once their write has passed the guard -/

theorem execRun_of_mayWrite {c : Fin 64} {path : Path} {s : State} (h : s.mayWrite path (Reg.coreBase c) = true) (e : Fin 6) :
    exec (.run c path (BitVec.ofNat 6 (2 ^ e.val))) s = .next ((s.accessed path).runEng c e) := by
  rw [show exec (.run c path (BitVec.ofNat 6 (2 ^ e.val))) s = s.guarded path (Reg.coreBase c) (fun t => t.eachEng _ fun t f => t.runEng c f)
    from rfl, State.guarded_of_mayWrite h, State.eachEng_single]

theorem execStop_of_mayWrite {c : Fin 64} {path : Path} {s : State} (h : s.mayWrite path (Reg.coreBase c) = true) (e : Fin 6) :
    exec (.stop c path (BitVec.ofNat 6 (2 ^ e.val))) s = .next ((s.accessed path).stopEng c e) := by
  rw [show exec (.stop c path (BitVec.ofNat 6 (2 ^ e.val))) s = s.guarded path (Reg.coreBase c) (fun t => t.eachEng _ fun t f => t.stopEng c f)
    from rfl, State.guarded_of_mayWrite h, State.eachEng_single]

theorem execTallyClear_of_mayWrite {c : Fin 64} {path : Path} {s : State} (h : s.mayWrite path (Reg.coreBase c) = true) :
    exec (.tallyClear c path) s = .next ((s.accessed path).tallyClear c) :=
  State.guarded_of_mayWrite h fun t => t.tallyClear c

theorem execQueueClear_of_mayWrite {c : Fin 64} {path : Path} {s : State} (h : s.mayWrite path (Reg.coreBase c) = true) :
    exec (.queueClear c path) s = .next ((s.accessed path).queueClear c) :=
  State.guarded_of_mayWrite h fun t => t.queueClear c

theorem execCoreFreqChange_of_mayWrite {c : Fin 64} {path : Path} {v : BitVec 32} {s : State} (h : s.mayWrite path (Reg.coreFreq c) = true) :
    exec (.coreFreqChange c path v) s = .next ((s.accessed path).freqWrite path c v.toNat) :=
  State.guarded_of_mayWrite h fun t => t.freqWrite path c v.toNat

/-! ### The effects, as the obligation states them -/

/-- STOP of a running engine (R51, R626). -/
theorem State.stopEng_spec {s : State} {c e : Nat} (h : (s.eng c e).st.runs = true) :
    let t := s.stopEng c e
    (t.eng c e).st = .stopped ∧ (t.eng c e).pc = (s.eng c e).pc ∧ (t.eng c e).loops = (s.eng c e).loops ∧ OtherCores s t c ∧
      t.mem = s.mem ∧ t.regs = s.regs ∧ (∀ f, f ≠ e → t.eng c f = s.eng c f) ∧ (e = 4 → (t.core c).str.window = none) := by
  have he : (s.stopEng c e).eng c e = (s.eng c e).stoppedNow := by rw [State.eng_stopEng h, if_pos rfl]
  refine ⟨by rw [he]; rfl, by rw [he]; rfl, by rw [he]; rfl, State.stopEng_otherCores h, s.stopEng_mem c e, s.stopEng_regs c e,
    fun f hf => by rw [State.eng_stopEng h, if_neg hf], fun h4 => ?_⟩
  subst h4
  exact State.stopEng_window h

/-- TALLY_CLEAR of a core at rest (R92). -/
theorem State.tallyClear_spec {s : State} {c : Nat} (h : s.coreRuns c = false) :
    let t := s.tallyClear c
    (∀ k, t.tally c k = 0) ∧ CoreOnly s t ∧ OtherCores s t c ∧ GKept s t c ∧ ∀ e, t.eng c e = s.eng c e := by
  rw [State.tallyClear_of_rest h]
  refine ⟨fun k => ?_, CoreOnly.setCore _ _ _, OtherCores.setCore _ _ _, ⟨?_, ?_⟩, fun e => State.eng_setCore_engs (s := s) (by rfl) c e⟩
  · rw [State.tally, State.core_setCore_self]; rfl
  · rw [State.core_setCore_self]
  · rw [State.core_setCore_self]

/-- QUEUE_CLEAR of a core at rest (R78). -/
theorem State.queueClear_spec {s : State} {c : Nat} (h : s.coreRuns c = false) :
    let t := s.queueClear c
    CoreOnly s t ∧ OtherCores s t c ∧ GKept s t c ∧ t.eng c 5 = s.eng c 5 ∧ ∀ e, e < 5 → t.eng c e = (s.eng c e).noQueues := by
  rw [State.queueClear_of_rest h]
  obtain ⟨hcore, hother, hg, heng⟩ := s.foldl_setEng c Eng.noQueues (List.range 5) List.nodup_range
  refine ⟨hcore, hother, hg, ?_, fun e he => ?_⟩
  · exact (heng 5).trans (if_neg (by simp))
  · exact (heng e).trans (if_pos (List.mem_range.mpr he))

/-- A frequency change of a running island begins (R41, R42). -/
theorem State.setFreq_spec {s : State} {c step : Nat} (hv : step < 13) (hb : s.fld (Reg.coreFreq c) 31 1 = 0) (hon : (s.core c).clkOn = true)
    (hs : step ≠ s.fld (Reg.coreFreq c) 16 4) :
    let r := Reg.coreFreq c
    let t := s.setFreq c step
    t.fld r 0 4 = step ∧ t.fld r 31 1 = 1 ∧ t.fld r 16 4 = s.fld r 16 4 ∧ (t.core c).clkHeld = true ∧
      CoreOnly s t ∧ OtherCores s t c ∧ (∀ e, t.eng c e = s.eng c e) ∧ RegsOnly s t (fun off => off = r) := by
  rw [State.setFreq_of_running hb hon hs]
  refine ⟨?_, ?_, ?_, by rw [State.core_setCore_self], twoFields_frame _ _ _ _ _ _ _ _ _ _ rfl⟩
  · rw [State.fld_setCore, State.fld_setFld_other _ _ _ _ _ _ _ (by decide) (by decide), State.fld_setFld_same _ _ _ _ _ (by decide)]
    omega
  · rw [State.fld_setCore]
    exact (State.fld_setFld_same _ _ _ _ _ (by decide)).trans (by decide)
  · rw [State.fld_setCore, State.fld_setFld_other _ _ _ _ _ _ _ (by decide) (by decide),
      State.fld_setFld_other _ _ _ _ _ _ _ (by decide) (by decide)]

/-- The relock ends a frequency change: CUR shows the step, and the clock runs (R41, R42). -/
theorem State.relocked_spec {s : State} {c : Nat} (hb : s.fld (Reg.coreFreq c) 31 1 = 1) (hk : (s.core c).kept = none) :
    let r := Reg.coreFreq c
    let t := s.relocked c
    t.fld r 16 4 = s.fld r 0 4 ∧ t.fld r 31 1 = 0 ∧ (t.core c).clkHeld = false ∧
      CoreOnly s t ∧ OtherCores s t c ∧ (∀ e, t.eng c e = s.eng c e) ∧ RegsOnly s t (fun off => off = r) := by
  rw [State.relocked_of_change hb hk]
  refine ⟨?_, ?_, by rw [State.core_setCore_self], twoFields_frame _ _ _ _ _ _ _ _ _ _ rfl⟩
  · rw [State.fld_setCore, State.fld_setFld_other _ _ _ _ _ _ _ (by decide) (by decide), State.fld_setFld_same _ _ _ _ _ (by decide)]
    exact Nat.mod_eq_of_lt (Nat.mod_lt _ (by decide))
  · rw [State.fld_setCore]
    exact (State.fld_setFld_same _ _ _ _ _ (by decide)).trans (by decide)

end Sys2Proof.Machine

open Sys2Proof Sys2Proof.Machine

/-- Settles O11: a write that passes the guard has its effect on the state with the path's latch consumed, which holds the same cores,
registers and memory; the effects are those of `runEng`, `stopEng`, the two clears, `setFreq` and `relocked`. -/
theorem coreControlAndFrequency : Obligations.CoreControlAndFrequency := by
  refine ⟨fun c path s hw => ⟨fun e => ?run, fun e => ?resume, fun e hst => ?stop, fun hrest => ?tally, fun hrest => ?queue⟩,
    fun c path v s => ⟨fun hw hv hlock hm hb hon hs => ?change, fun hw hv => ?reserved, fun hb hk => ?relock⟩⟩
  case run =>
    intro start hst hd hr hin hal
    rw [execRun_of_mayWrite hw, State.runEng_halted (by simpa) (by simpa) (by simpa) (by simpa) (by simpa)]
    simp [start]
  case resume =>
    intro hst hd hr
    rw [execRun_of_mayWrite hw, State.runEng_stopped (by simpa) (by simpa) (by simpa)]
    simp
  case stop =>
    exact ⟨_, execStop_of_mayWrite hw e, by simpa using State.stopEng_spec (s := s.accessed path) (c := c) (e := e) (by simpa using hst)⟩
  case tally =>
    exact ⟨_, execTallyClear_of_mayWrite hw, by simpa using State.tallyClear_spec (s := s.accessed path) (c := c) (by simpa using hrest)⟩
  case queue =>
    exact ⟨_, execQueueClear_of_mayWrite hw, by
      simpa [Eng.noQueues] using State.queueClear_spec (s := s.accessed path) (c := c) (by simpa using hrest)⟩
  case change =>
    have hf : (s.accessed path).freqWrite path c v.toNat = (s.accessed path).setFreq c (bitsOf v.toNat 0 4) :=
      State.freqWrite_unlocked hv (by simpa) (by simpa)
    exact ⟨_, execCoreFreqChange_of_mayWrite hw, hf ▸ by
      simpa using State.setFreq_spec (s := s.accessed path) (c := c) hv (by simpa) (by simpa) (by simpa)⟩
  case reserved => rw [execCoreFreqChange_of_mayWrite hw, State.freqWrite_reserved _ hv]
  case relock => exact ⟨_, rfl, State.relocked_spec hb hk⟩

end

section
/-! What the proofs about the outer-product engines read: tables and bytes after a write, an engine's OPE beside its other parts, frames of
operations that touch memory and registers only, and the answers of an issue. -/
namespace Sys2Proof.Machine
open Sys2Proof.Laws Sys2Proof.Laws.Tab

variable (s : State)

/-! ### Tables built from a function, and ranges written -/

theorem get_filterMap_entries {α : Type} [DecidableEq α] (d f : Nat → α) (l : List Nat) (k : Nat) :
    Tab.get d (l.filterMap (fun k => let v := f k; if v = d k then none else some (k, v))) k = if k ∈ l then f k else d k := by
  induction l with
  | nil => rfl
  | cons a l ih =>
    by_cases ha : f a = d a
    · by_cases hk : k = a
      · subst hk; simp_all
      · simp_all
    · by_cases hk : a = k
      · subst hk; simp [ha, Tab.get]
      · simp_all [Tab.get, eq_comm]

theorem get_build {α : Type} [DecidableEq α] (d f : Nat → α) {n k : Nat} (h : k < n) : Tab.get d (Tab.build d n f) k = f k := by
  rw [Tab.build, get_filterMap_entries, if_pos (List.mem_range.mpr h)]

/-- A cell of a bank made from its cells. -/
theorem cellAt_cells (f : Nat → Nat → W32) {i j : Nat} (hi : i < 32) (hj : j < 32) : cellAt (cells f) i j = f i j := by
  have hrow : (32 * i + j) / 32 = i := by omega
  have hcol : (32 * i + j) % 32 = j := by omega
  rw [cellAt, cells, get_build _ _ (by omega), hrow, hcol]

theorem get_setRange_inside {α : Type} [DecidableEq α] (d : Nat → α) (vs : List α) :
    ∀ (t : Tab α) (k i : Nat) (h : i < vs.length), Tab.get d (Tab.setRange d t k vs) (k + i) = vs[i] := by
  induction vs with
  | nil => intro t k i h; exact absurd h (Nat.not_lt_zero i)
  | cons v vs ih =>
    intro t k i h
    cases i with
    | zero => rw [Nat.add_zero, Tab.setRange, get_setRange _ _ _ _ _ (.inl (Nat.lt_succ_self k)), get_set_self]; rfl
    | succ i => rw [Tab.setRange, show k + (i + 1) = k + 1 + i by omega, ih _ _ _ (Nat.lt_of_succ_lt_succ h)]; rfl

/-! ### Bytes and words of memory after a write -/

theorem State.rd8_wr_inside (k : Nat) (bs : List Byte) (i : Nat) (h : i < bs.length) : (s.wr k bs).rd8 (k + i) = bs[i] :=
  get_setRange_inside _ _ _ _ _ h

@[simp] theorem State.rdBytes_length (k n : Nat) : (s.rdBytes k n).length = n := by
  induction n generalizing k with
  | zero => rfl
  | succ n ih => simp [State.rdBytes, ih]

theorem State.rdBytes_getElem (k n i : Nat) (h : i < (s.rdBytes k n).length) : (s.rdBytes k n)[i] = s.rd8 (k + i) := by
  induction n generalizing k i with
  | zero => simp at h
  | succ n ih =>
    cases i with
    | zero => rfl
    | succ i => simp only [State.rdBytes, List.getElem_cons_succ, ih]; congr 1; omega

/-- Bytes read within a run that was written are those of the run. -/
theorem State.rdBytes_wr_inside (k i n : Nat) (bs : List Byte) (h : i + n ≤ bs.length) :
    (s.wr k bs).rdBytes (k + i) n = (bs.drop i).take n := by
  refine List.ext_getElem (by simp; omega) fun m hm _ => ?_
  rw [State.rdBytes_length] at hm
  rw [State.rdBytes_getElem, Nat.add_assoc, State.rd8_wr_inside _ _ _ _ (by omega)]
  simp

/-- Bytes read clear of a run that was written are as before. -/
theorem State.rdBytes_wr_outside (k k' n : Nat) (bs : List Byte) (h : k' + n ≤ k ∨ k + bs.length ≤ k') :
    (s.wr k bs).rdBytes k' n = s.rdBytes k' n := by
  refine List.ext_getElem (by simp) fun m hm _ => ?_
  rw [State.rdBytes_length] at hm
  rw [State.rdBytes_getElem, State.rdBytes_getElem, State.rd8_wr _ _ _ _ (by omega)]

theorem State.rdLE_of_mem {s t : State} (h : t.mem = s.mem) (k n : Nat) : t.rdLE k n = s.rdLE k n := by
  have hbytes : t.rdBytes k n = s.rdBytes k n := by
    refine List.ext_getElem (by simp) fun m _ _ => ?_
    rw [State.rdBytes_getElem, State.rdBytes_getElem, State.rd8, State.rd8, h]
  rw [State.rdLE, hbytes]; rfl

theorem State.rdLE_wrLE (k n v : Nat) : (s.wrLE k n v).rdLE k n = v % 256 ^ n := by
  have h := s.rdBytes_wr_inside k 0 n (leBytes n v) (by simp [leBytes_length])
  rw [Nat.add_zero, List.drop_zero, List.take_of_length_le (Nat.le_of_eq (leBytes_length n v))] at h
  rw [State.rdLE, State.wrLE, h, leNat_leBytes]

theorem leNat_lt (bs : List Byte) : leNat bs < 256 ^ bs.length := by
  induction bs with
  | nil => exact Nat.one_pos
  | cons b bs ih =>
    have hb := b.isLt
    rw [leNat, List.length_cons, Nat.pow_succ]
    omega

theorem State.rdLE_lt (k n : Nat) : s.rdLE k n < 256 ^ n := by
  simpa [State.rdLE] using leNat_lt (s.rdBytes k n)

theorem MemOnly.wrLE (k n v : Nat) : MemOnly s (s.wrLE k n v) (Within k n) := fun j hj =>
  State.rd8_wr _ _ _ _ (by rw [leBytes_length]; unfold Within at hj; omega)

/-! ### An engine's OPE, its queues, and the rest of its core -/

theorem State.core_of_cores {s t : State} (h : t.cores = s.cores) (c : Nat) : t.core c = s.core c := by unfold State.core; rw [h]

theorem State.eng_of_cores {s t : State} (h : t.cores = s.cores) (c e : Nat) : t.eng c e = s.eng c e := by
  rw [State.eng, State.core_of_cores h]; rfl

theorem State.ope_of_cores {s t : State} (h : t.cores = s.cores) (c e : Nat) : t.ope c e = s.ope c e := by
  rw [State.ope, State.core_of_cores h]; rfl

theorem OtherCores.of_cores {s t : State} (h : t.cores = s.cores) (c : Nat) : OtherCores s t c := fun d _ => State.core_of_cores h d

/-- A core written with the same OPEs. -/
theorem State.ope_setCore_opes {s : State} {c : Nat} {x : Core} (h : x.opes = (s.core c).opes) (d e : Nat) : (s.setCore c x).ope d e = s.ope d e := by
  by_cases hd : d = c
  · subst hd; simp [State.ope, Core.ope, h]
  · simp [State.ope, State.core_setCore, hd]

@[simp] theorem State.ope_setOpe_self (c e : Nat) (x : Ope) : (s.setOpe c e x).ope c e = x := by
  simp [State.setOpe, State.ope, Core.setOpe, Core.ope]

@[simp] theorem State.eng_setOpe (c e : Nat) (x : Ope) (d f : Nat) : (s.setOpe c e x).eng d f = s.eng d f :=
  State.eng_setCore_engs (s := s) (x := (s.core c).setOpe e x) rfl d f

@[simp] theorem State.ope_setEng (c e : Nat) (k : Eng) (d f : Nat) : (s.setEng c e k).ope d f = s.ope d f :=
  State.ope_setCore_opes (s := s) (x := (s.core c).setEng e k) rfl d f

theorem State.eng_popA (c e : Nat) : (s.popA c e).eng c e = { s.eng c e with aq := (s.eng c e).aq.drop 1 } := State.eng_setEng_self _ _ _ _

theorem State.eng_popP (c e : Nat) : (s.popP c e).eng c e = { s.eng c e with pq := (s.eng c e).pq.drop 1 } := State.eng_setEng_self _ _ _ _

theorem State.pc_popP (c e : Nat) : ((s.popP c e).eng c e).pc = (s.eng c e).pc := by rw [State.eng_popP]

theorem State.eng_popA_cons {s : State} {c e : Nat} {x : W64} {rest : List W64} (h : (s.eng c e).aq = x :: rest) :
    (s.popA c e).eng c e = { s.eng c e with aq := rest } := by
  rw [State.eng_popA, h]; rfl

theorem State.eng_popP_cons {s : State} {c e : Nat} {n : W32} {rest : List W32} (h : (s.eng c e).pq = n :: rest) :
    (s.popP c e).eng c e = { s.eng c e with pq := rest } := by
  rw [State.eng_popP, h]; rfl

theorem OtherCores.setEng (c e : Nat) (k : Eng) : OtherCores s (s.setEng c e k) c := OtherCores.setCore _ _ _

theorem OtherCores.setOpe (c e : Nat) (x : Ope) : OtherCores s (s.setOpe c e x) c := OtherCores.setCore _ _ _

/-- An engine's queue popped and then its OPE written: nothing outside its core. -/
theorem popA_setOpe_frame (c e : Nat) (x : Ope) : CoreOnly s ((s.popA c e).setOpe c e x) ∧ OtherCores s ((s.popA c e).setOpe c e x) c :=
  ⟨rfl, (OtherCores.setEng s c e _).trans (OtherCores.setOpe _ c e x)⟩

theorem popP_setOpe_frame (c e : Nat) (x : Ope) : CoreOnly s ((s.popP c e).setOpe c e x) ∧ OtherCores s ((s.popP c e).setOpe c e x) c :=
  ⟨rfl, (OtherCores.setEng s c e _).trans (OtherCores.setOpe _ c e x)⟩

@[simp] theorem Ope.ty_setTy_self (o : Ope) (b t : Nat) : (o.setTy b t).ty b = t := by unfold Ope.setTy Ope.ty; split <;> rfl

@[simp] theorem Ope.bank_setBank_self (o : Ope) (b : Nat) (t : Tab W32) : (o.setBank b t).bank b = t := by
  unfold Ope.setBank Ope.bank; split <;> rfl

/-! ### Operations on memory and registers, and on cores and registers -/

/-- Nothing outside memory and the registers has changed. -/
def MemRegs (s t : State) : Prop := t = { s with regs := t.regs, mem := t.mem }

theorem MemRegs.refl : MemRegs s s := rfl

theorem MemRegs.trans {s t u : State} (h : MemRegs s t) (g : MemRegs t u) : MemRegs s u := by
  unfold MemRegs at *; rw [g, h]

theorem MemRegs.cores {s t : State} (h : MemRegs s t) : t.cores = s.cores := by rw [h]

theorem MemRegs.wr (k : Nat) (bs : List Byte) : MemRegs s (s.wr k bs) := rfl

theorem MemRegs.wrLE (k n v : Nat) : MemRegs s (s.wrLE k n v) := MemRegs.wr s k _

theorem MemRegs.setReg (off : Nat) (v : W64) : MemRegs s (s.setReg off v) := rfl

theorem RegsOnly.setRegN (off v : Nat) : RegsOnly s (s.setRegN off v) (fun r => r = off) := fun _ hr =>
  (State.reg_setReg _ _ _ _).trans (if_neg hr)

/-- Flags set in a sticky register: nothing to do, or one write of it. -/
theorem State.orReg_cases (off m : Nat) : s.orReg off m = s ∨ s.orReg off m = s.setRegN off (s.regN off ||| m) := by
  unfold State.orReg
  split
  · exact .inl rfl
  · exact .inr rfl

theorem RegsOnly.orReg (off m : Nat) : RegsOnly s (s.orReg off m) (fun r => r = off) := by
  rcases s.orReg_cases off m with h | h <;> rw [h]
  · exact fun _ _ => rfl
  · exact RegsOnly.setRegN s off _

theorem CoreOnly.orReg (off m : Nat) : CoreOnly s (s.orReg off m) := by
  rcases s.orReg_cases off m with h | h <;> rw [h] <;> rfl

theorem MemRegs.orReg (off m : Nat) : MemRegs s (s.orReg off m) := by
  rcases s.orReg_cases off m with h | h <;> rw [h] <;> rfl

theorem MemRegs.ite {s : State} {p : Prop} [Decidable p] {a b : State} (ha : MemRegs s a) (hb : MemRegs s b) : MemRegs s (if p then a else b) := by
  split
  · exact ha
  · exact hb

theorem MemRegs.foldl {α : Type} {f : State → α → State} (hf : ∀ t a, MemRegs t (f t a)) :
    ∀ (l : List α) (s : State), MemRegs s (l.foldl f s)
  | [], s => MemRegs.refl s
  | a :: l, s => (hf s a).trans (MemRegs.foldl hf l (f s a))

theorem CoreOnly.coreMem {s t : State} (h : CoreOnly s t) : CoreMem s t := by unfold CoreMem; rw [h]

theorem CoreMem.trans {s t u : State} (h : CoreMem s t) (g : CoreMem t u) : CoreMem s u := by
  unfold CoreMem at *; rw [g, h]

theorem MemRegs.coreMem {s t : State} (h : MemRegs s t) : CoreMem s t := by unfold CoreMem; rw [h]

/-! ### What an issue answers -/

/-- An engine instruction whose own part answers a fault does not issue (R90). -/
theorem State.issue_fault {s : State} {c e opc code x d2 d3 : Nat} {w : EngW} {own : Bool} {body : State → IssueRes}
    (h : s.mayIssue c e opc w = true) (ho : own = true) (hb : body s = .fault code x d2 d3) :
    s.issue c e opc w own body = .next (s.precise c e code x d2 d3) := by
  simp only [State.mayIssue, Bool.and_eq_true] at h
  obtain ⟨⟨h1, h2⟩, h3⟩ := h
  simp [State.issue, State.front_of_atWord h1, ho, h2, h3, hb]

theorem insnOwn_mma (e : Fin 2) (w : EngW) :
    insnOwn e 0x10 w = decide (w.opnd.toNat < 2 ^ 13 ∧ bitsOf w.opnd.toNat 0 4 ≤ 10 ∧ bitsOf w.opnd.toNat 4 4 ≤ 10) :=
  match e with
  | 0 => rfl
  | 1 => rfl

theorem insnOwn_swap (e : Fin 2) (w : EngW) : insnOwn e 0x11 w = (w.opnd == 0) :=
  match e with
  | 0 => rfl
  | 1 => rfl

theorem insnOwn_drp (e : Fin 2) (w : EngW) : insnOwn e 0x12 w = drpOwn w.opnd :=
  match e with
  | 0 => rfl
  | 1 => rfl

theorem insnOwn_stg (e : Fin 2) (w : EngW) : insnOwn e 0x13 w = decide (w.opnd.toNat < 64 ∧ stgFmt w.opnd ≤ 10 ∧ stgFmt w.opnd ≠ 9) :=
  match e with
  | 0 => rfl
  | 1 => rfl

theorem insnOwn_srs (e : Fin 2) (w : EngW) : insnOwn e 0x14 w = decide (w.opnd.toNat < 2) :=
  match e with
  | 0 => rfl
  | 1 => rfl

end Sys2Proof.Machine
end

section
/-! MMA and SWAP (R106, R110, R113, R115, R125, R133). -/
namespace Sys2Proof.Machine

variable {s r : State} {c e : Nat} {w : EngW}

/-- The OPE once an MMA with a count has issued: bank b is active and typed, and the feed unit holds f. -/
def Ope.feeding (o : Ope) (b ty : Nat) (f : Feed) : Ope :=
  { (if o.ty b = 0 then ({ o with active := b } : Ope).setTy b ty else { o with active := b }) with feed := some f }

theorem Ope.feeding_active (o : Ope) (b ty : Nat) (f : Feed) : (o.feeding b ty f).active = b := by
  unfold Ope.feeding Ope.setTy
  split
  · split <;> rfl
  · rfl

theorem Ope.feeding_banks (o : Ope) (b ty : Nat) (f : Feed) : (o.feeding b ty f).bank0 = o.bank0 ∧ (o.feeding b ty f).bank1 = o.bank1 := by
  unfold Ope.feeding Ope.setTy
  split
  · split <;> exact ⟨rfl, rfl⟩
  · exact ⟨rfl, rfl⟩

/-- An empty bank takes the type; another must have had it (R113). -/
theorem Ope.feeding_ty (o : Ope) {b ty : Nat} (f : Feed) (h : o.ty b = 0 ∨ o.ty b = ty) : (o.feeding b ty f).ty b = ty := by
  unfold Ope.feeding
  split
  · exact Ope.ty_setTy_self _ _ _
  · next h0 => exact h.resolve_left h0

/-- MMA's own part where nothing stalls or faults it: the count is popped, and an MMA of count 0 is complete. -/
theorem mmaBody_go {n : W32} {rest : List W32} (hr : (if (mmaOp w.opnd).swb then s.fixPhases c e 3 else s) = r)
    (hfeed : (r.ope c e).feed = none) (hpq : (r.eng c e).pq = n :: rest) (href : (mmaOp w.opnd).refused = false)
    {b : Nat} (hb : (if (mmaOp w.opnd).swb then 1 - (r.ope c e).active else (r.ope c e).active) = b)
    (hty : n ≠ 0 → (r.ope c e).ty b = 0 ∨ (r.ope c e).ty b = classType (opClass (mmaOp w.opnd).fa))
    (hswap : (mmaOp w.opnd).swb = true → (r.ope c e).swapEarly (r.core c).cycles = none) :
    mmaBody c e w s =
      if n = 0 then .go ((r.popP c e).setOpe c e { r.ope c e with active := b }) none none
      else .go ((r.popP c e).setOpe c e ((r.ope c e).feeding b (classType (opClass (mmaOp w.opnd).fa))
          { pc := (r.eng c e).pc, opnd := w.opnd, sig0 := w.sig0, sig1 := w.sig1, left := n.toNat, fed := 0, issued := (r.core c).cycles,
            next := (r.core c).cycles + 1 })) none (engLeft w (r.popP c e) c e 0x10 0 0 0) := by
  have hcombo : (n != 0 && (r.ope c e).ty b != 0 && (r.ope c e).ty b != classType (opClass (mmaOp w.opnd).fa)) = false := by
    by_cases hn : n = 0
    · simp [hn]
    · rcases hty hn with h | h <;> simp [h]
  have hearly : (if (mmaOp w.opnd).swb then (r.ope c e).swapEarly (r.core c).cycles else none) = none := by
    split
    · next h => exact hswap h
    · rfl
  have hidle : (r.ope c e).feed.isSome = false := by rw [hfeed]; rfl
  simp only [mmaBody, hr, hidle, hpq, href, hb, hcombo, hearly, Bool.or_self, Bool.false_eq_true, if_false]
  rfl

/-- SWAP's own part once its phases are fixed: the shadow bank becomes the active one (R125). -/
theorem execSwap_go {c : Fin 64} {e : Fin 2} (hm : s.mayIssue c e 0x11 w = true) (ho : w.opnd = 0)
    (hfeed : ((s.fixPhases c e 3).ope c e).feed = none)
    (hswap : ((s.fixPhases c e 3).ope c e).swapEarly ((s.fixPhases c e 3).core c).cycles = none) :
    execSwap c e w s = .next (s.issued ((s.fixPhases c e 3).setOpe c e
      { (s.fixPhases c e 3).ope c e with active := 1 - ((s.fixPhases c e 3).ope c e).active }) c e w none none) :=
  State.issue_go hm (by simp [insnOwn_swap, ho]) (by simp [hfeed, hswap])

/-- A swap that comes before a bank phase is fixed is refused at SWAP (R125). -/
theorem execSwap_early {c : Fin 64} {e : Fin 2} {x d2 d3 : Nat} (hm : s.mayIssue c e 0x11 w = true) (ho : w.opnd = 0)
    (hfeed : ((s.fixPhases c e 3).ope c e).feed = none)
    (hswap : ((s.fixPhases c e 3).ope c e).swapEarly ((s.fixPhases c e 3).core c).cycles = some (x, d2, d3)) :
    execSwap c e w s = .next (s.precise c e 0x131 x d2 d3) :=
  State.issue_fault hm (by simp [insnOwn_swap, ho]) (by simp [hfeed, hswap])

end Sys2Proof.Machine

open Sys2Proof Sys2Proof.Machine

/-- Settles O12: the issue of an MMA pops its count and writes the OPE of its engine, `Ope.feeding` where there are pairs to feed; SWAP writes
the OPE alone, or is refused by `State.issue_fault`. -/
theorem outerFeedIssue : Obligations.OuterFeedIssue := by
  intro c e w s m r k o b now
  refine ⟨fun n rest hm hop hfa hfb hfeed hpq hn href hty hswap => ?count, fun rest hm hop hfa hfb hfeed hpq href hswap => ?zero,
    fun hm ho hfeed hswap => execSwap_go hm ho hfeed hswap, fun x d2 d3 hm ho hfeed hswap => execSwap_early hm ho hfeed hswap⟩
  all_goals have hown : insnOwn e 0x10 w = true := by rw [insnOwn_mma, decide_eq_true_eq]; exact ⟨hop, hfa, hfb⟩
  case count =>
    have hgo := mmaBody_go (s := s) rfl hfeed hpq href rfl (fun _ => hty) hswap
    rw [if_neg hn] at hgo
    obtain ⟨hcore, hother⟩ := popP_setOpe_frame r c e _
    refine ⟨_, _, State.issue_go hm hown hgo, hcore, hother, rfl, ?_, rfl, rfl, rfl, ?_, ?_⟩
    · exact State.pc_popP _ _ _
    · rw [State.eng_setOpe, State.eng_popP_cons hpq]
    · rw [State.ope_setOpe_self]
      obtain ⟨hbank0, hbank1⟩ := o.feeding_banks b (classType (opClass m.fa)) _
      exact ⟨Ope.feeding_active _ _ _ _, Ope.feeding_ty _ _ hty, hbank0, hbank1, _, rfl, rfl, rfl, rfl, rfl, rfl⟩
  case zero =>
    have hgo := mmaBody_go (s := s) rfl hfeed hpq href rfl (fun h => absurd rfl h) hswap
    rw [if_pos rfl] at hgo
    obtain ⟨hcore, hother⟩ := popP_setOpe_frame r c e _
    refine ⟨_, State.issue_go hm hown hgo, hcore, hother, ?_, ?_⟩
    · rw [State.eng_setOpe, State.eng_popP_cons hpq]
    · rw [State.ope_setOpe_self]

end

section
/-! The pairs of an MMA (R96, R103, R109): what a pair leaves, and what the fault of a pair that fails its check leaves. -/
namespace Sys2Proof.Machine

/-! ### Records and faults after issue: cores and memory -/

/-- The cores and memory are as before. -/
def CoresMemKept (s t : State) : Prop := t.cores = s.cores ∧ t.mem = s.mem

theorem CoresMemKept.trans {s t u : State} (h : CoresMemKept s t) (g : CoresMemKept t u) : CoresMemKept s u :=
  ⟨g.1.trans h.1, g.2.trans h.2⟩

theorem CoresMemKept.of_coresOnly {s t : State} (h : CoreOnly s t) (hc : t.cores = s.cores) : CoresMemKept s t := ⟨hc, h.mem⟩

theorem CoresMemKept.entered (s : State) (r : FaultRec) : CoresMemKept s (s.entered r) := by
  have ht (a b : W64) : CoresMemKept s (s.traceAdd r.unit 7 a b) := .of_coresOnly (CoreOnly.traceAdd _ _ _ _ _) (State.traceAdd_cores _ _ _ _ _)
  unfold State.entered
  dsimp only
  split <;> split
  · exact ht _ _
  · exact ht _ _
  · exact ⟨rfl, rfl⟩
  · exact ⟨rfl, rfl⟩

theorem CoresMemKept.bufferRecord (s : State) (d : Nat) (r : FaultRec) : CoresMemKept s (s.bufferRecord d r) := by
  have enter (t : State) (ht : CoresMemKept s t) : CoresMemKept s (if d = 0 then t.entered r else t) := by
    split
    · exact ht.trans (CoresMemKept.entered t r)
    · exact ht
  unfold State.bufferRecord
  dsimp only
  split
  · exact enter _ ⟨rfl, rfl⟩
  · split
    · exact ⟨rfl, rfl⟩
    · split
      · exact ⟨rfl, rfl⟩
      · exact enter _ ⟨rfl, rfl⟩

theorem CoresMemKept.logEntry (s : State) (x : LogEntry) : CoresMemKept s (s.logEntry x) := by
  unfold State.logEntry
  split
  · exact ⟨rfl, rfl⟩
  · split <;> exact ⟨rfl, rfl⟩

theorem CoresMemKept.record (s : State) (die code kind : Nat) (u : W32) (d0 d1 d2 d3 : Nat) :
    CoresMemKept s (s.record die code kind u d0 d1 d2 d3) := by
  unfold State.record State.recordFor
  split
  · exact CoresMemKept.trans ⟨rfl, rfl⟩ (CoresMemKept.bufferRecord (s.setFbuf die _) _ _)
  · exact CoresMemKept.logEntry _ _

/-- A caught core: the engine that faults, every OPE and memory are as before (R589). -/
theorem State.catchCore_frame (s : State) (c e : Nat) :
    (s.catchCore c e).eng c e = s.eng c e ∧ (∀ f, (s.catchCore c e).ope c f = s.ope c f) ∧ (s.catchCore c e).mem = s.mem := by
  unfold State.catchCore
  split
  · next hcaught =>
    clear hcaught
    generalize List.range 6 = l
    induction l generalizing s with
    | nil => exact ⟨rfl, fun _ => rfl, rfl⟩
    | cons x l ih =>
      rw [List.foldl_cons]
      by_cases hx : x = e
      · rw [if_pos hx]; exact ih s
      · rw [if_neg hx]
        obtain ⟨heng, hope, hmem⟩ := ih (s.setEng c x { s.eng c x with dhold := true })
        refine ⟨heng.trans ?_, fun f => (hope f).trans (State.ope_setEng _ _ _ _ _ _), hmem⟩
        rw [State.eng_setEng, if_neg (fun h => hx h.2.symm)]
  · exact ⟨rfl, fun _ => rfl, rfl⟩

/-- A fault after issue stops its engine (R91), and leaves the core's OPEs and memory. -/
theorem State.late_spec (s : State) (c e pc code x d2 d3 : Nat) :
    let t := s.late c e pc code x d2 d3
    (t.eng c e).st = .faulted ∧ (t.eng c e).fault = code ∧ (∀ f, t.ope c f = s.ope c f) ∧ t.mem = s.mem := by
  obtain ⟨hcores, hmem⟩ := CoresMemKept.record s 0 code 1 (s.unitEng c e) (faultD0 pc x) (faultD1 (s.eng c e).pc x) d2 d3
  unfold State.late
  dsimp only
  generalize s.record 0 code 1 _ _ _ d2 d3 = u at hcores hmem
  obtain ⟨heng, hope, hmem'⟩ := (u.setEng c e { u.eng c e with st := .faulted, fault := code, stepping := false }).catchCore_frame c e
  refine ⟨?_, ?_, fun f => (hope f).trans ?_, hmem'.trans hmem⟩
  · rw [heng, State.eng_setEng_self]
  · rw [heng, State.eng_setEng_self]
  · rw [State.ope_setEng, State.ope_of_cores hcores]

/-! ### A pair -/

variable {s : State} {c : Fin 64} {e : Fin 2} {f : Feed} {x : W64} {rest : List W64}

/-- The feed unit once a pair of its MMA has begun in a core cycle (R109). -/
def Feed.afterPair (f : Feed) (now : Nat) : Feed :=
  { f with left := f.left - 1, fed := f.fed + 1, next := now + classSteps (opClass (mmaOp f.opnd).fa) }

/-- The active bank after a pair: every cell has its sum (R96). -/
def State.pairSums (s : State) (c e : Nat) (m : MmaOp) (x : W64) : Tab W32 :=
  cells fun i j => (s.cellPair c (bitsOf x.toNat 0 20) (bitsOf x.toNat 32 20) m i j (cellAt ((s.ope c e).bank (s.ope c e).active) i j)).1

/-- The OPE after a pair. -/
def State.pairOpe (s : State) (c e : Nat) (f : Feed) (x : W64) : Ope :=
  { (s.ope c e).setBank (s.ope c e).active (s.pairSums c e (mmaOp f.opnd) x) with feed := some (f.afterPair (s.core c).cycles) }

theorem Ope.bank_with_feed (o : Ope) (g : Option Feed) (b : Nat) : ({ o with feed := g } : Ope).bank b = o.bank b := rfl

theorem Ope.setBank_other (o : Ope) (b : Nat) (t : Tab W32) :
    (b = 0 → (o.setBank b t).bank1 = o.bank1) ∧ (b ≠ 0 → (o.setBank b t).bank0 = o.bank0) :=
  ⟨fun h => by rw [Ope.setBank, if_pos h], fun h => by rw [Ope.setBank, if_neg h]⟩

/-- A pair that passes its check: its entry is popped, the OPE holds its sums, and the flags, the pair counter and the debug counters follow. -/
theorem execMmaPairBegin_go (hfeed : (s.ope c e).feed = some f) (haq : (s.eng c e).aq = x :: rest) (hleft : f.left ≠ 0)
    (hnext : f.next ≤ (s.core c).cycles) (hstill : s.still c = false) (hok : pairOk (mmaOp f.opnd) x = true) :
    ∃ flags, execMmaPairBegin c e s =
      let u := ((s.popA c e).setOpe c e (s.pairOpe c e f x)).orReg (Reg.opeFlags c e) flags
      .next ((u.setRegN (Reg.opeFed c e) (u.regN (Reg.opeFed c e) + 1)).pmu c 6 e (classSteps (opClass (mmaOp f.opnd).fa))) := by
  have hbegins : ¬ (f.left = 0 ∨ (s.core c).cycles < f.next ∨ s.still c = true) := by simp [hleft, hstill, hnext]
  simp only [execMmaPairBegin, hfeed, haq, if_neg hbegins, hok, Bool.not_true, Bool.false_eq_true, if_false]
  split
  · exact ⟨4, rfl⟩
  · exact ⟨0, rfl⟩

/-- A pair that fails its check ends its MMA with OPE_RANGE after issue (R103); the banks keep the sums of the pairs before it. -/
theorem execMmaPairBegin_bad (hfeed : (s.ope c e).feed = some f) (haq : (s.eng c e).aq = x :: rest) (hleft : f.left ≠ 0)
    (hnext : f.next ≤ (s.core c).cycles) (hstill : s.still c = false) (hok : pairOk (mmaOp f.opnd) x = false) :
    ∃ o k d1 d2 d3, execMmaPairBegin c e s = .next (((s.setOpe c e o).setEng c e k).late c e f.pc 0x133 d1 d2 d3) ∧
      o.feed = none ∧ o.bank0 = (s.ope c e).bank0 ∧ o.bank1 = (s.ope c e).bank1 := by
  have hbegins : ¬ (f.left = 0 ∨ (s.core c).cycles < f.next ∨ s.still c = true) := by simp [hleft, hstill, hnext]
  simp only [execMmaPairBegin, hfeed, haq, if_neg hbegins, hok, Bool.not_false, if_true]
  refine ⟨_, _, _, _, _, rfl, ?_⟩
  split
  · exact ⟨rfl, rfl, rfl⟩
  · unfold Ope.setLast
    split <;> exact ⟨rfl, rfl, rfl⟩

/-- The last read of an MMA: the feed unit is free and the instruction completes (R109, R110). -/
theorem execMmaLastRead_go (hfeed : (s.ope c e).feed = some f) (hleft : f.left = 0) (hstill : s.still c = false)
    (hnext : f.next + turnCycles (mmaOp f.opnd) ≤ (s.core c).cycles + 1) :
    execMmaLastRead c e s = .next ((s.setOpe c e
      (({ s.ope c e with feed := none } : Ope).setLast (s.ope c e).active (s.core c).cycles)).retire c e f.pc 0x10) := by
  have hends : ¬ (f.left ≠ 0 ∨ (s.core c).cycles + 1 < f.next + turnCycles (mmaOp f.opnd) ∨ s.still c = true) := by
    simp [hleft, hstill, hnext]
  simp only [execMmaLastRead, hfeed, if_neg hends]

/-- Flags set, the pair counter counted up and an event counted: nothing but these registers and the trace. -/
theorem State.countPair_spec (u : State) (c : Fin 64) (e : Fin 2) (flags ev n : Nat) :
    let v := u.orReg (Reg.opeFlags c e) flags
    let t := (v.setRegN (Reg.opeFed c e) (v.regN (Reg.opeFed c e) + 1)).pmu c ev e n
    t.cores = u.cores ∧ CoreOnly u t ∧ t.reg (Reg.opeFed c e) = u.reg (Reg.opeFed c e) + 1 ∧
      RegsOnly u t (fun off => PmuOf c off ∨ off = Reg.opeFed c e ∨ off = Reg.opeFlags c e) := by
  intro v t
  have hregs := RegsOnly.orReg u (Reg.opeFlags c e) flags
  have hpmu : ¬ PmuOf c (Reg.opeFed c e) := by
    rintro ⟨i, hi, h⟩
    have hc := c.isLt
    simp only [Reg.opeFed, Reg.opeBase, Reg.coreBase, Reg.pmuCnt] at h
    omega
  have hother : Reg.opeFed c e ≠ Reg.opeFlags c e := by simp [Reg.opeFed, Reg.opeFlags]
  refine ⟨?_, ?_, ?_, fun off hoff => ?_⟩
  · rw [State.pmu_cores, State.setRegN_cores, (MemRegs.orReg _ _ _).cores]
  · exact (CoreOnly.orReg _ _ _).trans (CoreOnly.trans (CoreOnly.setReg _ _ _) (CoreOnly.pmu _ _ _ _ _))
  · rw [State.pmu_reg _ _ _ _ _ _ hpmu, State.setRegN, State.reg_setReg_self, State.regN, hregs _ hother]
    simp [BitVec.ofNat_add]
  · rw [State.pmu_reg _ _ _ _ _ _ (fun h => hoff (.inl h)), State.setRegN, State.reg_setReg, if_neg (fun h => hoff (.inr (.inl h))),
      hregs _ (fun h => hoff (.inr (.inr h)))]

end Sys2Proof.Machine

open Sys2Proof Sys2Proof.Machine

/-- Settles O13: a pair that passes its check writes the OPE (`State.pairOpe`), its engine's queue and the counters; one that fails it is a
fault after issue; the last read frees the feed unit. -/
theorem pairsAccumulate : Obligations.PairsAccumulate := by
  intro c e s f o m steps now hfeed hstill
  refine ⟨fun x rest haq hleft hnext hok => ?good, fun x rest haq hleft hnext hok => ?bad, fun hleft hnext => ?last⟩
  case good =>
    obtain ⟨flags, hexec⟩ := execMmaPairBegin_go hfeed haq hleft hnext hstill hok
    obtain ⟨hcores, honly, hfed, hregs⟩ := State.countPair_spec ((s.popA c e).setOpe c e (s.pairOpe c e f x)) c e flags 6 steps
    refine ⟨_, hexec, ?_⟩
    have hope := (State.ope_of_cores hcores c e).trans (State.ope_setOpe_self _ _ _ _)
    have heng := (State.eng_of_cores hcores c e).trans ((State.eng_setOpe _ _ _ _ _ _).trans (State.eng_popA_cons haq))
    obtain ⟨hcore, hother⟩ := popA_setOpe_frame s c e (s.pairOpe c e f x)
    obtain ⟨hbank1, hbank0⟩ := o.setBank_other o.active (s.pairSums c e m x)
    rw [hope, heng]
    refine ⟨fun i j hi hj => ?_, hbank1, fun h => hbank0 (by omega), rfl, rfl, hcore.trans honly, hother.trans (OtherCores.of_cores hcores c),
      hfed, hregs⟩
    rw [State.pairOpe, Ope.bank_with_feed, Ope.bank_setBank_self]
    exact cellAt_cells _ hi hj
  case bad =>
    obtain ⟨o', k, d1, d2, d3, hexec, hnone, hbank0, hbank1⟩ := execMmaPairBegin_bad hfeed haq hleft hnext hstill hok
    obtain ⟨hst, hfault, hope, hmem⟩ := ((s.setOpe c e o').setEng c e k).late_spec c e f.pc 0x133 d1 d2 d3
    refine ⟨_, hexec, hst, hfault, ?_⟩
    rw [hope e, State.ope_setEng, State.ope_setOpe_self]
    exact ⟨hnone, hbank0, hbank1, hmem⟩
  case last =>
    exact execMmaLastRead_go hfeed hleft hstill (by simpa [turnCycles] using hnext)

end

section
/-! DRP, STG and SRS at issue (R114, R116, R121, R123, R124). -/
namespace Sys2Proof.Machine

variable (s : State) (c e : Nat) (w : EngW)

/-! ### DRP -/

/-- The DRP as it joins the bank unit's queue: it works on the shadow bank (R114). -/
def State.drpIssued : Drp :=
  { pc := (s.eng c e).pc, opnd := w.opnd, sig0 := w.sig0, sig1 := w.sig1, bank := 1 - (s.ope c e).active,
    ty := (s.ope c e).ty (1 - (s.ope c e).active), entry := if drpEntry w.opnd then (s.eng c e).aq.headD 0 else 0,
    mask := if drpMasked w.opnd then (s.eng c e).pq.headD 0 else 0, issued := (s.core c).cycles }

/-- The OPE with a DRP queued and its bank given the type that the preload leaves (R113, R114). -/
def Ope.queued (o : Ope) (d : Drp) : Ope := { o.setTy d.bank (typeAfter (drpPre d.opnd) d.ty) with drps := o.drps ++ [d] }

/-- The state once a DRP has taken its mask and its entry. -/
def State.drpPopped : State :=
  let t := if drpMasked w.opnd then s.popP c e else s
  if drpEntry w.opnd then t.popA c e else t

theorem State.drpPopped_frame : CoreOnly s (s.drpPopped c e w) ∧ OtherCores s (s.drpPopped c e w) c ∧ (s.drpPopped c e w).regs = s.regs := by
  unfold State.drpPopped
  dsimp only
  split <;> split
  · exact ⟨rfl, (OtherCores.setEng s c e _).trans (OtherCores.setEng _ c e _), rfl⟩
  · exact ⟨rfl, OtherCores.setEng s c e _, rfl⟩
  · exact ⟨rfl, OtherCores.setEng s c e _, rfl⟩
  · exact ⟨rfl, fun _ _ => rfl, rfl⟩

theorem State.eng_drpPopped : (s.drpPopped c e w).eng c e =
    { s.eng c e with pq := if drpMasked w.opnd then (s.eng c e).pq.drop 1 else (s.eng c e).pq,
                     aq := if drpEntry w.opnd then (s.eng c e).aq.drop 1 else (s.eng c e).aq } := by
  unfold State.drpPopped
  cases drpMasked w.opnd <;> cases drpEntry w.opnd <;> simp [State.eng_popA, State.eng_popP]

theorem Ope.queued_spec (o : Ope) (d : Drp) :
    (o.queued d).drps = o.drps ++ [d] ∧ (o.queued d).bank0 = o.bank0 ∧ (o.queued d).bank1 = o.bank1 ∧
      (o.queued d).ty d.bank = typeAfter (drpPre d.opnd) d.ty := by
  have hbanks (b t : Nat) : (o.setTy b t).bank0 = o.bank0 ∧ (o.setTy b t).bank1 = o.bank1 := by
    unfold Ope.setTy
    split <;> exact ⟨rfl, rfl⟩
  exact ⟨rfl, (hbanks _ _).1, (hbanks _ _).2, Ope.ty_setTy_self _ _ _⟩

variable {s c e w}

/-- No outstanding instruction of an engine has this opcode. -/
theorem no_opcode_outstanding {k : Eng} {n : Nat} (h : ∀ i ∈ k.out, i.opc ≠ n) : k.out.any (fun i => i.opc == n) = false := by
  simpa [List.any_eq_false] using h

/-- DRP's own part where nothing stalls or faults it. -/
theorem drpBody_go (hroom : ((s.ope c e).bankQueue (s.core c).cycles).length < 2) (hsrs : ∀ i ∈ (s.eng c e).out, i.opc ≠ 0x14)
    (hmask : drpMasked w.opnd = true → (s.eng c e).pq ≠ [])
    (hentry : drpEntry w.opnd = true → (s.eng c e).aq ≠ [] ∧ drpEntryOk w.opnd ((s.eng c e).aq.headD 0) = true)
    (hcombo : drpRefused w.opnd (s.drpIssued c e w).ty (s.drpIssued c e w).mask
      (decide (1 ≤ ((s.ope c e).stages.filter (·.freeAt.isNone)).length -
        ((s.ope c e).drps.filter (fun d => d.d0.isNone && drpPre d.opnd == 4)).length)) = false) :
    drpBody c e w s = .go ((s.drpPopped c e w).setOpe c e ((s.ope c e).queued (s.drpIssued c e w))) none
      (engLeft w (s.drpPopped c e w) c e 0x12 0 0 0) := by
  have hbusy : (decide (2 ≤ ((s.ope c e).bankQueue (s.core c).cycles).length) || (s.eng c e).out.any (fun i => i.opc == 0x14)) = false := by
    simpa [no_opcode_outstanding hsrs] using hroom
  have hqueues : ((drpMasked w.opnd && (s.eng c e).pq.isEmpty) || (drpEntry w.opnd && (s.eng c e).aq.isEmpty)) = false := by
    simp only [Bool.or_eq_false_iff, Bool.and_eq_false_imp, List.isEmpty_eq_false_iff]
    exact ⟨hmask, fun h => (hentry h).1⟩
  have hok : (drpEntry w.opnd && !drpEntryOk w.opnd (if drpEntry w.opnd then (s.eng c e).aq.headD 0 else 0)) = false := by
    simp only [Bool.and_eq_false_imp, Bool.not_eq_false']
    intro h
    rw [if_pos h]
    exact (hentry h).2
  simp only [State.drpIssued] at hcombo
  simp only [drpBody, hbusy, hqueues, hcombo, hok, Bool.false_eq_true, if_false]
  rfl

/-! ### STG -/

/-- The staging buffer that an STG takes (R123). -/
def State.stgIssued (s : State) (c e : Nat) (w : EngW) (x : W64) : Stage :=
  { pc := (s.eng c e).pc, sig0 := w.sig0, sig1 := w.sig1, opnd := w.opnd, entry := x, from_ := (s.core c).cycles }

/-- STG takes its entry into a staging buffer (R123). -/
theorem execStg_go {c : Fin 64} {e : Fin 2} {x : W64} {rest : List W64} (hm : s.mayIssue c e 0x13 w = true) (ho : insnOwn e 0x13 w = true)
    (hroom : ((s.ope c e).stagesInUse (s.core c).cycles).length < 2) (haq : (s.eng c e).aq = x :: rest)
    (hscale : w.opnd.getLsbD 4 = true → stgFmt w.opnd < 4) (hhigh : bitsOf x.toNat 20 44 = 0)
    (hfits : fits (bitsOf x.toNat 0 20) (tileBytes (stgFmt w.opnd)) (if w.opnd.getLsbD 4 then 4 else 0) 4 = true) :
    execStg c e w s = .next (s.issued ((s.popA c e).setOpe c e { s.ope c e with
        stages := (s.ope c e).stagesInUse (s.core c).cycles ++ [s.stgIssued c e w x] }) c e w none
      (engLeft w s c e 0x13 0 0 0)) := by
  have hcombo : (w.opnd.getLsbD 4 && decide (4 ≤ stgFmt w.opnd)) = false := by
    simp only [Bool.and_eq_false_imp, decide_eq_false_iff_not, Nat.not_le]
    exact hscale
  unfold execStg
  refine State.issue_go hm ho ?_
  simp only [haq, hcombo, hhigh, hfits, if_neg (Nat.not_le.mpr hroom), beq_self_eq_true, Bool.and_self, Bool.not_true, Bool.false_eq_true, if_false]
  rfl

/-! ### SRS -/

/-- What SRS does to memory or to the seed (R124). -/
def State.seedMoved (s : State) (c e : Nat) (w : EngW) (a : Nat) : State :=
  if w.opnd = 0 then s.wrLE (storeKey c a) 8 (s.regN (Reg.opeSeed c e))
  else s.setRegN (Reg.opeSeed c e) (s.rdLE (storeKey c a) 8)

theorem State.seedMoved_cores (a : Nat) : (s.seedMoved c e w a).cores = s.cores := by
  rw [State.seedMoved, apply_ite State.cores, (MemRegs.wrLE _ _ _ _).cores, State.setRegN_cores, ite_self]

theorem State.seedMoved_save (a : Nat) (h : w.opnd = 0) :
    (s.seedMoved c e w a).rdLE (storeKey c a) 8 = s.regN (Reg.opeSeed c e) ∧ MemOnly s (s.seedMoved c e w a) (Within (storeKey c a) 8) ∧
      (s.seedMoved c e w a).regs = s.regs ∧ MemRegs s (s.seedMoved c e w a) := by
  rw [State.seedMoved, if_pos h]
  exact ⟨(State.rdLE_wrLE _ _ _ _).trans (Nat.mod_eq_of_lt (BitVec.isLt _)), MemOnly.wrLE _ _ _ _, State.wr_regs _ _ _, MemRegs.wrLE _ _ _ _⟩

theorem State.seedMoved_load (a : Nat) (h : w.opnd = 1) :
    (s.seedMoved c e w a).regN (Reg.opeSeed c e) = s.rdLE (storeKey c a) 8 ∧
      RegsOnly s (s.seedMoved c e w a) (fun off => off = Reg.opeSeed c e) ∧ CoreOnly s (s.seedMoved c e w a) := by
  rw [State.seedMoved, if_neg (by rw [h]; decide)]
  refine ⟨?_, RegsOnly.setRegN _ _ _, CoreOnly.setReg _ _ _⟩
  rw [State.regN, State.setRegN, State.reg_setReg_self, BitVec.toNat_ofNat]
  exact Nat.mod_eq_of_lt (State.rdLE_lt s (storeKey c a) 8)

/-- SRS takes its entry and moves the seed. -/
theorem execSrs_go {c : Fin 64} {e : Fin 2} {x : W64} {rest : List W64} (hm : s.mayIssue c e 0x14 w = true) (ho : insnOwn e 0x14 w = true)
    (hdrps : (s.ope c e).drps = []) (hsrs : ∀ i ∈ (s.eng c e).out, i.opc ≠ 0x14) (haq : (s.eng c e).aq = x :: rest)
    (hhigh : bitsOf x.toNat 20 44 = 0) (hal : bitsOf x.toNat 0 20 % 8 = 0) (hin : bitsOf x.toNat 0 20 + 8 ≤ 0xC0000) :
    execSrs c e w s = .next (s.issued ((s.seedMoved c e w (bitsOf x.toNat 0 20)).popA c e) c e w none (engLeft w s c e 0x14 4 0 0)) := by
  have hfits : fits (bitsOf x.toNat 0 20) 8 0 8 = true := by simp [fits, hal, storeSize, hin]
  refine State.issue_go hm ho ?_
  simp only [hdrps, no_opcode_outstanding hsrs, haq, hhigh, hfits, List.isEmpty_nil, Bool.not_true, Bool.or_self, beq_self_eq_true, Bool.and_self,
    Bool.false_eq_true, if_false]
  rfl

end Sys2Proof.Machine

open Sys2Proof Sys2Proof.Machine

/-- Settles O14: each of the three issues by its own part (`drpBody_go`, `execStg_go`, `execSrs_go`), which pops the queues it reads and writes
the OPE, memory or the seed. -/
theorem outerDrainIssue : Obligations.OuterDrainIssue := by
  intro c e w s o k sh
  refine ⟨fun hm hown hroom hsrs hmask hentry hcombo => ?drp, fun x rest hm hop hfmt hfmt9 hroom haq hscale hhigh hfits => ?stg,
    fun x rest => ?srs⟩
  case drp =>
    have hgo := drpBody_go hroom hsrs hmask hentry hcombo
    obtain ⟨hcore, hother, hregs⟩ := s.drpPopped_frame c e w
    obtain ⟨hdrps, hbank0, hbank1, hty⟩ := o.queued_spec (s.drpIssued c e w)
    have heng := s.eng_drpPopped c e w
    refine ⟨_, _, s.drpIssued c e w, State.issue_go hm ((insnOwn_drp e w).trans hown) hgo, hcore.trans (CoreOnly.setCore _ _ _),
      hother.trans (OtherCores.setOpe _ c e _), hregs, by rw [heng], rfl, ?_⟩
    rw [State.ope_setOpe_self, State.eng_setOpe, heng]
    exact ⟨hdrps, rfl, rfl, rfl, rfl, rfl, rfl, hbank0, hbank1, hty, rfl, rfl⟩
  case stg =>
    have hown : insnOwn e 0x13 w = true := by rw [insnOwn_stg, decide_eq_true_eq]; exact ⟨hop, hfmt, hfmt9⟩
    obtain ⟨hcore, hother⟩ := popA_setOpe_frame s c e _
    refine ⟨_, _, s.stgIssued c e w x, execStg_go hm hown hroom haq hscale hhigh hfits, hcore, hother, rfl, rfl, ?_, ?_⟩
    · rw [State.eng_setOpe, State.eng_popA_cons haq]
    · rw [State.ope_setOpe_self]
      exact ⟨rfl, rfl, rfl, rfl, rfl, rfl, rfl⟩
  case srs =>
    intro a hm hdrps hsrs haq hhigh hal hin
    have hexec (hown : insnOwn e 0x14 w = true) := execSrs_go hm hown hdrps hsrs haq hhigh hal hin
    rw [insnOwn_srs, decide_eq_true_eq] at hexec
    have hcores := State.seedMoved_cores (s := s) (c := c) (e := e) (w := w) a
    have heng : ((s.seedMoved c e w a).popA c e).eng c e = { k with aq := rest } := by
      rw [State.eng_popA, State.eng_of_cores hcores, haq]; rfl
    refine ⟨fun hop => ?save, fun hop => ?load⟩
    case save =>
      obtain ⟨hseed, hmem, hregs, honly⟩ := State.seedMoved_save (s := s) (c := c) (e := e) a hop
      exact ⟨_, _, hexec (by rw [hop]; decide), heng, (State.rdLE_of_mem (State.popA_mem _ _ _) _ _).trans hseed, hmem, hregs,
        honly.coreMem.trans (CoreOnly.coreMem (CoreOnly.setCore _ _ _))⟩
    case load =>
      obtain ⟨hseed, hregs, honly⟩ := State.seedMoved_load (s := s) (c := c) (e := e) a hop
      exact ⟨_, _, hexec (by rw [hop]; decide), heng, hseed, hregs, honly.trans (CoreOnly.setCore _ _ _)⟩

end

section
/-! A DRP's bank phase, its completion, and a staged tile (R114, R115, R118, R119, R123). -/
namespace Sys2Proof.Machine
open Sys2Proof.Laws

variable (s : State)

/-! ### Rows of accumulator memory -/

theorem drop_take_flatMap {α β : Type} (f : α → List β) (n : Nat) (hf : ∀ a, (f a).length = n) :
    ∀ (l : List α) (j : Nat) (h : j < l.length), ((l.flatMap f).drop (n * j)).take n = f l[j]
  | a :: l, 0, _ => by simp [List.flatMap_cons, ← hf a]
  | a :: l, j + 1, h => by
    have hskip : (f a).length ≤ n * (j + 1) := by rw [hf, Nat.mul_succ]; omega
    have hrest : n * (j + 1) - (f a).length = n * j := by rw [hf, Nat.mul_succ]; omega
    rw [List.flatMap_cons, List.drop_append, List.drop_eq_nil_of_le hskip, List.nil_append, hrest]
    exact drop_take_flatMap f n hf l j (Nat.lt_of_succ_lt_succ h)

/-- The bytes of a row of 32 words. -/
def rowBytes (v : Nat → W32) : List Byte := (List.range 32).flatMap (fun j => leBytes 4 (v j).toNat)

theorem rowBytes_length (v : Nat → W32) : (rowBytes v).length = 128 := by
  have hsum : (rowBytes v).length = ((List.range 32).map (fun _ => 4)).sum := by simp only [rowBytes, List.length_flatMap, leBytes_length]
  exact hsum.trans (by decide)

theorem rowBytes_word (v : Nat → W32) {j : Nat} (hj : j < 32) : ((rowBytes v).drop (4 * j)).take 4 = leBytes 4 (v j).toNat := by
  rw [rowBytes, drop_take_flatMap _ 4 (fun _ => leBytes_length _ _) _ j (by simpa using hj), List.getElem_range]

theorem accCell_eq (c e r j : Nat) : accCell c e r j = accCell c e r 0 + 4 * j := by simp [accCell, accKey]; omega

/-- A row written to accumulator memory: its words, and those of every other row. -/
theorem State.accWord_wr_row (c e r r' : Nat) (v : Nat → W32) {j : Nat} (hj : j < 32) :
    (s.wr (accCell c e r 0) (rowBytes v)).accWord c e r' j = if r' = r then v j else s.accWord c e r' j := by
  by_cases hr : r' = r
  · subst hr
    rw [if_pos rfl, State.accWord, State.rdLE, accCell_eq c e r' j,
      State.rdBytes_wr_inside _ _ _ _ _ (by rw [rowBytes_length]; omega), rowBytes_word v hj, leNat_leBytes, Nat.mod_eq_of_lt (show (v j).toNat < 256 ^ 4 from (v j).isLt), BitVec.ofNat_toNat, BitVec.setWidth_eq]
  · have hclear : accCell c e r' j + 4 ≤ accCell c e r 0 ∨ accCell c e r 0 + (rowBytes v).length ≤ accCell c e r' j := by
      rw [rowBytes_length]; simp only [accCell, accKey]; omega
    rw [if_neg hr, State.accWord, State.rdLE, State.rdBytes_wr_outside _ _ _ _ _ hclear]
    rfl

theorem State.accWord_of_mem {s t : State} (h : t.mem = s.mem) (c e r j : Nat) : t.accWord c e r j = s.accWord c e r j := by
  rw [State.accWord, State.rdLE_of_mem h]; rfl

/-- Rows written one after the other: each row of the list holds its words, and every other row what it held. -/
theorem State.accWord_wr_rows (c e r0 : Nat) (v : Nat → Nat → W32) (l : List Nat) (i : Nat) {j : Nat} (hj : j < 32) :
    (l.foldl (fun t k => t.wr (accCell c e (r0 + k) 0) (rowBytes (v k))) s).accWord c e (r0 + i) j =
      if i ∈ l then v i j else s.accWord c e (r0 + i) j := by
  induction l generalizing s with
  | nil => rfl
  | cons k l ih =>
    rw [List.foldl_cons, ih, State.accWord_wr_row _ _ _ _ _ _ hj]
    by_cases hk : i = k
    · subst hk; simp
    · simp [hk]

/-! ### The drain (R114, R119, R143) -/

/-- What an overwrite or an add-into leaves in word j of row i of its destination. -/
def State.drainWord (c e : Nat) (d : Drp) (bank : Tab W32) (i j : Nat) : W32 :=
  if !(drpMode d.opnd == 2) then cellAt bank i j
  else if d.ty = 2 then s.accWord c e (drpRow d.opnd + i) j + cellAt bank i j
  else add32 (s.accWord c e (drpRow d.opnd + i) j) (cellAt bank i j)

/-- The rows that a drain writes: those that its mask leaves. -/
def liveRows (mask : W32) : List Nat := (List.range 32).filter (fun i => !mask.getLsbD i)

theorem mem_liveRows (mask : W32) {i : Nat} (hi : i < 32) : i ∈ liveRows mask ↔ ¬ mask.getLsbD i = true := by simp [liveRows, hi]

theorem State.drainAcc_eq (c e : Nat) (d : Drp) (bank : Tab W32) : ∃ flags, s.drainAcc c e d bank =
    ((liveRows d.mask).foldl (fun t i => t.wr (accCell c e (drpRow d.opnd + i) 0) (rowBytes (s.drainWord c e d bank i))) s).orReg
      (Reg.opeFlags c e) flags := ⟨_, rfl⟩

theorem MemRegs.drainAcc (c e : Nat) (d : Drp) (bank : Tab W32) : MemRegs s (s.drainAcc c e d bank) := by
  obtain ⟨flags, h⟩ := s.drainAcc_eq c e d bank
  rw [h]
  exact (MemRegs.foldl (fun _ _ => MemRegs.wr _ _ _) _ s).trans (MemRegs.orReg _ _ _)

/-- Every word of a live row takes its new value, and the masked rows stay. -/
theorem State.accWord_drainAcc (c e : Nat) (d : Drp) (bank : Tab W32) {i j : Nat} (hi : i < 32) (hj : j < 32) :
    (s.drainAcc c e d bank).accWord c e (drpRow d.opnd + i) j =
      if d.mask.getLsbD i then s.accWord c e (drpRow d.opnd + i) j else s.drainWord c e d bank i j := by
  obtain ⟨flags, h⟩ := s.drainAcc_eq c e d bank
  rw [h, State.accWord_of_mem (CoreOnly.orReg _ _ _).mem, State.accWord_wr_rows _ _ _ _ _ _ _ hj]
  simp only [mem_liveRows _ hi, ite_not]

theorem MemRegs.drainOut (c e : Nat) (d : Drp) (bank : Tab W32) : MemRegs s (s.drainOut c e d bank) := by
  unfold State.drainOut
  extract_lets _ _ _ _ r _ _ t1 t2 t3
  have h1 : MemRegs s t1 := MemRegs.foldl (fun _ _ => MemRegs.wr _ _ _) r.1 s
  have h2 : MemRegs s t2 := MemRegs.ite (h1.trans (MemRegs.wrLE _ _ _ _)) h1
  have h3 : MemRegs s t3 := MemRegs.ite (h2.trans (MemRegs.setReg _ _ _)) h2
  exact h3.trans (MemRegs.orReg _ _ _)

/-- The drain of a DRP by its mode. -/
def State.bankDrain (c e : Nat) (d : Drp) (bank : Tab W32) : State :=
  match drpMode d.opnd with
  | 0 => s
  | 3 => s.drainOut c e d bank
  | _ => s.drainAcc c e d bank

theorem State.bankDrain_none {s : State} (c e : Nat) {d : Drp} (bank : Tab W32) (h : drpMode d.opnd = 0) : s.bankDrain c e d bank = s := by
  simp only [State.bankDrain, h]

theorem State.bankDrain_acc {s : State} (c e : Nat) {d : Drp} (bank : Tab W32) (h : drpMode d.opnd = 1 ∨ drpMode d.opnd = 2) :
    s.bankDrain c e d bank = s.drainAcc c e d bank := by
  rcases h with h | h <;> simp only [State.bankDrain, h]

theorem MemRegs.bankDrain (c e : Nat) (d : Drp) (bank : Tab W32) : MemRegs s (s.bankDrain c e d bank) := by
  unfold State.bankDrain
  split
  · exact MemRegs.refl s
  · exact MemRegs.drainOut s c e d bank
  · exact MemRegs.drainAcc s c e d bank

/-! ### The bank phase (R115) -/

theorem Ope.bank_setBank_shadow (o : Ope) {b : Nat} (hb : b ≤ 1) (t : Tab W32) : (o.setBank b t).bank (1 - b) = o.bank (1 - b) := by
  obtain rfl | rfl : b = 0 ∨ b = 1 := by omega
  · rfl
  · rfl

/-- The bank phase of a DRP that is due: its drain, and its bank with the preload from what stood before. -/
theorem State.phaseStart_due {s : State} {c e d0 : Nat} {d : Drp} (hfind : (s.ope c e).drps.find? (·.d0.isNone) = some d)
    (hd0 : (s.ope c e).earliest d = some d0) (hdue : d0 ≤ (s.core c).cycles + 2) :
    ∃ o staged, s.phaseStart c e = ((s.bankDrain c e d ((s.ope c e).bank d.bank)).setOpe c e o).pmu c 7 e 32 ∧ o.lastD0 = some d0 ∧
      ∀ b, o.bank b = ((s.ope c e).setBank d.bank (s.preload c e d ((s.ope c e).bank d.bank) staged)).bank b := by
  simp only [State.phaseStart, hfind, hd0, if_neg (Nat.not_lt.mpr hdue)]
  exact ⟨_, _, rfl, rfl, fun _ => rfl⟩

/-- An operation on memory and registers, then the OPE and a count: nothing outside the core but memory, registers and the trace. -/
theorem State.phaseFrame {s u : State} (h : MemRegs s u) (c e : Nat) (o : Ope) (n : Nat) :
    let t := (u.setOpe c e o).pmu c 7 e n
    t.ope c e = o ∧ OtherCores s t c ∧ CoreMem s t ∧ (∀ f, t.eng c f = s.eng c f) ∧ t.mem = u.mem := by
  intro t
  have hcores : t.cores = (u.setOpe c e o).cores := State.pmu_cores _ _ _ _ _
  have hcore : CoreOnly u t := (CoreOnly.setCore _ _ _).trans (CoreOnly.pmu _ _ _ _ _)
  refine ⟨?_, ?_, h.coreMem.trans hcore.coreMem, fun f => ?_, hcore.mem⟩
  · rw [State.ope_of_cores hcores, State.ope_setOpe_self]
  · exact (OtherCores.of_cores h.cores c).trans ((OtherCores.setOpe u c e o).trans (OtherCores.of_cores hcores c))
  · rw [State.eng_of_cores hcores, State.eng_setOpe, State.eng_of_cores h.cores]

/-! ### Completion of DRP (R118) -/

/-- The last write of the DRP is visible. -/
def Drp.landed (d : Drp) (now : Nat) : Bool :=
  match d.d0 with
  | some n => decide (n + drpCycles d.opnd ≤ now)
  | none => false

theorem execDrpComplete_go {s : State} {c : Fin 64} {e : Fin 2} {d : Drp} (hfind : (s.ope c e).drps.find? (·.landed (s.core c).cycles) = some d)
    (hstill : s.still c = false) :
    execDrpComplete c e s = .next ((s.setOpe c e { s.ope c e with
      drps := (s.ope c e).drps.erase d,
      bufAt := if drpMode d.opnd = 3 ∧ 2 ≤ (s.ope c e).bufsUsed then (s.core c).cycles else (s.ope c e).bufAt }).retire c e d.pc 0x12) := by
  have hlanded (p : Drp → Bool) (hp : ∀ x, p x = x.landed (s.core c).cycles) : (s.ope c e).drps.find? p = some d := by
    rw [funext hp, hfind]
  unfold execDrpComplete
  dsimp only
  rw [hlanded]
  intro x
  unfold Drp.landed
  cases x.d0 <;> simp [hstill]

/-! ### A staged tile (R123) -/

theorem mem_replaceFirst {α : Type} {p : α → Bool} (f : α → α) {x : α} : ∀ {l : List α}, l.find? p = some x → f x ∈ replaceFirst p f l
  | a :: l, h => by
    by_cases ha : p a = true
    · rw [List.find?_cons_of_pos ha, Option.some.injEq] at h
      subst h
      simp [replaceFirst, ha]
    · rw [List.find?_cons_of_neg ha] at h
      simp [replaceFirst, ha, mem_replaceFirst f h]

/-- A staging buffer once its tile is read, in its order. -/
def State.tileStaged (c : Nat) (g : Stage) : Stage :=
  let a := bitsOf g.entry.toNat 0 20
  { g with
    done := some (s.core c).cycles
    tile := cells fun i j => if g.opnd.getLsbD 5 then s.tileWord c a (stgFmt g.opnd) (g.opnd.getLsbD 4) j i
      else s.tileWord c a (stgFmt g.opnd) (g.opnd.getLsbD 4) i j }

theorem State.cellAt_tileStaged (c : Nat) (g : Stage) {i j : Nat} (hi : i < 32) (hj : j < 32) :
    cellAt (s.tileStaged c g).tile i j =
      if g.opnd.getLsbD 5 then s.tileWord c (bitsOf g.entry.toNat 0 20) (stgFmt g.opnd) (g.opnd.getLsbD 4) j i
      else s.tileWord c (bitsOf g.entry.toNat 0 20) (stgFmt g.opnd) (g.opnd.getLsbD 4) i j := by
  rw [State.tileStaged, cellAt_cells _ hi hj]

theorem execStgComplete_go {s : State} {c : Fin 64} {e : Fin 2} {g : Stage} (hfind : (s.ope c e).stages.find? (·.done.isNone) = some g)
    (hstill : s.still c = false)
    (hread : max g.from_ ((s.ope c e).stages.foldl (fun n g => max n (g.done.getD 0)) 0) + stgCycles g.opnd ≤ (s.core c).cycles) :
    ∃ l, execStgComplete c e s = .next ((s.setOpe c e { s.ope c e with stages := l }).retire c e g.pc 0x13) ∧ s.tileStaged c g ∈ l := by
  have hdone : (s.still c || decide ((s.core c).cycles <
      max g.from_ ((s.ope c e).stages.foldl (fun n g => max n (g.done.getD 0)) 0) + stgCycles g.opnd)) = false := by
    rw [hstill, Bool.false_or, decide_eq_false (Nat.not_lt.mpr hread)]
  simp only [execStgComplete, hfind, hdone, Bool.false_eq_true, if_false]
  exact ⟨_, rfl, mem_replaceFirst _ hfind⟩

end Sys2Proof.Machine

open Sys2Proof Sys2Proof.Machine

/-- Settles O15: the bank phase is a drain, which writes memory and registers only, and a preload of the bank; completion and staging write the
OPE and retire their instruction. -/
theorem outerDrainEffects : Obligations.OuterDrainEffects := by
  intro c e s o now
  refine ⟨fun d d0 hfind hd0 hdue hbank hstill => ?phase, fun d hfind hstill => ?complete, fun g hfind hstill hread => ?staged⟩
  case phase =>
    obtain ⟨o', staged, hstart, hlast, hbanks⟩ := State.phaseStart_due hfind hd0 hdue
    have hexec : exec (.bankPhaseStart c e) s = .next (s.phaseStart c e) := if_neg (by rw [hstill]; decide)
    obtain ⟨hope, hother, hmemory, heng, hmem⟩ := State.phaseFrame (MemRegs.bankDrain s c e d (o.bank d.bank)) c e o' 32
    rw [hstart] at hexec
    refine ⟨_, hexec, ?_⟩
    rw [hope, hbanks, hbanks, Ope.bank_setBank_self, Ope.bank_setBank_shadow o hbank]
    refine ⟨hlast, hother, hmemory, heng, rfl, fun hpre => ?_, fun hpre i j => ?_, fun hpre i j hi hj => ?_, fun hmode => ?_,
      fun hmode _ i j hi hj => ?_, fun hmode _ i j hi hj => ?_⟩
    · simp only [State.preload, hpre]; rfl
    · simp only [State.preload, hpre]; rfl
    · simp only [State.preload, hpre]
      exact cellAt_cells _ hi hj
    · rw [hmem, State.bankDrain_none _ _ _ hmode]
    · rw [State.accWord_of_mem hmem, State.bankDrain_acc _ _ _ (.inl hmode), State.accWord_drainAcc _ _ _ _ _ hi hj]
      simp [State.drainWord, hmode]
    · rw [State.accWord_of_mem hmem, State.bankDrain_acc _ _ _ (.inr hmode), State.accWord_drainAcc _ _ _ _ _ hi hj]
      simp [State.drainWord, hmode]
  case complete =>
    refine ⟨_, execDrpComplete_go hfind hstill, CoreOnly.setCore _ _ _, OtherCores.setOpe _ _ _ _, ?_, ?_, ?_, rfl⟩ <;> rw [State.ope_setOpe_self]
  case staged =>
    obtain ⟨l, hexec, hmem⟩ := execStgComplete_go hfind hstill hread
    refine ⟨_, s.tileStaged c g, hexec, CoreOnly.setCore _ _ _, OtherCores.setOpe _ _ _ _, rfl, ?_, rfl, rfl, 
      fun i j hi hj => s.cellAt_tileStaged c g hi hj⟩
    rw [State.ope_setOpe_self]
    exact hmem

end

section
/-! Tile commits of the stream engine (R216, R253, R254, R259): the parts of a commit into the near side and what each of them leaves alone. -/
namespace Sys2Proof.Machine
open Sys2Proof.Laws.Tab

variable (s : State)

/-! ### A core's stream engine beside its other parts -/

theorem State.str_of_cores {s t : State} (h : t.cores = s.cores) (c : Nat) : t.str c = s.str c := by
  rw [State.str, State.core_of_cores h]; rfl

@[simp] theorem State.str_setStr_self (c : Nat) (x : Str) : (s.setStr c x).str c = x := by simp [State.setStr, State.str]

@[simp] theorem State.str_stirNext_self (c : Nat) : (s.stirNext c).str c = s.str c := by simp [State.stirNext, State.str]

@[simp] theorem State.eng_setStr (c : Nat) (x : Str) (d e : Nat) : (s.setStr c x).eng d e = s.eng d e :=
  State.eng_setCore_engs (s := s) (x := { s.core c with str := x }) rfl d e

@[simp] theorem State.eng_stirNext (c d e : Nat) : (s.stirNext c).eng d e = s.eng d e :=
  State.eng_setCore_engs (s := s) (x := { s.core c with stirNext := true }) rfl d e

theorem OtherCores.setStr (c : Nat) (x : Str) : OtherCores s (s.setStr c x) c := OtherCores.setCore _ _ _

theorem OtherCores.stirNext (c : Nat) : OtherCores s (s.stirNext c) c := OtherCores.setCore _ _ _

theorem Str.strm_setStrm (x : Str) (i j : Nat) (m : Strm) : (x.setStrm i m).strm j = if j = i then m else x.strm j := get_set _ _ _ _ _

/-- A stream that nothing stops is not settled. -/
theorem State.settle_of_stop_none {s : State} {c slot : Nat} (h : (s.strm c slot).stop = none) : s.settle c slot = s := by
  simp only [State.settle, h]

/-! ### Bytes read from equal memories, and from a run just written -/

theorem State.rd8_of_mem {s t : State} (h : t.mem = s.mem) (k : Nat) : t.rd8 k = s.rd8 k := by rw [State.rd8, h]; rfl

theorem State.rdBytes_of_mem {s t : State} (h : t.mem = s.mem) (k n : Nat) : t.rdBytes k n = s.rdBytes k n := by
  induction n generalizing k with
  | zero => rfl
  | succ n ih => rw [State.rdBytes, State.rdBytes, ih, State.rd8_of_mem h]

/-- A run of bytes reads back where it was written. -/
theorem State.rdBytes_wr_self (k : Nat) (bs : List Byte) : (s.wr k bs).rdBytes k bs.length = bs := by
  simpa using s.rdBytes_wr_inside k 0 bs.length bs (by omega)

theorem MemOnly.wr (k : Nat) (bs : List Byte) : MemOnly s (s.wr k bs) (Within k bs.length) := fun j hj =>
  State.rd8_wr _ _ _ _ (by unfold Within at hj; omega)

/-! ### The near side: a tile's bytes, its flag and the bytes moved -/

/-- What a commit of an IN tile writes at its slot, and its NAN flag: the zero tile for a null entry (R216), else the arrived bytes
transformed (R249, R250). -/
def State.tileData (c slot t : Nat) (null : Bool) : List Byte × Bool :=
  if null then ((s.strm c slot).d.zeroTile, false) else (s.strm c slot).d.apply ((s.tileXfers c slot t).flatMap (·.bytes))

/-- The data written at a key, its flag kept in STR_FLAGS and n bytes counted in STR_MOVED. -/
def State.landTile (c k n : Nat) (r : List Byte × Bool) : State :=
  let u := s.wr k r.1
  let u := if r.2 then u.orReg (Reg.strFlags c) 1 else u
  u.setRegN (Reg.strMoved c) (u.regN (Reg.strMoved c) + n)

theorem State.flagged_regN_strMoved (c : Nat) (b : Bool) :
    (if b then s.orReg (Reg.strFlags c) 1 else s).regN (Reg.strMoved c) = s.regN (Reg.strMoved c) := by
  have hne : Reg.strMoved c ≠ Reg.strFlags c := by unfold Reg.strMoved Reg.strFlags; omega
  split
  · rw [State.regN, RegsOnly.orReg s _ 1 _ hne]; rfl
  · rfl

theorem State.landTile_regN_strMoved (c k n : Nat) (r : List Byte × Bool) :
    (s.landTile c k n r).regN (Reg.strMoved c) = (s.regN (Reg.strMoved c) + n) % 2 ^ 64 := by
  simp only [State.landTile, State.flagged_regN_strMoved, State.setRegN]
  rw [State.regN, State.reg_setReg_self, BitVec.toNat_ofNat]; rfl

theorem MemRegs.pegs {s t : State} (h : MemRegs s t) : t.pegs = s.pegs := by rw [h]

theorem MemRegs.landTile (c k n : Nat) (r : List Byte × Bool) : MemRegs s (s.landTile c k n r) :=
  ((MemRegs.wr s k r.1).trans (MemRegs.ite (MemRegs.orReg _ _ _) (MemRegs.refl _))).trans (MemRegs.setReg _ _ _)

theorem State.landTile_mem (c k n : Nat) (r : List Byte × Bool) : (s.landTile c k n r).mem = (s.wr k r.1).mem := by
  simp only [State.landTile, State.setRegN_mem]
  split
  · exact (CoreOnly.orReg _ _ _).mem
  · rfl

/-! ### The group's fill and the stream's own counts -/

/-- The fill of the group that ends at tile t, posted where one follows it (R259). -/
def State.postFill (c slot : Nat) (m : Strm) (t : Nat) : State :=
  if m.fillAfter t then
    { s with pegs := { s.pegs with fills := s.pegs.fills ++ [⟨m.d.peg, s.fillSpace c, s.unitEng c 4, some (c, slot, m.gstart), none⟩] } }
  else s

theorem State.postFill_cores (c slot : Nat) (m : Strm) (t : Nat) : (s.postFill c slot m t).cores = s.cores := by
  unfold State.postFill; split <;> rfl

theorem State.postFill_mem (c slot : Nat) (m : Strm) (t : Nat) : (s.postFill c slot m t).mem = s.mem := by
  unfold State.postFill; split <;> rfl

theorem State.postFill_regs (c slot : Nat) (m : Strm) (t : Nat) : (s.postFill c slot m t).regs = s.regs := by
  unfold State.postFill; split <;> rfl

theorem State.postFill_pegs_word (c slot : Nat) (m : Strm) (t : Nat) : (s.postFill c slot m t).pegs.word = s.pegs.word := by
  unfold State.postFill; split <;> rfl

theorem State.postFill_none {c slot t : Nat} {m : Strm} (h : m.fillAfter t = false) : s.postFill c slot m t = s := by
  simp [State.postFill, h]

theorem State.postFill_fills {c slot t : Nat} {m : Strm} (h : m.fillAfter t = true) :
    ∃ f, (s.postFill c slot m t).pegs.fills = s.pegs.fills ++ [f] ∧ f.peg = m.d.peg := by
  rw [State.postFill, if_pos h]
  exact ⟨_, rfl, rfl⟩

/-- The stream once its IN tile t is committed. -/
def Strm.committed (m : Strm) (t : Nat) : Strm :=
  { m with done := t + 1, tile := max m.tile (t + 1), part := if m.tile ≤ t then 0 else m.part,
           gstart := if m.fillAfter t then t + 1 else m.gstart, fills := m.fills + boolNat (m.fillAfter t) }

/-- The stream engine with a slot's stream committed through tile t: its retired transfers up to that tile are gone. -/
def Str.committed (x : Str) (slot t : Nat) (m : Strm) : Str :=
  { x.setStrm slot (m.committed t) with xfers := x.xfers.filter (fun f => !(f.slot == slot && f.retired && decide (f.tile ≤ t))) }

theorem Str.strm_committed (x : Str) (slot t j : Nat) (m : Strm) :
    (x.committed slot t m).strm j = if j = slot then m.committed t else x.strm j := Str.strm_setStrm x slot j (m.committed t)

/-! ### The commit of an IN tile -/

variable {s} {c slot t : Nat}

/-- An IN tile's commit up to the stream engine's own counts: the data lands and the group's fill is posted. -/
def State.tileLanded (s : State) (c slot t : Nat) (null : Bool) : State :=
  (s.landTile c ((s.strm c slot).nearKey c t) (s.strm c slot).d.bytes (s.tileData c slot t null)).postFill c slot (s.strm c slot) t

theorem State.tileLanded_cores (null : Bool) : (s.tileLanded c slot t null).cores = s.cores :=
  (State.postFill_cores _ _ _ _ _).trans (MemRegs.landTile _ _ _ _ _).cores

/-- An IN tile's commit: the tile lands and the stream engine counts it; nothing stops the stream, so it is not settled. -/
theorem State.commitTile_in (null : Bool) (hkind : (s.strm c slot).d.kind = 0) (hstop : (s.strm c slot).stop = none) :
    s.commitTile c slot t null =
      ((s.tileLanded c slot t null).setStr c ((s.str c).committed slot t (s.strm c slot))).stirNext c := by
  have hparts : s.commitTile c slot t null =
      (((s.tileLanded c slot t null).setStr c (((s.tileLanded c slot t null).str c).committed slot t (s.strm c slot))).stirNext c).settle c slot := by
    simp only [State.commitTile, hkind, if_true, bne_self_eq_false, Bool.and_false, Bool.not_false, Bool.and_true, Bool.and_not_self,
      Bool.false_and, Bool.false_eq_true, if_false]
    rfl
  rw [hparts, State.str_of_cores (State.tileLanded_cores null)]
  refine State.settle_of_stop_none ?_
  rw [State.strm, State.str_stirNext_self, State.str_setStr_self, Str.strm_committed, if_pos rfl]
  exact hstop

section
variable (null : Bool) (hkind : (s.strm c slot).d.kind = 0) (hstop : (s.strm c slot).stop = none)
include hkind hstop

theorem State.commitTile_mem :
    (s.commitTile c slot t null).mem = (s.wr ((s.strm c slot).nearKey c t) (s.tileData c slot t null).1).mem := by
  rw [State.commitTile_in null hkind hstop]
  exact (State.postFill_mem _ _ _ _ _).trans (State.landTile_mem _ _ _ _ _)

theorem State.commitTile_regN_strMoved :
    (s.commitTile c slot t null).regN (Reg.strMoved c) = (s.regN (Reg.strMoved c) + (s.strm c slot).d.bytes) % 2 ^ 64 := by
  have hregs := (s.landTile c ((s.strm c slot).nearKey c t) (s.strm c slot).d.bytes (s.tileData c slot t null)).postFill_regs c slot
    (s.strm c slot) t
  rw [State.commitTile_in null hkind hstop, ← State.landTile_regN_strMoved s c ((s.strm c slot).nearKey c t) _ (s.tileData c slot t null)]
  exact congrArg (fun r => (Tab.get regReset r (Reg.strMoved c)).toNat) hregs

theorem State.commitTile_pegs :
    (s.commitTile c slot t null).pegs = (s.tileLanded c slot t null).pegs := by
  rw [State.commitTile_in null hkind hstop]; rfl

theorem State.commitTile_otherCores : OtherCores s (s.commitTile c slot t null) c := by
  rw [State.commitTile_in null hkind hstop]
  exact ((OtherCores.of_cores (State.tileLanded_cores null) c).trans (OtherCores.setStr _ c _)).trans (OtherCores.stirNext _ c)

theorem State.commitTile_eng (e : Nat) : (s.commitTile c slot t null).eng c e = s.eng c e := by
  rw [State.commitTile_in null hkind hstop, State.eng_stirNext, State.eng_setStr]
  exact State.eng_of_cores (State.tileLanded_cores null) c e

theorem State.commitTile_strm (j : Nat) :
    (s.commitTile c slot t null).strm c j = if j = slot then (s.strm c slot).committed t else s.strm c j := by
  rw [State.commitTile_in null hkind hstop, State.strm, State.str_stirNext_self, State.str_setStr_self, Str.strm_committed]
  rfl

end

/-- The next tile may be committed: nothing stops the stream, and a fill that follows the tile has room (R253, R258). -/
theorem State.commitHeld_false (hstate : (s.strm c slot).state = 1) (hstop : (s.strm c slot).stop = none) (ht : t < (s.strm c slot).total)
    (hnulls : (s.strm c slot).nulls = []) (hstill : s.still c = false)
    (hfill : (s.strm c slot).fillAfter t = true → (s.str c).inFlight < 768) : s.commitHeld c slot t = false := by
  have hroom : ((s.strm c slot).fillAfter t && decide (768 ≤ (s.str c).inFlight)) = false := by
    cases hf : (s.strm c slot).fillAfter t with
    | false => rfl
    | true => rw [Bool.true_and, decide_eq_false (Nat.not_le.mpr (hfill hf))]
  simp [State.commitHeld, Strm.drops, hstate, hstop, ht, hnulls, hstill, hroom]

theorem execTileCommit_null {c : Fin 64} {slot : Fin 16} (hheld : s.commitHeld c slot (s.strm c slot).done = false)
    (htile : (s.strm c slot).tileAt (s.strm c slot).done = .null) :
    execTileCommit c slot s = .next (s.commitTile c slot (s.strm c slot).done true) := by
  simp [execTileCommit, hheld, htile]

theorem execTileCommit_far {c : Fin 64} {slot : Fin 16} {off : Int} (hheld : s.commitHeld c slot (s.strm c slot).done = false)
    (htile : (s.strm c slot).tileAt (s.strm c slot).done = .far off) (hkind : (s.strm c slot).d.kind = 0)
    (hwhole : ((s.tileXfers c slot (s.strm c slot).done).map (·.len)).foldl (· + ·) 0 = (s.strm c slot).d.bytes)
    (harr : ∀ f ∈ s.tileXfers c slot (s.strm c slot).done, f.arrived = true) :
    execTileCommit c slot s = .next (s.commitTile c slot (s.strm c slot).done false) := by
  simp only [execTileCommit, hheld, htile, hwhole, decide_true, Bool.true_and, Bool.false_eq_true, if_false]
  refine if_pos (List.all_eq_true.mpr fun f hf => ?_)
  rw [harr f hf, hkind]
  cases s.window ((s.strm c slot).farAddr off) <;> rfl

end Sys2Proof.Machine

open Sys2Proof Sys2Proof.Machine

/-- Settles O22: the next tile of an IN stream is not held (`State.commitHeld_false`), so it is committed, and the parts of its commit
(`State.commitTile_in`) are each a write of what the statement names. -/
theorem tilesCommitInOrder : Obligations.TilesCommitInOrder := by
  intro c slot s m xs commits hstate hstop hlt hkind hnulls hstill hfill
  have hheld : s.commitHeld c slot m.done = false := State.commitHeld_false hstate hstop hlt hnulls hstill hfill
  have hcommit (null : Bool) (hexec : exec (.tileCommit c slot) s = .next (s.commitTile c slot m.done null)) :
      commits (s.tileData c slot m.done null).1 := by
    have hmem := State.commitTile_mem (t := m.done) null hkind hstop
    have hpegs := State.commitTile_pegs (t := m.done) null hkind hstop
    have hstrm := State.commitTile_strm (t := m.done) null hkind hstop
    have hfills : ((s.commitTile c slot m.done null).strm c slot).fills = m.fills + boolNat (m.fillAfter m.done) := by
      rw [hstrm, if_pos rfl]; rfl
    have hland : (s.landTile c (m.nearKey c m.done) m.d.bytes (s.tileData c slot m.done null)).pegs = s.pegs :=
      (MemRegs.landTile _ _ _ _ _).pegs
    refine ⟨_, hexec, ?read, ?memory, ?done, State.commitTile_otherCores null hkind hstop,
      fun e => State.commitTile_eng null hkind hstop e, State.commitTile_regN_strMoved null hkind hstop,
      fun j hj => (hstrm j).trans (if_neg hj), ?word, fun hf => ⟨?kept, ?count0⟩, fun hf => ⟨?count1, ?fill⟩⟩
    case read => exact (State.rdBytes_of_mem hmem _ _).trans (State.rdBytes_wr_self _ _ _)
    case memory => exact fun k hk => (State.rd8_of_mem hmem k).trans (MemOnly.wr _ _ _ k hk)
    case done => rw [hstrm, if_pos rfl]; rfl
    case word => rw [hpegs, ← hland]; exact State.postFill_pegs_word _ _ _ _ _
    case kept => rw [hpegs, ← hland, State.tileLanded, State.postFill_none _ hf]
    case count0 => rw [hfills, hf]; rfl
    case count1 => rw [hfills, hf]; rfl
    case fill => rw [hpegs, ← hland]; exact State.postFill_fills _ hf
  exact ⟨fun off htile hwhole harr => hcommit false (execTileCommit_far hheld htile hkind hwhole harr),
    fun htile => hcommit true (execTileCommit_null hheld htile)⟩

end

section
/-! What the statements about the stream engine share: what a fault leaves of its core, and the engine after an issue. -/
namespace Sys2Proof.Machine

/-- Nothing of the cores but the engines of core c has changed, and memory is as before. -/
structure EngsOnly (s t : State) (c : Nat) : Prop where
  others : OtherCores s t c
  core : t.core c = { s.core c with engs := (t.core c).engs }
  mem : t.mem = s.mem

/-! ### Faults -/

theorem EngsOnly.refl (s : State) (c : Nat) : EngsOnly s s c := ⟨fun _ _ => rfl, rfl, rfl⟩

theorem EngsOnly.trans {s t u : State} {c : Nat} (h : EngsOnly s t c) (g : EngsOnly t u c) : EngsOnly s u c :=
  ⟨h.others.trans g.others, by rw [g.core, h.core], g.mem.trans h.mem⟩

theorem EngsOnly.of_kept {s t : State} (h : CoresMemKept s t) (c : Nat) : EngsOnly s t c :=
  ⟨OtherCores.of_cores h.1 c, by rw [State.core_of_cores h.1], h.2⟩

theorem EngsOnly.setEng (s : State) (c e : Nat) (k : Eng) : EngsOnly s (s.setEng c e k) c :=
  ⟨OtherCores.setEng s c e k, by rw [State.setEng, State.core_setCore_self]; rfl, rfl⟩

theorem State.cycles_setEng (s : State) (c e : Nat) (k : Eng) : ((s.setEng c e k).core c).cycles = (s.core c).cycles := by
  rw [(EngsOnly.setEng s c e k).core]

theorem EngsOnly.str {s t : State} {c : Nat} (h : EngsOnly s t c) : t.str c = s.str c := by rw [State.str, h.core]; rfl

theorem EngsOnly.strm {s t : State} {c : Nat} (h : EngsOnly s t c) (slot : Nat) : t.strm c slot = s.strm c slot := by
  rw [State.strm, h.str]; rfl

theorem EngsOnly.g {s t : State} {c : Nat} (h : EngsOnly s t c) (n : Nat) : t.g c n = s.g c n := State.g_of (by rw [h.core]) n

theorem EngsOnly.loads {s t : State} {c : Nat} (h : EngsOnly s t c) : (t.core c).loads = (s.core c).loads := by rw [h.core]

/-- Another state of the peg units. -/
theorem EngsOnly.setPegs (s : State) (c : Nat) (p : Pegs) : EngsOnly s { s with pegs := p } c :=
  ⟨fun _ _ => rfl, rfl, rfl⟩

theorem EngsOnly.endWait (s : State) (c e : Nat) : EngsOnly s (s.endWait c e) c :=
  (EngsOnly.setPegs s c _).trans (EngsOnly.setEng _ c e _)

theorem EngsOnly.catchCore (s : State) (c e : Nat) : EngsOnly s (s.catchCore c e) c := by
  unfold State.catchCore
  split
  · next hcaught =>
    clear hcaught
    generalize List.range 6 = l
    induction l generalizing s with
    | nil => exact EngsOnly.refl s c
    | cons x l ih =>
      rw [List.foldl_cons]
      split
      · exact ih s
      · exact (EngsOnly.setEng s c x _).trans (ih _)
  · exact EngsOnly.refl s c

/-- Engine e of core c stands in a fault, and only engines of that core, records and peg units have changed (R90, R91). -/
structure Faulted (s t : State) (c e code : Nat) : Prop where
  st : (t.eng c e).st = .faulted
  fault : (t.eng c e).fault = code
  only : EngsOnly s t c

/-- The engine put into its fault, with its core caught (R589). -/
theorem Faulted.of_setEng {s u : State} {c e code : Nat} {k : Eng} (h : EngsOnly s u c) (hst : k.st = .faulted) (hcode : k.fault = code) :
    Faulted s ((u.setEng c e k).catchCore c e) c e code := by
  have heng := ((u.setEng c e k).catchCore_frame c e).1.trans (State.eng_setEng_self u c e k)
  exact ⟨by rw [heng, hst], by rw [heng, hcode], (h.trans (EngsOnly.setEng u c e k)).trans (EngsOnly.catchCore _ c e)⟩

theorem Faulted.kept {s t u : State} {c e code : Nat} (h : Faulted s t c e code) (hcores : u.cores = t.cores) (hmem : u.mem = t.mem) :
    Faulted s u c e code := by
  have heng := State.eng_of_cores hcores c e
  exact ⟨by rw [heng, h.st], by rw [heng, h.fault], h.only.trans (EngsOnly.of_kept ⟨hcores, hmem⟩ c)⟩

theorem State.precise_faulted (s : State) (c e code x d2 d3 : Nat) : Faulted s (s.precise c e code x d2 d3) c e code := by
  have hrecord := EngsOnly.of_kept (CoresMemKept.record s 0 code 0 (s.unitEng c e) (faultD0 (s.eng c e).pc x) (faultD1 (s.eng c e).pc x) d2 d3) c
  refine Faulted.of_setEng ?_ rfl rfl
  refine EngsOnly.trans ?_ (EngsOnly.endWait _ c e)
  cases (s.eng c e).grant with
  | none => exact hrecord
  | some p => exact hrecord.trans (EngsOnly.setPegs _ c _)

theorem State.late_faulted (s : State) (c e pc code x d2 d3 : Nat) : Faulted s (s.late c e pc code x d2 d3) c e code :=
  Faulted.of_setEng (EngsOnly.of_kept (CoresMemKept.record _ _ _ _ _ _ _ _ _) c) rfl rfl

/-! ### The engine after an issue -/

theorem Eng.moved_st (k : Eng) (e n : Nat) (target : Option Nat) (left : Option Issued) : (k.moved e n target left).st = .issuing := by
  cases target with
  | some t => cases left <;> rfl
  | none => cases left <;> (simp only [Eng.moved, Eng.goNext]; split <;> rfl)

theorem State.eng_signal (s : State) (c e pc : Nat) (p : Bool) (f : BitVec 16) (d g : Nat) : (s.signal c e pc p f).eng d g = s.eng d g := by
  unfold State.signal
  split
  · exact State.eng_setCore_engs (s := s) (by rfl) d g
  · rfl

theorem State.eng_signals (s : State) (c e pc : Nat) (p : Bool) (f0 f1 : BitVec 16) (d g : Nat) :
    (s.signals c e pc p f0 f1).eng d g = s.eng d g := by
  rw [State.signals, State.eng_signal, State.eng_signal]

/-- An engine that has issued an instruction is in no stall and no fault. -/
theorem State.finish_st (t : State) (c e pc : Nat) (f0 f1 : BitVec 16) (target : Option Nat) (left : Option Issued) :
    ((t.finish c e pc f0 f1 target left).eng c e).st = .issuing := by
  have hissued : ((((t.setCore c ((t.core c).afterIssue e target left)).traceIssue c e pc).pmu c 2 e 1).eng c e).st = .issuing := by
    rw [State.eng_of_cores (State.pmu_cores _ _ _ _ _), State.eng_of_cores (State.traceIssue_cores _ _ _ _), State.eng, State.core_setCore_self]
    exact (congrArg Eng.st (Core.eng_setEng_self (t.core c) e _)).trans (Eng.moved_st _ _ _ _ _)
  cases left <;> simp only [State.finish, State.eng_signals, hissued]

theorem State.issued_st (s t : State) (c e : Nat) (w : EngW) (target : Option Nat) (left : Option Issued) :
    ((s.issued t c e w target left).eng c e).st = .issuing := State.finish_st _ _ _ _ _ _ _ _

end Sys2Proof.Machine
end

section
/-! STRM from its window to its slot, and its completion (R226 to R231). -/
namespace Sys2Proof.Machine

variable {s : State} {c : Fin 64} {w : EngW}

theorem State.setStr_frame (s : State) (c : Nat) (x : Str) :
    CoreOnly s (s.setStr c x) ∧ OtherCores s (s.setStr c x) c ∧ (∀ e, (s.setStr c x).eng c e = s.eng c e) ∧ (s.setStr c x).regs = s.regs :=
  ⟨CoreOnly.setCore _ _ _, OtherCores.setStr s c x, fun e => s.eng_setStr c x c e, rfl⟩

theorem State.strm_setStrm (s : State) (c slot j : Nat) (m : Strm) : (s.setStrm c slot m).strm c j = if j = slot then m else s.strm c j := by
  rw [State.setStrm, State.strm, State.str_setStr_self, Str.strm_setStrm]
  rfl

/-! ### The acceptance window -/

theorem execStrmWindowOpen_go (hm : s.mayIssue c 4 0x10 w = true) (hown : strmOwn w = true) (haq : strmEntries w ≤ (s.eng c 4).aq.length)
    (hfree : (s.str c).free ≠ none) (hnone : (s.str c).window = none) :
    execStrmWindowOpen c w s = .next (s.setStr c { s.str c with
      window := some ⟨(s.eng c 4).pc, w, (s.core c).cycles, (s.accept c w).1, (s.accept c w).2⟩ }) := by
  simp only [State.mayIssue, Bool.and_eq_true] at hm
  obtain ⟨⟨hat, hfields⟩, hwaits⟩ := hm
  have hready : s.windowReady c w = true := by
    simp [State.windowReady, State.front_of_atWord hat, hown, hfields, hwaits, haq, Option.isSome_iff_ne_none.mpr hfree]
  simp [execStrmWindowOpen, hready, hnone]

/-! ### STRM at the end of its window -/

/-- The stream that an accepted STRM starts in a slot. -/
def State.accepted (s : State) (c : Nat) (w : EngW) (v : Window) (slot : Nat) : Strm :=
  { state := 1, pc := (s.eng c 4).pc, sig0 := w.sig0, sig1 := w.sig1, d := v.d, cls := s.classOf v.d, total := v.d.total,
    epoch := ((s.strm c slot).epoch + 1) % 63 }

/-- The state after STRM's own part: the entries it uses are taken, and its stream stands in the slot. -/
def State.startStream (s : State) (c : Nat) (w : EngW) (v : Window) (slot : Nat) : State :=
  let m := s.accepted c w v slot
  (s.setEng c 4 { s.eng c 4 with aq := (s.eng c 4).aq.drop (strmEntries w) }).setStr c
    { (s.str c).setStrm slot m with window := none, used := if m.cls = 2 then (slot, m.epoch) :: (s.str c).used else (s.str c).used }

theorem State.startStream_strm (v : Window) (slot j : Nat) :
    (s.startStream c w v slot).strm c j = if j = slot then s.accepted c w v slot else s.strm c j := by
  rw [State.strm, State.startStream, State.str_setStr_self]
  exact Str.strm_setStrm (s.str c) slot j (s.accepted c w v slot)

theorem State.startStream_frame (v : Window) (slot : Nat) :
    CoreOnly s (s.startStream c w v slot) ∧ OtherCores s (s.startStream c w v slot) c ∧ (s.startStream c w v slot).regs = s.regs ∧
      (s.startStream c w v slot).eng c 4 = { s.eng c 4 with aq := (s.eng c 4).aq.drop (strmEntries w) } := by
  refine ⟨rfl, (OtherCores.setEng s c 4 _).trans (OtherCores.setStr _ c _), rfl, ?_⟩
  rw [State.startStream, State.eng_setStr, State.eng_setEng_self]

section
variable {v : Window} (haq : strmEntries w ≤ (s.eng c 4).aq.length) (hwin : (s.str c).window = some v) (hpc : v.pc = (s.eng c 4).pc)
  (hripe : v.opened + 4 ≤ (s.core c).cycles)
include haq hwin hpc hripe

theorem strmBody_go {slot : Nat} (hbad : v.bad = none) (hslot : (s.str c).startSlot (s.classOf v.d == 2) = some slot) :
    strmBody c w s = .go (s.startStream c w v slot) none (some
      { pc := (s.eng c 4).pc, opc := 0x10, sig0 := w.sig0, sig1 := w.sig1, ready := (s.core c).cycles, lo := 0, len := 0 }) := by
  have hopen : ¬ (v.pc ≠ (s.eng c 4).pc ∨ (s.core c).cycles < v.opened + 4) := by rw [hpc]; omega
  simp only [strmBody, Nat.not_lt.mpr haq, hwin, hopen, hbad, hslot, if_false]
  rw [engLeft, State.eng_setEng_self, State.cycles_setEng]
  rfl

theorem strmBody_fault {code n off : Nat} (hbad : v.bad = some (code, n, off)) : strmBody c w s = .fault code n off 0 := by
  have hopen : ¬ (v.pc ≠ (s.eng c 4).pc ∨ (s.core c).cycles < v.opened + 4) := by rw [hpc]; omega
  simp only [strmBody, Nat.not_lt.mpr haq, hwin, hopen, hbad, if_false]

end

/-- An STRM that issues closes its window: no check value of a descriptor has failed. -/
theorem execStrm_go {u : State} {i : Issued} {v : Window} (hm : s.mayIssue c 4 0x10 w = true) (hown : strmOwn w = true)
    (hwin : (s.str c).window = some v) (hripe : v.opened + 4 ≤ (s.core c).cycles) (hbody : strmBody c w s = .go u none (some i)) :
    execStrm c w s = .next ((s.issued u c 4 w none (some i)).setStr c { (s.issued u c 4 w none (some i)).str c with window := none }) := by
  have hst := s.issued_st u c 4 w none (some i)
  have hraised : s.descCheckRaised (s.issued u c 4 w none (some i)) c = false := by simp [State.descCheckRaised, hst]
  have hissue : s.issue c 4 0x10 w (insnOwn 4 0x10 w) (strmBody c w) = .next (s.issued u c 4 w none (some i)) := State.issue_go hm hown hbody
  simp [execStrm, hissue, hraised, hwin, hripe, hst]

/-- An STRM whose window ends in a failed check takes its fault and closes the window; a failed check value is counted (R547). -/
theorem execStrm_fault {code n off : Nat} {v : Window} (hm : s.mayIssue c 4 0x10 w = true) (hown : strmOwn w = true)
    (hwin : (s.str c).window = some v) (hripe : v.opened + 4 ≤ (s.core c).cycles) (hbody : strmBody c w s = .fault code n off 0) :
    ∃ t, Faulted s t c 4 code ∧ execStrm c w s = .next (t.setStr c { t.str c with window := none }) := by
  have hfault := s.precise_faulted c 4 code n off 0
  have hissue : s.issue c 4 0x10 w (insnOwn 4 0x10 w) (strmBody c w) = .next (s.precise c 4 code n off 0) := State.issue_fault hm hown hbody
  simp only [execStrm, hissue, hwin, hripe]
  split
  · have ht := hfault.kept (u := (s.precise c 4 code n off 0).bump (Reg.chkFails 0) 0 32) rfl rfl
    exact ⟨_, ht, by simp [ht.st]⟩
  · exact ⟨_, hfault, by simp [hfault.st]⟩

/-! ### Completion -/

/-- The state before the signals of a stream's completion: its slot is free, and its STRM is no longer outstanding. -/
def State.streamEnded (s : State) (c slot : Nat) (i : Issued) : State :=
  (s.setStrm c slot { s.strm c slot with state := 0 }).setEng c 4 { s.eng c 4 with out := (s.eng c 4).out.erase i }

theorem State.streamEnded_strm (slot j : Nat) (i : Issued) :
    (s.streamEnded c slot i).strm c j = if j = slot then { s.strm c slot with state := 0 } else s.strm c j := by
  rw [State.streamEnded, (EngsOnly.setEng _ c 4 _).strm, State.strm_setStrm]

theorem execStreamComplete_go {slot : Fin 16} {i : Issued} (hstill : s.still c = false) (hstate : (s.strm c slot).state = 1)
    (hstop : (s.strm c slot).stop = none) (hdone : (s.strm c slot).done = (s.strm c slot).total)
    (hfills : (s.strm c slot).filled = (s.strm c slot).fills) (hxfers : ∀ f ∈ (s.str c).xfers, f.slot ≠ slot.val)
    (hfind : (s.eng c 4).out.find? (fun i => i.pc == (s.strm c slot).pc && i.opc == 0x10 && i.sig0 == (s.strm c slot).sig0 &&
      i.sig1 == (s.strm c slot).sig1) = some i) :
    execStreamComplete c slot s = .next (((s.streamEnded c slot i).signals c 4 i.pc true i.sig0 i.sig1).tryHalt c 4) := by
  have hnone : (s.str c).xfers.any (fun f => f.slot == slot.val) = false := by simpa [List.any_eq_false] using hxfers
  have heng : (s.setStrm c slot { s.strm c slot with state := 0 }).eng c 4 = s.eng c 4 := State.eng_setStr _ _ _ _ _
  unfold execStreamComplete
  dsimp only
  rw [if_pos (by simp [hstill, hstate, hstop, hdone, hfills, hnone]), heng, hfind]
  rfl

end Sys2Proof.Machine

open Sys2Proof Sys2Proof.Machine

/-- Settles O20: the window opens, STRM issues and the stream completes by the equations of their commands (`execStrmWindowOpen_go`,
`execStrm_go`, `execStreamComplete_go`), each with its frame; a failed check is a precise fault (`execStrm_fault`). -/
theorem streamAcceptance : Obligations.StreamAcceptance := by
  intro c w s k
  refine ⟨fun hm hown haq hfree hnone => ?window, fun v slot hm hown haq hwin hpc hripe hbad hslot => ?issue,
    fun v code n off hm hown haq hwin hpc hripe hbad => ?fault, fun slot i => ?complete⟩
  case window =>
    obtain ⟨hcore, hother, heng, hregs⟩ := s.setStr_frame c { s.str c with
      window := some ⟨k.pc, w, (s.core c).cycles, (s.accept c w).1, (s.accept c w).2⟩ }
    exact ⟨_, _, execStrmWindowOpen_go hm hown haq hfree hnone, by rw [State.str_setStr_self], rfl, rfl, rfl, rfl, rfl,
      by rw [State.str_setStr_self], hcore, hother, heng, hregs⟩
  case issue =>
    obtain ⟨hcore, hother, hregs, heng⟩ := State.startStream_frame (s := s) (c := c) (w := w) v slot
    have hstrm (j : Nat) := State.startStream_strm (s := s) (c := c) (w := w) v slot j
    have hslot' := (hstrm slot).trans (if_pos rfl)
    refine ⟨_, _, execStrm_go hm hown hwin hripe (strmBody_go haq hwin hpc hripe hbad hslot), hcore, hother, hregs, heng, rfl, rfl,
      ?_, ?_, ?_, ?_, ?_, ?_, fun j hj => (hstrm j).trans (if_neg hj)⟩
    all_goals rw [hslot']; rfl
  case fault =>
    obtain ⟨t, ht, hexec⟩ := execStrm_fault hm hown hwin hripe (strmBody_fault haq hwin hpc hripe hbad)
    refine ⟨_, hexec, ?_, ?_, ?_, ?_, ht.only.mem⟩
    · rw [State.eng_setStr, ht.st]
    · rw [State.eng_setStr, ht.fault]
    · rw [State.str_setStr_self]
    · rw [State.str_setStr_self, ht.only.str]
  case complete =>
    intro m hstill hstate hstop hdone hfills hxfers hfind
    have hstrm (j : Nat) := State.streamEnded_strm (s := s) (c := c) slot j i
    refine ⟨_, execStreamComplete_go hstill hstate hstop hdone hfills hxfers hfind, rfl,
      (OtherCores.setStr s c _).trans (OtherCores.setEng _ c 4 _), rfl, ?_, ?_, fun j hj => (hstrm j).trans (if_neg hj)⟩
    · rw [hstrm, if_pos rfl]
    · rw [State.streamEnded, State.eng_setEng_self]

end

section
/-! Stream requests, list pieces, and the arrival and retirement of transfers (R253 to R258). -/
namespace Sys2Proof.Machine
open Sys2Proof.Laws.Tab

variable {s : State} {c : Fin 64}

/-! ### Class credit (R255) -/

theorem State.credit_le (s : State) (c k : Nat) : s.credit c k ≤ 2048 := Int.min_le_right _ _

/-- Credit counted in this network cycle has not grown since. -/
theorem State.credit_of_counted {t : State} {c k : Nat} (h : Tab.get (fun _ => 0) (t.str c).creditAt k = t.netCycle) :
    t.credit c k = min (Tab.get (fun _ => 0) (t.str c).credit k) 2048 := by
  have hzero : ((0 : Nat) : Int) = 0 := rfl
  simp only [State.credit, h, Nat.sub_self, hzero, Int.mul_zero, Int.add_zero]

/-- The stream engine once a class has paid a cost. -/
def State.strCharged (s : State) (c k cost : Nat) : Str :=
  { s.str c with credit := Tab.set (fun _ => 0) (s.str c).credit k (s.credit c k - cost),
                 creditAt := Tab.set (fun _ => 0) (s.str c).creditAt k s.netCycle }

theorem State.charge_eq (s : State) (c k cost : Nat) : s.charge c k cost = s.setStr c (s.strCharged c k cost) := rfl

/-- A later state that holds a class's credit as its charge left it, in the same network cycle. -/
theorem State.credit_charged {t : State} {c k cost : Nat} (hns : t.ns = s.ns) (hcr : (t.str c).credit = (s.strCharged c k cost).credit)
    (hat : (t.str c).creditAt = (s.strCharged c k cost).creditAt) : t.credit c k = s.credit c k - cost := by
  have hle := s.credit_le c k
  have hcount : Tab.get (fun _ => 0) (t.str c).creditAt k = t.netCycle := by
    rw [hat, State.strCharged, get_set_self, State.netCycle, State.netCycle, hns]
  rw [State.credit_of_counted hcount, hcr, State.strCharged, get_set_self]
  omega

/-- Credit rests on the stream engine, the shares and the clock. -/
theorem State.credit_congr {s t : State} {c k : Nat} (hstr : t.str c = s.str c) (hreg : t.reg (Reg.strSplit c) = s.reg (Reg.strSplit c))
    (hns : t.ns = s.ns) : t.credit c k = s.credit c k := by
  simp only [State.credit, hstr, State.fld, State.regN, hreg, State.netCycle, hns]

/-! ### A request starts -/

/-- The NAN flag that the transform of an OUT or ADD tile leaves when its bytes are taken (R250). -/
def State.nearFlagged (s : State) (c slot t : Nat) : State :=
  let m := s.strm c slot
  if m.d.kind ≠ 0 ∧ (m.d.apply (s.rdBytes (m.nearKey c t) m.d.bytes)).2 then s.orReg (Reg.strFlags c) 1 else s

/-- A request's cost charged and counted, and the core stirred. -/
def State.paid (s : State) (c k cost : Nat) : State := ((s.charge c k cost).pmu c 9 k ((cost + 63) / 64)).stirNext c

/-- The transfer of a request for n bytes of a tile from byte part on. -/
def State.newXfer (s : State) (c slot t part n : Nat) : Xfer :=
  let m := s.strm c slot
  { slot := slot, tile := t, off := part, len := n, seq := m.seq % 65536,
    bytes := if m.d.kind = 0 then [] else ((m.d.apply (s.rdBytes (m.nearKey c t) m.d.bytes)).1.drop part).take n }

/-- A stream once its request has started. -/
def Strm.requested (m : Strm) (t part n : Nat) : Strm :=
  { m with tile := if part + n = m.d.bytes then t + 1 else t, part := if part + n = m.d.bytes then 0 else part + n, seq := (m.seq + 1) % 65536 }

/-- The stream engine once slot's request has started in network cycle now. -/
def Str.requested (y : Str) (slot now : Nat) (f : Xfer) (m : Strm) : Str :=
  { y with xfers := y.xfers ++ [f], turn := Tab.set (fun _ => 15) y.turn m.cls slot, startAt := Tab.set (fun _ => 0) y.startAt m.cls (now + 1) }

theorem execStreamRequestStart_go {slot : Fin 16} {t part n cost : Nat} {a : W64} (hnext : s.nextReq c slot = .req t part a n cost)
    (hcls : (s.strm c slot).cls ≠ 2) (hturn : s.turnOf c (s.strm c slot).cls = some slot.val) (hcredit : 0 < s.credit c (s.strm c slot).cls)
    (hroom : (s.str c).inFlight < 768) (hstill : s.still c = false) (hbusy : s.classBusy c (s.strm c slot).cls = false) :
    let u := (s.nearFlagged c slot t).paid c (s.strm c slot).cls cost
    execStreamRequestStart c slot s = .next (u.setStr c
      (((u.str c).requested slot u.netCycle (s.newXfer c slot t part n) (s.strm c slot)).setStrm slot ((s.strm c slot).requested t part n))) := by
  have hgo : ¬ (s.turnOf c (s.strm c slot).cls ≠ some slot.val ∨ s.credit c (s.strm c slot).cls ≤ 0 ∨
      s.classBusy c (s.strm c slot).cls = true ∨ 768 ≤ (s.str c).inFlight) := by
    rw [hturn, hbusy]
    simp only [ne_eq, not_true_eq_false, Bool.false_eq_true, false_or]
    omega
  simp only [execStreamRequestStart, hstill, hnext, Bool.false_eq_true, if_false]
  rw [if_neg hgo, if_neg hcls]
  simp only [beq_iff_eq]
  rfl

theorem State.nearFlagged_frame (slot t : Nat) :
    CoreOnly s (s.nearFlagged c slot t) ∧ (s.nearFlagged c slot t).cores = s.cores ∧
      RegsOnly s (s.nearFlagged c slot t) (fun r => r = Reg.strFlags c) := by
  unfold State.nearFlagged
  dsimp only
  split
  · exact ⟨CoreOnly.orReg _ _ _, (MemRegs.orReg _ _ _).cores, RegsOnly.orReg _ _ _⟩
  · exact ⟨rfl, rfl, fun _ _ => rfl⟩

theorem State.paid_frame (s : State) (c k cost : Nat) :
    CoreOnly s (s.paid c k cost) ∧ OtherCores s (s.paid c k cost) c ∧ (∀ e, (s.paid c k cost).eng c e = s.eng c e) ∧
      (s.paid c k cost).str c = s.strCharged c k cost := by
  obtain ⟨hcore, hother, heng, -⟩ := s.setStr_frame c (s.strCharged c k cost)
  have hcores := State.pmu_cores (s.charge c k cost) c 9 k ((cost + 63) / 64)
  refine ⟨(hcore.trans (CoreOnly.pmu _ c 9 k _)).trans (CoreOnly.setCore _ _ _),
    (hother.trans (OtherCores.of_cores hcores c)).trans (OtherCores.stirNext _ c), fun e => ?_, ?_⟩
  · rw [State.paid, State.eng_stirNext, State.eng_of_cores hcores]; exact heng e
  · rw [State.paid, State.str_stirNext_self, State.str_of_cores hcores]; exact State.str_setStr_self _ _ _

/-- The flag of a transform is no part of the classes' credit. -/
theorem State.nearFlagged_strCharged (slot t k cost : Nat) : (s.nearFlagged c slot t).strCharged c k cost = s.strCharged c k cost := by
  obtain ⟨hcore, hcores, hregs⟩ := State.nearFlagged_frame (s := s) (c := c) slot t
  have hns : (s.nearFlagged c slot t).ns = s.ns := by rw [hcore]
  have hstr : (s.nearFlagged c slot t).str c = s.str c := State.str_of_cores hcores c
  have hreg := hregs (Reg.strSplit c) (by unfold Reg.strSplit Reg.strFlags; omega)
  rw [State.strCharged, State.credit_congr hstr hreg hns, hstr, State.netCycle, hns]
  rfl

/-! ### A list piece is read -/

/-- A stream with a piece of its list read: pieces behind the first undelivered tile are dropped. -/
def Strm.withPiece (m : Strm) (p : Nat) (bs : List Byte) : Strm :=
  { m with pieces := m.pieces.filter (fun q => decide ((m.d.listBase + 4 * (m.done / m.d.inner)) / 64 ≤ q.1)) ++ [(p, bs)] }

/-- The stream engine with a stream whose piece has been read by this network cycle's request of class 0, which is paid. -/
def State.strPieceRead (s : State) (c slot : Nat) (m : Strm) : Str :=
  { (s.strCharged c 0 64).setStrm slot m with startAt := Tab.set (fun _ => 0) (s.str c).startAt 0 (s.netCycle + 1) }

theorem execListPieceRead_go {slot : Fin 16} {p : Nat} (hstate : (s.strm c slot).state = 1) (hstop : (s.strm c slot).stop = none)
    (hlist : (s.strm c slot).d.list = true) (hnext : (s.strm c slot).nextPiece = some p) (hwin : ∀ va, britumWindow (p * 64) ≠ .tier va)
    (hcredit : 0 < s.credit c 0) (hroom : (s.str c).inFlight < 768) (hstill : s.still c = false) (hbusy : s.classBusy c 0 = false) :
    execListPieceRead c slot s = .next (((s.charge c 0 64).stirNext c).setStr c
      (s.strPieceRead c slot ((s.strm c slot).withPiece p (s.rdBytes (p * 64) 64)))) := by
  have hgo : ¬ (s.still c = true ∨ s.credit c 0 ≤ 0 ∨ s.classBusy c 0 = true ∨ 768 ≤ (s.str c).inFlight) := by
    rw [hstill, hbusy]
    simp only [Bool.false_eq_true, false_or]
    omega
  have hstr : ((s.charge c 0 64).stirNext c).str c = s.strCharged c 0 64 := by rw [State.str_stirNext_self]; exact State.str_setStr_self _ _ _
  have hlisted : ¬ ((s.strm c slot).state ≠ 1 ∨ (s.strm c slot).stop.isSome = true ∨ (!(s.strm c slot).d.list) = true) := by
    simp [hstate, hstop, hlist]
  unfold execListPieceRead
  dsimp only
  rw [if_neg hlisted, hnext]
  cases hw : britumWindow (p * 64) with
  | tier va => exact absurd hw (hwin va)
  | _ => simp only [hw]; rw [if_neg hgo, hstr]; rfl

/-! ### Arrival and retirement -/

theorem State.str_setXfer (s : State) (c n : Nat) (f : Xfer) : (s.setXfer c n f).str c = { s.str c with xfers := (s.str c).xfers.set n f } :=
  State.str_setStr_self _ _ _

theorem State.setXfer_stirNext_frame (s : State) (c n : Nat) (f : Xfer) :
    let t := (s.setXfer c n f).stirNext c
    CoreOnly s t ∧ OtherCores s t c ∧ t.regs = s.regs ∧ (∀ e, t.eng c e = s.eng c e) ∧
      t.str c = { s.str c with xfers := (s.str c).xfers.set n f } := by
  refine ⟨rfl, (OtherCores.setStr s c _).trans (OtherCores.stirNext _ c), rfl, fun e => ?_, ?_⟩
  · rw [State.eng_stirNext]; exact State.eng_setStr s c _ c e
  · rw [State.str_stirNext_self, State.str_setXfer]

theorem Strm.drops_of_stop_none {m : Strm} (h : m.stop = none) (t : Nat) : m.drops t = false := by simp [Strm.drops, h]

/-- A transfer that has arrived: an IN request's bytes are read then. -/
def State.arrivedXfer (s : State) (m : Strm) (f : Xfer) : Xfer :=
  { f with arrived := true, bytes := if m.d.kind = 0 then s.rdBytes (addrOff (m.xferAddr f)) f.len else f.bytes }

theorem execTransferArrive_go {n : Nat} {f : Xfer} (hf : (s.str c).xfers[n]? = some f) (harr : f.arrived = false)
    (hstop : (s.strm c f.slot).stop = none) (hcls : (s.strm c f.slot).cls ≠ 2)
    (hreset : s.windowInReset (s.window ((s.strm c f.slot).xferAddr f)) = false)
    (hdie : (s.strm c f.slot).d.kind = 0 → (s.window ((s.strm c f.slot).xferAddr f)).onDie = true) :
    execTransferArrive c n s = .next ((s.setXfer c n (s.arrivedXfer (s.strm c f.slot) f)).stirNext c) := by
  simp only [execTransferArrive, hf, Strm.drops_of_stop_none hstop, hreset]
  rw [if_neg (by simp [harr]), if_neg (by simp)]
  by_cases hkind : (s.strm c f.slot).d.kind = 0
  · rw [if_pos hkind, if_pos ⟨hcls, hdie hkind⟩, State.arrivedXfer, if_pos hkind]
  · rw [if_neg hkind, if_neg hcls, State.arrivedXfer, if_neg hkind]

/-- The stream engine once transfer n has retired: those of the slot's committed tiles are gone. -/
def Str.retired (x : Str) (n done : Nat) (f : Xfer) : Str :=
  { x with xfers := (x.xfers.set n { f with retired := true }).filter (fun g => !(g.slot == f.slot && g.retired && decide (g.tile < done))) }

theorem execTransferRetire_go {n : Nat} {f : Xfer} (hf : (s.str c).xfers[n]? = some f) (hret : f.retired = false) (harr : f.arrived = true)
    (hwrite : s.awaitsWrite (s.strm c f.slot) f = false) (hstop : (s.strm c f.slot).stop = none) :
    execTransferRetire c n s = .next (((s.setXfer c n { f with retired := true }).stirNext c).setStr c
      ((s.str c).retired n (s.strm c f.slot).done f)) := by
  obtain ⟨-, -, -, -, hstr⟩ := s.setXfer_stirNext_frame c n { f with retired := true }
  simp only [execTransferRetire, hf]
  rw [if_neg (by simp [hret, harr, hwrite]), hstr]
  refine congrArg Host.Outcome.next (State.settle_of_stop_none ?_)
  rw [State.strm, State.str_setStr_self]
  exact hstop

/-- A transfer of a tile that is not committed stays when it retires. -/
theorem Str.mem_retired {x : Str} {n done : Nat} {f : Xfer} (hf : x.xfers[n]? = some f) (hdone : done ≤ f.tile) :
    { f with retired := true } ∈ (x.retired n done f).xfers := by
  obtain ⟨hn, -⟩ := List.getElem?_eq_some_iff.mp hf
  exact List.mem_filter.mpr ⟨List.mem_set hn _, by simp [hdone]⟩

end Sys2Proof.Machine

open Sys2Proof Sys2Proof.Machine

/-- Settles O21: a request that starts pays its class's credit (`State.credit_charged`) and is put behind the transfers in flight, a list piece pays
64 bytes and is held, and an arrival or a retirement rewrites its own transfer (`State.setXfer_stirNext_frame`). -/
theorem streamTransfers : Obligations.StreamTransfers := by
  intro c s
  refine ⟨fun slot t part a n cost => ?request, fun slot p => ?piece, fun n f => ?arrive, fun n f => ?retire⟩
  case request =>
    intro m hnext hcls hturn hcredit hroom hstill hbusy
    obtain ⟨hcore, hcores, -⟩ := State.nearFlagged_frame (s := s) (c := c) slot t
    obtain ⟨hpaid, hother, heng, hstr⟩ := (s.nearFlagged c slot t).paid_frame c m.cls cost
    rw [State.nearFlagged_strCharged] at hstr
    have hexec := execStreamRequestStart_go hnext hcls hturn hcredit hroom hstill hbusy
    dsimp only at hexec
    rw [hstr] at hexec
    have hns : ((s.nearFlagged c slot t).paid c m.cls cost).ns = s.ns := by rw [hcore.trans hpaid]
    refine ⟨_, s.newXfer c slot t part n, hexec, ?xfers, rfl, rfl, rfl, rfl, rfl, rfl, ?credit, fun hk => if_pos hk, ?tile, ?part, ?done, ?core,
      ?other, fun e => ?eng, fun j hj => ?slots⟩
    case xfers => rw [State.str_setStr_self]; rfl
    case credit => exact State.credit_charged hns (by rw [State.str_setStr_self]; rfl) (by rw [State.str_setStr_self]; rfl)
    case core => exact (hcore.trans hpaid).trans (CoreOnly.setCore _ _ _)
    case other => exact ((OtherCores.of_cores hcores c).trans hother).trans (OtherCores.setStr _ c _)
    case eng => rw [State.eng_setStr, heng, State.eng_of_cores hcores]
    case slots => rw [State.strm, State.str_setStr_self, Str.strm_setStrm, if_neg hj]; rfl
    all_goals rw [State.strm, State.str_setStr_self, Str.strm_setStrm, if_pos rfl]; rfl
  case piece =>
    intro m hstate hstop hlist hnext hwin hcredit hroom hstill hbusy
    have hslot : ((((s.charge c 0 64).stirNext c).setStr c (s.strPieceRead c slot (m.withPiece p (s.rdBytes (p * 64) 64)))).strm c slot) =
        m.withPiece p (s.rdBytes (p * 64) 64) := by
      rw [State.strm, State.str_setStr_self]
      exact (Str.strm_setStrm (s.strCharged c 0 64) slot slot _).trans (if_pos rfl)
    refine ⟨_, execListPieceRead_go hstate hstop hlist hnext hwin hcredit hroom hstill hbusy, ?held, ?paid, ?undelivered,
      rfl, ?cores, rfl, fun e => ?engines⟩
    case held => rw [hslot]; exact List.mem_append_right _ (List.mem_singleton_self _)
    case paid => exact State.credit_charged rfl (by rw [State.str_setStr_self]; rfl) (by rw [State.str_setStr_self]; rfl)
    case undelivered => rw [hslot]; rfl
    case cores => exact ((OtherCores.setStr s c _).trans (OtherCores.stirNext _ c)).trans (OtherCores.setStr _ c _)
    case engines => rw [State.eng_setStr, State.eng_stirNext]; exact State.eng_setStr s c _ c e
  case arrive =>
    intro m hf harr hstop hcls hreset hdie
    obtain ⟨hcore, hother, hregs, heng, hstr⟩ := s.setXfer_stirNext_frame c n (s.arrivedXfer m f)
    obtain ⟨hn, -⟩ := List.getElem?_eq_some_iff.mp hf
    refine ⟨_, execTransferArrive_go hf harr hstop hcls hreset hdie, hcore, hother, hregs, ?_, ?_, fun j hj => ?_, heng⟩
    · rw [hstr]
    · rw [hstr]; exact List.getElem?_set_self hn
    · rw [hstr]; exact List.getElem?_set_ne (Ne.symm hj)
  case retire =>
    intro m hf hret harr hwrite hstop hdone
    obtain ⟨hcore, hother, hregs, heng, -⟩ := s.setXfer_stirNext_frame c n { f with retired := true }
    refine ⟨_, execTransferRetire_go hf hret harr hwrite hstop, ?_, hcore.trans (CoreOnly.setCore _ _ _), hother.trans (OtherCores.setStr _ c _),
      hregs, ?_, fun e => ?_⟩
    · rw [State.str_setStr_self]; exact Str.mem_retired hf hdone
    · rw [State.str_setStr_self]; rfl
    · rw [State.eng_setStr]; exact heng e

end

section
/-! The supervisor's answers to what is suspended (R263, R315, R430), an aborted load's STR_ABORT (R315), and STR_SPLIT (R255). -/
namespace Sys2Proof.Machine
open Sys2Proof.Laws.Tab

/-! ### A stream resumed or aborted (R263) -/

theorem State.resumeStream_of_suspended {s : State} {c slot : Nat} (h : (s.strm c slot).state = 2) :
    s.resumeStream c slot = (s.setStrm c slot { s.strm c slot with state := 1, stop := none, tile := (s.strm c slot).done, part := 0 }).stirNext c :=
  if_pos h

theorem State.strm_setStrm_stirNext (s : State) (c slot : Nat) (m : Strm) : ((s.setStrm c slot m).stirNext c).strm c slot = m := by
  rw [State.strm, State.str_stirNext_self]
  exact (s.strm_setStrm c slot slot m).trans (if_pos rfl)

theorem Faulted.after {s t u : State} {c e code : Nat} (h : EngsOnly s t c) (g : Faulted t u c e code) : Faulted s u c e code :=
  ⟨g.st, g.fault, h.trans g.only⟩

/-- The late fault of a stream stops the stream engine, whether or not its STRM is still outstanding. -/
theorem State.strmFault_faulted (s : State) (c slot : Nat) (x : Stop) : Faulted s (s.strmFault c slot x) c 4 x.code := by
  have hlate (u : State) (h : EngsOnly s u c) (m : Strm) : Faulted s (if x.code = 0x172 then u.late c 4 m.pc 0x172 slot m.done x.pos
      else u.late c 4 m.pc x.code (slot + x.cause % 8 * 16) m.done (min m.filled 65535 + x.pos * 65536)) c 4 x.code := by
    split
    · next hcode => rw [hcode]; exact (u.late_faulted c 4 _ _ _ _ _).after h
    · exact (u.late_faulted c 4 _ _ _ _ _).after h
  refine hlate _ ?_ (s.strm c slot)
  split
  · exact EngsOnly.setEng _ _ _ _
  · exact EngsOnly.refl _ _

theorem State.abortStream_of_suspended {s : State} {c slot : Nat} (cause pkg : Nat) (h : (s.strm c slot).state = 2) :
    s.abortStream c slot cause pkg = ((s.setStrm c slot { s.strm c slot with state := 0, stop := none }).strmFault c slot
      ⟨(s.strm c slot).done, true, 0x183, cause, pkg⟩).stirNext c :=
  if_pos h

/-! ### A send unit's suspension (R430) -/

@[simp] theorem State.chan_setChan_self (s : State) (ch : Nat) (x : Chan) : (s.setChan ch x).chan ch = x := get_set_self _ _ _ _

theorem State.chan_stopSend {s : State} {ch : Nat} {x : Send} (h : (s.chan ch).send = some x) :
    (s.stopSend ch).chan ch = { s.chan ch with send := none, inst := x.inst + 1 } := by
  have hreqs (u : State) (rs : List Req) : ({ u with reqs := rs } : State).chan ch = u.chan ch := rfl
  simp only [State.stopSend, h, hreqs, State.chan_setChan_self]

/-! ### The control core's held accesses made again or given up (R315) -/

section
variable (s : State)

theorem State.queueFor_cores (g : Nat) (p : Pkt) : (s.queueFor g p).cores = s.cores := State.setPort_cores _ _ _

theorem State.respond_cores (sdie : Nat) (h : Head) (pay : List Byte) : (s.respond sdie h pay).cores = s.cores := by
  unfold State.respond
  dsimp only
  split
  · rfl
  · split
    · rfl
    · split
      · rfl
      · split
        · exact s.queueFor_cores _ _
        · exact s.bump_cores _ _ _

theorem State.blocked_cores (g : Nat) (p : Pkt) : (s.blocked g p).cores = s.cores := by
  unfold State.blocked
  split
  · exact s.bump_cores _ _ _
  · split
    · rfl
    · exact s.respond_cores _ _ _

theorem State.forward_cores (p : Pkt) : (s.forward p).cores = s.cores := by
  unfold State.forward
  split
  · exact s.bump_cores _ _ _
  · split
    · rfl
    · split
      · rfl
      · split
        · exact s.queueFor_cores _ _
        · exact s.blocked_cores _ _

theorem State.emit_cores (r : Req) : (s.emit r).cores = s.cores := by
  unfold State.emit
  dsimp only
  split
  · rfl
  · split
    · rfl
    · exact s.forward_cores _

theorem State.sendReq_cores (r : Req) : (s.sendReq r).cores = s.cores := State.emit_cores { s with reqs := s.reqs ++ [r] } r

theorem foldl_cores {α : Type} {f : State → α → State} (hf : ∀ t a, (f t a).cores = t.cores) :
    ∀ (l : List α) (s : State), (l.foldl f s).cores = s.cores
  | [], _ => rfl
  | a :: l, s => (foldl_cores hf l (f s a)).trans (hf s a)

theorem State.resendHeld_cores (c : Nat) : (s.resendHeld c).cores = s.cores := foldl_cores State.sendReq_cores _ s

end

/-- A store that is no longer held. -/
def CtlStore.released (x : CtlStore) : CtlStore := if x.held then { x with held := false } else x

theorem CtlStore.released_held (x : CtlStore) : x.released.held = false := by
  unfold CtlStore.released
  split
  · rfl
  · next h => exact eq_false_of_ne_true h

/-- A store once the held ones have been released and those on this die made. -/
def CtlStore.resumed (made : List CtlStore) (x : CtlStore) : CtlStore :=
  if made.any (fun y => y.pc == x.released.pc && y.addr == x.released.addr) then { x.released with done := true } else x.released

theorem CtlStore.resumed_held (made : List CtlStore) (x : CtlStore) : (x.resumed made).held = false := by
  unfold CtlStore.resumed
  split <;> exact x.released_held

/-- The held stores of core c that go to memory of this package's Britum die. -/
def State.heldHere (s : State) (c : Nat) : List CtlStore :=
  (s.core c).stores.filter (fun x => x.held && addrPkg x.addr == s.pkg && (s.window x.addr).onDie)

/-- The control core's accesses once none is held. -/
def State.accessesResumed (s : State) (c : Nat) : Core :=
  { s.core c with
    loads := (s.core c).loads.map (fun l => { l with held := false })
    stores := (s.core c).stores.map (CtlStore.resumed (s.heldHere c)) }

theorem execSuspensionResume_ctl (c : Fin 64) (s : State) :
    let u := s.resendHeld c
    execSuspensionResume (.ctl c) s = .next ((u.heldHere c).foldl (fun t x => t.wr (addrOff x.addr) (leBytes x.size x.data.toNat))
      (u.setCore c (u.accessesResumed c))) := by
  dsimp only [execSuspensionResume, State.accessesResumed]
  rw [List.map_map]
  rfl

/-- A load of the control core whose suspension ended in an abort of this cause. -/
def CtlLoad.given (cause : Nat) (l : CtlLoad) : CtlLoad := if l.held then { l with held := false, aborted := some cause } else l

theorem CtlLoad.given_held (cause : Nat) (l : CtlLoad) : (l.given cause).held = false := by
  unfold CtlLoad.given
  split
  · rfl
  · next h => exact eq_false_of_ne_true h

/-! ### An aborted load's STR_ABORT (R315) -/

theorem State.regUse_aborted {s : State} {c n cause : Nat} {l : CtlLoad} (hn : n ≠ 0) (hbusy : s.gBusy c n = true) (hl : s.loadInto c n = some l)
    (hab : l.aborted = some cause) : s.regUse c n = abortFault cause l.addr := by
  simp [State.regUse, hn, hbusy, hl, hab]

theorem State.toldAbort_head {s : State} {c n cause : Nat} {l : CtlLoad} (ns : List Nat) (hn : n ≠ 0) (hl : s.loadInto c n = some l)
    (hab : l.aborted = some cause) :
    s.toldAbort c (n :: ns) = s.setCore c { s.core c with
      loads := (s.core c).loads.erase l, gpend := Tab.set (fun _ => Pend.no) (s.core c).gpend l.gd Pend.no } := by
  have hfind : (n :: ns).findSome? (fun m => (s.loadInto c m).filter (fun l => m != 0 && l.aborted.isSome)) = some l := by
    simp [hl, hn, hab, Option.filter]
  rw [State.toldAbort, hfind]

/-- An ungated control-core instruction whose first register is that of an aborted load takes the load's STR_ABORT. -/
theorem State.ctl_toldAbort {s : State} {c word n cause : Nat} {l : CtlLoad} {ns : List Nat} {body : State → IssueRes} {post : State → State}
    (h : s.atWord c 5 word = true) (hn : n ≠ 0) (hbusy : s.gBusy c n = true) (hl : s.loadInto c n = some l) (hab : l.aborted = some cause) :
    ∃ t, Faulted (s.toldAbort c (n :: ns)) t c 5 0x183 ∧ s.ctl c word true false none (n :: ns) body post = .next t := by
  refine ⟨_, State.precise_faulted _ c 5 0x183 (0xF + 16 * cause) (l.addr.toNat % 2 ^ 32) (l.addr.toNat / 2 ^ 32), ?_⟩
  simp [State.ctl, State.front_of_atWord h, State.regsUse, State.regUse_aborted hn hbusy hl hab, abortFault]

/-! ### STR_SPLIT (R255) -/

theorem State.splitWrite_taken {s : State} {c v : Nat} (h : bitsOf v 0 4 + bitsOf v 4 4 + bitsOf v 8 4 = 16) :
    s.splitWrite c v = (s.setRegN (Reg.strSplit c) (v % 4096)).zeroCredit c := if_neg (not_not_intro h)

theorem State.splitWrite_refused {s : State} {c v : Nat} (h : bitsOf v 0 4 + bitsOf v 4 4 + bitsOf v 8 4 ≠ 16) :
    s.splitWrite c v = s.unmapped (Reg.strSplit c) := if_pos h

/-- One value written at every key of a list. -/
theorem get_foldl_set {α : Type} [DecidableEq α] (d : Nat → α) (v : α) (k : Nat) :
    ∀ (l : List Nat) (t : Tab α), Tab.get d (l.foldl (fun t j => Tab.set d t j v) t) k = if k ∈ l then v else Tab.get d t k
  | [], t => (if_neg List.not_mem_nil).symm
  | j :: l, t => by
    rw [List.foldl_cons, get_foldl_set d v k l, get_set]
    by_cases hl : k ∈ l
    · rw [if_pos hl, if_pos (List.mem_cons_of_mem _ hl)]
    · simp only [hl, if_false, List.mem_cons, or_false]

theorem State.zeroCredit_otherCores (s : State) (c : Nat) : OtherCores s (s.zeroCredit c) c := OtherCores.setStr s c _

theorem State.zeroCredit_coreOnly (s : State) (c : Nat) : CoreOnly s (s.zeroCredit c) := CoreOnly.setCore s c _

theorem State.zeroCredit_reg (s : State) (c off : Nat) : (s.zeroCredit c).reg off = s.reg off := rfl

theorem State.regN_setRegN_zeroCredit (s : State) (c off v : Nat) : ((s.setRegN off v).zeroCredit c).regN off = v % 2 ^ 64 := by
  rw [State.regN, State.zeroCredit_reg, State.setRegN, State.reg_setReg_self, BitVec.toNat_ofNat]

theorem State.zeroCredit_credit (s : State) (c : Nat) {k : Nat} (hk : k < 3) : (s.zeroCredit c).credit c k = 0 := by
  have hat : Tab.get (fun _ => 0) ((s.zeroCredit c).str c).creditAt k = (s.zeroCredit c).netCycle := by
    rw [State.zeroCredit, State.str_setStr_self]
    exact (get_foldl_set _ _ _ _ _).trans (if_pos (List.mem_range.mpr hk))
  rw [State.credit_of_counted hat, State.zeroCredit, State.str_setStr_self]
  rfl

end Sys2Proof.Machine

open Sys2Proof Sys2Proof.Machine

/-- Settles O23: an aborted stream's fault is late (`State.strmFault_faulted`) and that of an aborted load precise (`State.ctl_toldAbort`); the other
answers write the stream, the accesses or the send unit that they name, and STR_SPLIT its register and the classes' credit. -/
theorem suspensionsAndSplit : Obligations.SuspensionsAndSplit := by
  refine ⟨fun c slot s hstate => ⟨?resume, fun cause pkg => ?abort⟩, fun c s => ?ctlResume,
    fun ch x s hx => ⟨?sendResume, fun cause pkg hsusp => ?sendAbort⟩, fun c cause pkg s => ?ctlAbort,
    fun c i l cause s hat hga hl hab hbusy => ?told, fun c path v s hw => ⟨fun hsum => ?split, fun hsum => ?refused⟩⟩
  case resume =>
    have hexec : exec (.suspensionResume (.stream c slot)) s = .next (s.resumeStream c slot) := rfl
    rw [State.resumeStream_of_suspended hstate] at hexec
    have hstrm := s.strm_setStrm_stirNext c slot { s.strm c slot with state := 1, stop := none, tile := (s.strm c slot).done, part := 0 }
    refine ⟨_, hexec, ?_, ?_, ?_, ?_, ?_, rfl, (OtherCores.setStr s c _).trans (OtherCores.stirNext _ c), rfl⟩
    all_goals rw [hstrm]
  case abort =>
    have hexec : exec (.suspensionAbort (.stream c slot) cause pkg) s = .next (s.abortStream c slot cause pkg.toNat) := if_pos hstate
    rw [State.abortStream_of_suspended _ _ hstate] at hexec
    have hfault := (s.setStrm c slot { s.strm c slot with state := 0, stop := none }).strmFault_faulted c slot
      ⟨(s.strm c slot).done, true, 0x183, cause, pkg.toNat⟩
    refine ⟨_, hexec, ?_, ?_, ?_, hfault.only.mem, ((OtherCores.setStr s c _).trans hfault.only.others).trans (OtherCores.stirNext _ c)⟩
    · rw [State.strm, State.str_stirNext_self]
      exact congrArg Strm.state ((hfault.only.strm slot).trans ((s.strm_setStrm c slot slot _).trans (if_pos rfl)))
    · rw [State.eng_stirNext, hfault.st]
    · rw [State.eng_stirNext, hfault.fault]
  case ctlResume =>
    have hresend := s.resendHeld_cores c
    have hwr (l : List CtlStore) (u : State) := foldl_cores (f := fun t x => t.wr (addrOff x.addr) (leBytes x.size x.data.toNat)) (fun _ _ => rfl) l u
    refine ⟨_, execSuspensionResume_ctl c s,
      ((OtherCores.of_cores hresend c).trans (OtherCores.setCore _ c _)).trans (OtherCores.of_cores (hwr _ _) c), ?_, ?_⟩
    all_goals
      rw [State.core_of_cores (hwr _ _), State.core_setCore_self]
      intro x hx
      obtain ⟨y, -, rfl⟩ := List.mem_map.mp hx
    · rfl
    · exact y.resumed_held _
  case sendResume =>
    exact congrArg Host.Outcome.next (by rw [hx]; rfl)
  case sendAbort =>
    have hexec : exec (.suspensionAbort (.sender ch) cause pkg) s = .next (s.stopSend ch) := by
      refine if_pos ?_
      rw [hx]
      exact hsusp
    have hchan := State.chan_stopSend hx
    exact ⟨_, hexec, by rw [hchan], by rw [hchan], rfl, rfl⟩
  case ctlAbort =>
    refine ⟨_, rfl, rfl, OtherCores.setCore s c _, rfl, fun e => State.eng_setCore_engs (s := s) (by rfl) c e, ?_, ?_, ?_⟩
    all_goals rw [State.core_setCore_self]
    intro l hl
    obtain ⟨y, -, rfl⟩ := List.mem_map.mp hl
    exact y.given_held _
  case told =>
    have hga0 : i.ga.toNat ≠ 0 := fun h => hga (BitVec.eq_of_toNat_eq h)
    obtain ⟨t, hfault, hexec⟩ := State.ctl_toldAbort (ns := [i.gd.toNat]) (post := id)
      (body := fun t => .go (t.result c i.gd.toNat (t.g c i.ga.toNat + sx16 i.imm) 1) none none) hat hga0 hbusy hl hab
    have htold := State.toldAbort_head [i.gd.toNat] hga0 hl hab
    refine ⟨_, hexec, hfault.st, hfault.fault, ?_, fun n => (hfault.only.g n).trans (State.g_of ?_ n), hfault.only.mem.trans ?_⟩
    · rw [hfault.only.loads, htold, State.core_setCore_self]
    · rw [htold, State.core_setCore_self]
    · rw [htold]; rfl
  case split =>
    have hexec : exec (.strSplitWrite c path v) s = .next ((s.accessed path).splitWrite c v.toNat) :=
      State.guarded_of_mayWrite hw fun t => t.splitWrite c v.toNat
    rw [State.splitWrite_taken hsum] at hexec
    refine ⟨_, hexec, ?_, fun k hk => State.zeroCredit_credit _ c hk,
      (CoreOnly.setReg _ _ _).trans (State.zeroCredit_coreOnly _ c), ?_, ?_⟩
    · rw [State.regN_setRegN_zeroCredit]; omega
    · rw [← otherCores_accessed s path]
      exact (OtherCores.of_cores (State.setRegN_cores _ _ _) c).trans (State.zeroCredit_otherCores _ c)
    · rw [← regsOnly_accessed s path]; exact fun off h => (State.zeroCredit_reg _ _ _).trans (RegsOnly.setRegN _ _ _ off h)
  case refused =>
    rw [← State.splitWrite_refused hsum]
    exact State.guarded_of_mayWrite hw fun t => t.splitWrite c v.toNat

end

section
/-! A remote request in space 41 (R313 to R316): there is no such space, and in the model the table register of space 41 is XLATE_COUNT. The walk
counts itself before it reads its tables, so the count takes the tables away from under it. -/
namespace Sys2Proof.Machine

/-- The level-1 entry at offset 0 of cellar die 1: a writable leaf of 2 MiB at 2 MiB under key slot 1, and its check. -/
def leafBytes : List Byte :=
  leBytes 12 (3 + 4 + 256 + 32 * 65536) ++ leBytes 4 (check32c (leBytes 12 (3 + 4 + 256 + 32 * 65536)) 0)

/-- The mapping of that leaf. -/
def leafMap : Map := ⟨1, 0x200000, 1, true, true⟩

/-- A read of address 0 of the tier window, held for another package in space 41. -/
def reqInSpace41 : InReq := { src := 3, tag := 0xFFC0, kind := 3, addr := 0x800000000000, len := 4, space := 41, cl := 0 }

/-- The table register of space 41 has ENABLE, its level-1 table at offset 0 of cellar die 1 and the largest bound, which the next count of a walk
carries out of its field. -/
def stateOfSpace41 : State :=
  { (({ regs := [(Reg.xlateCount, 0x07FFFFFF00000001)] } : State).wr (cellarKey 1 0) leafBytes) with
    sealed := [(unitOf 1 0, some ⟨0, 0⟩)], inreqs := [reqInSpace41] }

/-- Before the walk is counted it finds the mapping. -/
theorem stateOfSpace41_walk : stateOfSpace41.walk 41 0 = .ok leafMap := by
  have h : (match stateOfSpace41.walk 41 0 with | .ok m => m == leafMap | .error _ => false) = true := by decide +kernel
  split at h
  · next m hm => rw [hm, eq_of_beq h]
  · cases h

/-- Once the walk is counted space 41 has no tables: the command faults the request and counts the fault beside the 1 of ENABLE. -/
theorem stateOfSpace41_counted {t : State} (h : exec (.translationWalk (.remote 0)) stateOfSpace41 = .next t) : t.fld Reg.xlateCount 0 32 = 2 := by
  have hrun : (match exec (.translationWalk (.remote 0)) stateOfSpace41 with
      | .next u => u.fld Reg.xlateCount 0 32 == 2
      | _ => false) = true := by decide +kernel
  rw [h] at hrun
  exact eq_of_beq hrun

end Sys2Proof.Machine

open Sys2Proof Sys2Proof.Machine

/-- Refutes O29: its clause about remote requests does not bound the request's space. The walk of a request in space 41, where the table register
is XLATE_COUNT itself (`Reg.memSpace 41 = Reg.xlateCount`), finds a mapping before it is counted, and the count then makes it a fault. -/
theorem not_translationWalks : ¬ Obligations.TranslationWalks := by
  intro h
  obtain ⟨-, -, -, hremote, -⟩ := h stateOfSpace41 0
  have hva : stateOfSpace41.tierVa reqInSpace41.addr = some 0 := by decide +kernel
  have hmiss : stateOfSpace41.cached (unitCaches 0) 41 0 = none ∧ stateOfSpace41.walkHeld 41 0 = false := by decide +kernel
  have hup : stateOfSpace41.chanDown leafMap.die (leafMap.phys 0) 4 = false := by decide +kernel
  have hbefore : stateOfSpace41.fld Reg.xlateCount 0 32 = 1 := by decide +kernel
  obtain ⟨t, hexec, -, -, hfaults, -⟩ := hremote 0 reqInSpace41 rfl hva (.inl rfl) hmiss leafMap stateOfSpace41_walk (.inl rfl) hup
  have hkept : t.fld Reg.xlateCount 0 32 = 1 := hfaults.trans hbefore
  have hcounted := stateOfSpace41_counted hexec
  omega

end

section
/-! Records (R529, R534, R535): what a record or a note leaves alone, and that a record stands at the end of its die's fault buffer. -/
namespace Sys2Proof.Machine
open Sys2Proof.Laws.Tab

variable {s t u : State}

/-- Nothing has changed but where records go: the fault buffers, the trace, the records that wait for a recovery, and the logbook. -/
def RecordOnly (s t : State) : Prop := t = { s with fbufs := t.fbufs, trace := t.trace, recq := t.recq, bu := t.bu }

theorem RecordOnly.trans (h : RecordOnly s t) (g : RecordOnly t u) : RecordOnly s u := by
  unfold RecordOnly at *; rw [g, h]

theorem RecordOnly.regs (h : RecordOnly s t) : t.regs = s.regs := by rw [h]

theorem RecordOnly.ports (h : RecordOnly s t) : t.ports = s.ports := by rw [h]

theorem RecordOnly.time (h : RecordOnly s t) : t.time = s.time := by rw [h]

theorem RecordOnly.traceAdd (s : State) (unit : W32) (kind : Nat) (a b : W64) : RecordOnly s (s.traceAdd unit kind a b) := by
  unfold State.traceAdd
  dsimp only
  split
  · rfl
  · split <;> rfl

theorem RecordOnly.entered (s : State) (r : FaultRec) : RecordOnly s (s.entered r) := by
  unfold State.entered
  dsimp only
  split <;> split
  · exact (RecordOnly.traceAdd _ _ _ _ _).trans rfl
  · exact RecordOnly.traceAdd _ _ _ _ _
  · rfl
  · rfl

theorem RecordOnly.bufferRecord (s : State) (d : Nat) (r : FaultRec) : RecordOnly s (s.bufferRecord d r) := by
  have enter (t : State) (ht : RecordOnly s t) : RecordOnly s (if d = 0 then t.entered r else t) := by
    split
    · exact ht.trans (RecordOnly.entered t r)
    · exact ht
  unfold State.bufferRecord
  dsimp only
  split
  · exact enter _ rfl
  · split
    · rfl
    · split
      · rfl
      · exact enter _ rfl

theorem RecordOnly.note (s : State) (detail fault : Nat) (unit : W32) (d0 d1 : Nat) : RecordOnly s (s.note detail fault unit d0 d1) := by
  unfold State.note State.logEntry
  dsimp only
  split
  · rfl
  · split <;> rfl

theorem RecordOnly.record (s : State) (die code kind : Nat) (unit : W32) (d0 d1 d2 d3 : Nat) :
    RecordOnly s (s.record die code kind unit d0 d1 d2 d3) := by
  unfold State.record State.recordFor
  split
  · exact RecordOnly.trans (t := s.setFbuf die _) rfl (RecordOnly.bufferRecord _ _ _)
  · exact RecordOnly.note _ _ _ _ _ _

theorem State.entered_fbufs (s : State) (r : FaultRec) : (s.entered r).fbufs = s.fbufs := by
  have ht (a b : W64) : (s.traceAdd r.unit 7 a b).fbufs = s.fbufs := by rw [CoreOnly.traceAdd s r.unit 7 a b]
  unfold State.entered
  dsimp only
  split <;> split
  · exact ht _ _
  · exact ht _ _
  · rfl
  · rfl

@[simp] theorem State.fbuf_setFbuf_self (s : State) (d : Nat) (b : FaultBuf) : (s.setFbuf d b).fbuf d = b := get_set_self _ _ _ _

/-- A buffer that has room takes a record at its end. -/
theorem State.recs_bufferRecord {d : Nat} (hroom : (s.fbuf d).recs.length < fbufCap d) (r : FaultRec) :
    ((s.bufferRecord d r).fbuf d).recs = (s.fbuf d).recs ++ [r] := by
  have enter (t : State) : (if d = 0 then t.entered r else t).fbuf d = t.fbuf d := by
    split
    · rw [State.fbuf, State.entered_fbufs, State.fbuf]
    · rfl
  unfold State.bufferRecord
  dsimp only
  rw [if_pos hroom, enter, State.fbuf_setFbuf_self]

theorem Recorded.record (s : State) (die code kind : Nat) (unit : W32) (d0 d1 d2 d3 : Nat) :
    Recorded s (s.record die code kind unit d0 d1 d2 d3) die code kind unit d0 d1 := by
  intro hready hroom
  unfold State.record State.recordFor
  dsimp only
  rw [if_pos hready, State.recs_bufferRecord (by rw [State.fbuf_setFbuf_self]; exact hroom), State.fbuf_setFbuf_self]
  exact ⟨_, rfl, rfl, rfl, rfl, rfl, rfl, rfl, rfl, rfl⟩

/-- What is done before a record and after it does not matter where it leaves the fault buffers, the readiness and the time alone. -/
theorem Recorded.between {s' t' : State} {die code kind d0 d1 : Nat} {unit : W32} (h : Recorded s' t' die code kind unit d0 d1)
    (hbu : s'.bu = s.bu) (hfbufs : s'.fbufs = s.fbufs) (htime : s'.time = s.time) (hafter : t.fbufs = t'.fbufs) :
    Recorded s t die code kind unit d0 d1 := by
  unfold Recorded State.fbuf at *
  rwa [hbu, hfbufs, htime, ← hafter] at h

end Sys2Proof.Machine
end

section
/-! What the fabric's operations read and write (R380, R387, R395, R412, R418): fields of registers after a write of another field or register, ports
after a write, and what the package's place in the torus is read from. -/
namespace Sys2Proof.Machine
open Sys2Proof.Laws.Tab

variable {s t u : State}

/-! ### Fields after writes -/

theorem State.fld_of_reg {off : Nat} (h : t.reg off = s.reg off) (lo len : Nat) : t.fld off lo len = s.fld off lo len := by
  rw [State.fld, State.regN, h, State.fld, State.regN]

theorem State.reg_of_regs (h : t.regs = s.regs) (off : Nat) : t.reg off = s.reg off := by rw [State.reg, h, State.reg]

theorem State.fld_setFld_apart (s : State) {off off' : Nat} (h : off' ≠ off) (lo len v lo' len' : Nat) :
    (s.setFld off lo len v).fld off' lo' len' = s.fld off' lo' len' := State.fld_of_reg (State.reg_setFld s _ _ _ _ _ h) _ _

theorem satInc_mod (x n : Nat) : satInc x n % 2 ^ n = satInc x n := by
  have hpos := Nat.two_pow_pos n
  refine Nat.mod_eq_of_lt ?_
  unfold satInc
  split <;> omega

theorem State.fld_bump_same (s : State) (off lo len : Nat) (h : lo + len ≤ 64) :
    (s.bump off lo len).fld off lo len = satInc (s.fld off lo len) len := by
  rw [State.bump, State.fld_setFld_same _ _ _ _ _ h, satInc_mod]

/-- Nothing has changed but the setup registers. -/
def SetupOnly (s t : State) : Prop := t = { s with regs := t.regs }

theorem SetupOnly.refl (s : State) : SetupOnly s s := rfl

theorem SetupOnly.trans (h : SetupOnly s t) (g : SetupOnly t u) : SetupOnly s u := by unfold SetupOnly at *; rw [g, h]

theorem SetupOnly.setRegN (s : State) (off v : Nat) : SetupOnly s (s.setRegN off v) := rfl

theorem SetupOnly.setFld (s : State) (off lo len v : Nat) : SetupOnly s (s.setFld off lo len v) := rfl

theorem SetupOnly.bump (s : State) (off lo len : Nat) : SetupOnly s (s.bump off lo len) := .setFld _ _ _ _ _

theorem SetupOnly.dieCount (s : State) (i n : Nat) : SetupOnly s (s.dieCount i n) := by
  unfold State.dieCount
  split
  · exact .refl s
  · exact .setRegN _ _ _

theorem SetupOnly.foldl {α : Type} {f : State → α → State} (hf : ∀ t a, SetupOnly t (f t a)) : ∀ (l : List α) (s : State), SetupOnly s (l.foldl f s)
  | [], s => .refl s
  | a :: l, s => (hf s a).trans (SetupOnly.foldl hf l (f s a))

section
variable (h : SetupOnly s t)
include h

theorem SetupOnly.ns : t.ns = s.ns := by rw [h]
theorem SetupOnly.time : t.time = s.time := by rw [h]
theorem SetupOnly.mem : t.mem = s.mem := by rw [h]
theorem SetupOnly.cores : t.cores = s.cores := by rw [h]
theorem SetupOnly.ports : t.ports = s.ports := by rw [h]
theorem SetupOnly.inbox : t.inbox = s.inbox := by rw [h]
theorem SetupOnly.linkMap : t.linkMap = s.linkMap := by rw [h]
theorem SetupOnly.tim : t.tim = s.tim := by rw [h]
theorem SetupOnly.bu : t.bu = s.bu := by rw [h]
theorem SetupOnly.fbufs : t.fbufs = s.fbufs := by rw [h]

end

@[simp] theorem State.reg_setPort (s : State) (g : Nat) (p : Port) (off : Nat) : (s.setPort g p).reg off = s.reg off :=
  State.reg_of_regs (State.setPort_regs _ _ _) off

@[simp] theorem State.fld_setPort (s : State) (g : Nat) (p : Port) (off lo len : Nat) : (s.setPort g p).fld off lo len = s.fld off lo len :=
  State.fld_of_reg (s.reg_setPort g p off) _ _

theorem RegsOnly.dieCount (s : State) (i n : Nat) : RegsOnly s (s.dieCount i n) (fun off => off = Reg.dieCnt i) := by
  unfold State.dieCount
  split
  · exact fun _ _ => rfl
  · exact RegsOnly.setRegN _ _ _

/-! ### Ports after writes -/

@[simp] theorem State.port_setPort_self (s : State) (g : Nat) (p : Port) : (s.setPort g p).port g = p := get_set_self _ _ _ _

theorem State.port_setPort_other (s : State) {g x : Nat} (p : Port) (h : x ≠ g) : (s.setPort g p).port x = s.port x := get_set_other _ _ _ _ _ h

theorem State.port_of_ports (h : t.ports = s.ports) (g : Nat) : t.port g = s.port g := by rw [State.port, h, State.port]

@[simp] theorem State.port_setFld (s : State) (off lo len v g : Nat) : (s.setFld off lo len v).port g = s.port g :=
  State.port_of_ports (SetupOnly.setFld s off lo len v).ports g

@[simp] theorem State.port_dieCount (s : State) (i n g : Nat) : (s.dieCount i n).port g = s.port g :=
  State.port_of_ports (SetupOnly.dieCount s i n).ports g

theorem State.portTakes_of_reg {g : Nat} (h : t.reg (Reg.portStatus g) = s.reg (Reg.portStatus g)) : t.portTakes g = s.portTakes g := by
  simp only [State.portTakes, State.portState, State.fld_of_reg h]

/-! ### The package's place in the torus -/

section
variable (h : t.reg Reg.pkgId = s.reg Reg.pkgId)
include h

theorem State.pkg_congr : t.pkg = s.pkg := State.fld_of_reg h _ _

theorem State.dim_congr : t.dim = s.dim := funext fun _ => congrArg (· + 1) (State.fld_of_reg h _ _)

theorem State.place_congr : t.place = s.place := by
  funext d; rw [State.place, State.dim_congr h, State.place]

theorem State.coord_congr : t.coord = s.coord := by
  funext n d; rw [State.coord, State.place_congr h, State.dim_congr h, State.coord]

theorem State.withCoord_congr : t.withCoord = s.withCoord := by
  funext n d v; rw [State.withCoord, State.place_congr h, State.coord_congr h, State.withCoord]

theorem State.exitPort_congr : t.exitPort = s.exitPort := by
  funext n dst r; rw [State.exitPort, State.coord_congr h, State.exitPort]

theorem State.vcFor_congr : t.vcFor = s.vcFor := by
  funext p g; rw [State.vcFor, State.coord_congr h, State.pkg_congr h, State.dim_congr h, State.vcFor]

theorem State.unitDie_congr : t.unitDie = s.unitDie := by
  funext d; rw [State.unitDie, State.pkg_congr h, State.unitDie]

theorem State.partner_congr : t.partner = s.partner := by
  funext g; rw [State.partner, State.withCoord_congr h, State.coord_congr h, State.pkg_congr h, State.dim_congr h, State.partner]

variable (hmap : t.linkMap = s.linkMap)
include hmap

theorem State.upState_congr : t.upState = s.upState := by
  funext g; rw [State.upState, State.isDown, hmap, State.pkg_congr h, State.upState, State.isDown]

theorem State.pathDown_congr (d : Nat) (minus : Bool) (k cur : Nat) : t.pathDown d minus k cur = s.pathDown d minus k cur := by
  induction k generalizing cur with
  | zero => rfl
  | succ k ih =>
    simp only [State.pathDown, ih, State.withCoord_congr h, State.dim_congr h, State.coord_congr h, State.isDown, hmap]

theorem State.routeFrom_congr (dst : Nat) (ds : List Nat) (cur : Nat) : t.routeFrom dst ds cur = s.routeFrom dst ds cur := by
  induction ds generalizing cur with
  | nil => rfl
  | cons d ds ih =>
    simp only [State.routeFrom, ih, State.pathDown_congr h hmap, State.withCoord_congr h, State.dim_congr h, State.coord_congr h]

theorem State.route_congr (src dst : Nat) : t.route src dst = s.route src dst := State.routeFrom_congr h hmap _ _ _

end

end Sys2Proof.Machine
end

section
/-! What moving packets leaves alone (R393, R396, R402), and the link manager's notices (R412): a port that takes no packets holds what it held, and
of the registers only the counts of dropped packets and of the map's marks change. -/
namespace Sys2Proof.Machine
open Sys2Proof.Laws.Tab

variable {s t u : State}

/-! ### Registers apart -/

/-- The counters that routing and the link map keep in a guyline die's registers (R393, R395). -/
def Reg.CountsFabric (off : Nat) : Prop := ∃ die, off = Reg.guyDrops die ∨ off = Reg.mapStatus die

theorem Reg.guyDrops_counts (die : Nat) : Reg.CountsFabric (Reg.guyDrops die) := ⟨die, .inl rfl⟩

theorem Reg.mapStatus_counts (die : Nat) : Reg.CountsFabric (Reg.mapStatus die) := ⟨die, .inr rfl⟩

theorem Reg.ne_of_counts {off off' : Nat} (h : Reg.CountsFabric off) (h' : ¬ Reg.CountsFabric off') : off' ≠ off := fun he => h' (he ▸ h)

theorem Reg.pkgId_not_counts : ¬ Reg.CountsFabric Reg.pkgId := by
  rintro ⟨die, h | h⟩ <;> simp only [Reg.pkgId, Reg.guyDrops, Reg.mapStatus, Reg.guy] at h <;> omega

/-- The registers of a port lie below the counters of its die. -/
theorem Reg.port_not_counts (g : Nat) {k : Nat} (hk : k < 0x100) : ¬ Reg.CountsFabric (Reg.port g + k) := by
  rintro ⟨die, h | h⟩ <;> simp only [Reg.port, Reg.guyDrops, Reg.mapStatus, Reg.guy] at h <;> omega

theorem Reg.portStatus_not_counts (g : Nat) : ¬ Reg.CountsFabric (Reg.portStatus g) := Reg.port_not_counts g (by decide)

theorem Reg.portCfg_not_counts (g : Nat) : ¬ Reg.CountsFabric (Reg.portCfg g) := Reg.port_not_counts g (k := 0) (by decide)

theorem Reg.port_apart (g h : Nat) {j k : Nat} (hj : j < 0x100) (hk : k < 0x100) (hne : j ≠ k) : Reg.port g + j ≠ Reg.port h + k := by
  simp only [Reg.port, Reg.guy]; omega

@[simp] theorem Reg.portStatus_ne_portCtrl (g h : Nat) : Reg.portStatus g ≠ Reg.portCtrl h := Reg.port_apart g h (by decide) (by decide) (by decide)

@[simp] theorem Reg.portCtrl_ne_portStatus (g h : Nat) : Reg.portCtrl g ≠ Reg.portStatus h := Reg.port_apart g h (by decide) (by decide) (by decide)

@[simp] theorem Reg.portCfg_ne_portStatus (g h : Nat) : Reg.portCfg g ≠ Reg.portStatus h :=
  Reg.port_apart g h (j := 0) (by decide) (by decide) (by decide)

@[simp] theorem Reg.portCfg_ne_portCtrl (g h : Nat) : Reg.portCfg g ≠ Reg.portCtrl h :=
  Reg.port_apart g h (j := 0) (by decide) (by decide) (by decide)

@[simp] theorem Reg.portErrB_ne_portErrA (g h : Nat) : Reg.portErrB g ≠ Reg.portErrA h := Reg.port_apart g h (by decide) (by decide) (by decide)

theorem Reg.pkgId_ne_port (g k : Nat) : Reg.pkgId ≠ Reg.port g + k := by
  simp only [Reg.pkgId, Reg.port, Reg.guy]; omega

@[simp] theorem Reg.pkgId_ne_portStatus (g : Nat) : Reg.pkgId ≠ Reg.portStatus g := Reg.pkgId_ne_port g 8

@[simp] theorem Reg.pkgId_ne_portCtrl (g : Nat) : Reg.pkgId ≠ Reg.portCtrl g := Reg.pkgId_ne_port g 0x10

/-! ### Packets -/

/-- Packets have moved: nothing has changed but the inbox, the ports that take packets, and the counters. -/
structure PacketsOnly (s t : State) : Prop where
  rest : t = { s with regs := t.regs, ports := t.ports, inbox := t.inbox }
  regs : RegsOnly s t Reg.CountsFabric
  port : ∀ x, s.portTakes x = false → t.port x = s.port x

theorem PacketsOnly.refl (s : State) : PacketsOnly s s := ⟨rfl, fun _ _ => rfl, fun _ _ => rfl⟩

theorem PacketsOnly.portStatus (h : PacketsOnly s t) (g : Nat) : t.reg (Reg.portStatus g) = s.reg (Reg.portStatus g) :=
  h.regs _ (Reg.portStatus_not_counts g)

theorem PacketsOnly.trans (h : PacketsOnly s t) (g : PacketsOnly t u) : PacketsOnly s u where
  rest := by rw [g.rest, h.rest]
  regs := h.regs.trans g.regs
  port x hx := (g.port x ((State.portTakes_of_reg (h.portStatus x)).trans hx)).trans (h.port x hx)

theorem PacketsOnly.mem (h : PacketsOnly s t) : t.mem = s.mem := by rw [h.rest]

theorem PacketsOnly.cores (h : PacketsOnly s t) : t.cores = s.cores := by rw [h.rest]

theorem PacketsOnly.lsSeen (h : PacketsOnly s t) : t.lsSeen = s.lsSeen := by rw [h.rest]

theorem PacketsOnly.linkMap (h : PacketsOnly s t) : t.linkMap = s.linkMap := by rw [h.rest]

theorem PacketsOnly.foldl {α : Type} {f : State → α → State} (hf : ∀ t a, PacketsOnly t (f t a)) :
    ∀ (l : List α) (s : State), PacketsOnly s (l.foldl f s)
  | [], s => .refl s
  | a :: l, s => (hf s a).trans (PacketsOnly.foldl hf l (f s a))

theorem PacketsOnly.deliver (s : State) (p : Pkt) : PacketsOnly s (s.deliver p) := ⟨rfl, fun _ _ => rfl, fun _ _ => rfl⟩

theorem PacketsOnly.setFld {off : Nat} (h : Reg.CountsFabric off) (s : State) (lo len v : Nat) : PacketsOnly s (s.setFld off lo len v) where
  rest := rfl
  regs _ ho := State.reg_setFld s _ _ _ _ _ (Reg.ne_of_counts h ho)
  port _ _ := rfl

theorem PacketsOnly.drops (s : State) (die lo len : Nat) : PacketsOnly s (s.bump (Reg.guyDrops die) lo len) :=
  .setFld (Reg.guyDrops_counts die) s _ _ _

theorem PacketsOnly.queueFor {g : Nat} (h : s.portTakes g = true) (p : Pkt) : PacketsOnly s (s.queueFor g p) where
  rest := rfl
  regs _ _ := rfl
  port x hx := s.port_setPort_other _ fun he => by rw [he, h] at hx; cases hx

theorem PacketsOnly.respond (s : State) (sdie : Nat) (h : Head) (pay : List Byte) : PacketsOnly s (s.respond sdie h pay) := by
  unfold State.respond
  dsimp only
  split
  · exact .deliver _ _
  · split
    · exact .refl s
    · split
      · exact .refl s
      · split
        · next htakes => exact .queueFor htakes _
        · exact .drops _ _ _ _

theorem PacketsOnly.blocked (s : State) (g : Nat) (p : Pkt) : PacketsOnly s (s.blocked g p) := by
  unfold State.blocked
  split
  · exact .drops _ _ _ _
  · split
    · exact .refl s
    · exact .respond _ _ _ _

theorem PacketsOnly.forward (s : State) (p : Pkt) : PacketsOnly s (s.forward p) := by
  unfold State.forward
  split
  · exact .drops _ _ _ _
  · split
    · exact .deliver _ _
    · split
      · exact .deliver _ _
      · split
        · next htakes => exact .queueFor htakes _
        · exact .blocked _ _ _

theorem PacketsOnly.sendNotice (s : State) (n g : Nat) (down : Bool) (seq except : Nat) : PacketsOnly s (s.sendNotice n g down seq except) := by
  refine PacketsOnly.foldl (fun t x => ?_) _ s
  split
  · exact .forward _ _
  · exact .refl t

/-! ### The router's cases -/

theorem State.forward_reserved {p : Pkt} (h : isReserved p.typ = true) : s.forward p = s.bump (Reg.guyDrops (guyDie (p.gin % 8))) 0 32 := if_pos h

theorem State.forward_here {p : Pkt} (hr : isReserved p.typ = false) (h : p.typ = 0x20 ∨ s.exitPort s.pkg p.dst p.route = none) :
    s.forward p = s.deliver p := by
  have hr' : ¬ isReserved p.typ = true := by rw [hr]; decide
  unfold State.forward
  rw [if_neg hr']
  rcases h with h | h
  · exact if_pos h
  · rw [h]; exact ite_self _

theorem State.forward_on {p : Pkt} {x : Nat} (hr : isReserved p.typ = false) (htyp : p.typ ≠ 0x20) (hx : s.exitPort s.pkg p.dst p.route = some x)
    (htakes : s.portTakes x = true) : s.forward p = s.queueFor x p := by
  have hr' : ¬ isReserved p.typ = true := by rw [hr]; decide
  unfold State.forward
  rw [if_neg hr', if_neg htyp, hx]
  exact if_pos htakes

/-! ### The map and its notices -/

theorem State.mark_linkMap (s : State) (n g : Nat) (down : Bool) :
    (s.mark n g down).linkMap = Tab.set (fun _ => false) s.linkMap (8 * n + g) down := rfl

theorem State.mark_rest (s : State) (n g : Nat) (down : Bool) : s.mark n g down =
    { s with regs := (s.mark n g down).regs, linkMap := (s.mark n g down).linkMap, jobs := (s.mark n g down).jobs, tim := (s.mark n g down).tim } := rfl

theorem State.mark_ports (s : State) (n g : Nat) (down : Bool) : (s.mark n g down).ports = s.ports := rfl

theorem State.mark_regs (s : State) (n g : Nat) (down : Bool) : (s.mark n g down).regs =
    ((s.setFld (Reg.mapStatus 5) 0 32 (s.mark n g down).linkMap.length).setFld (Reg.mapStatus 6) 0 32 (s.mark n g down).linkMap.length).regs := rfl

theorem RegsOnly.mark (s : State) (n g : Nat) (down : Bool) : RegsOnly s (s.mark n g down) Reg.CountsFabric := fun off h => by
  rw [State.reg_of_regs (State.mark_regs s n g down), State.reg_setFld _ _ _ _ _ _ (Reg.ne_of_counts (Reg.mapStatus_counts 6) h),
    State.reg_setFld _ _ _ _ _ _ (Reg.ne_of_counts (Reg.mapStatus_counts 5) h)]

theorem State.isDown_of_marked {n g : Nat} {down : Bool} (h : t.linkMap = Tab.set (fun _ => false) s.linkMap (8 * n + g) down) :
    t.isDown n g = down := by
  rw [State.isDown, h, get_set_self]

theorem State.isDown_of_marked_other {n g m x : Nat} {down : Bool} (h : t.linkMap = Tab.set (fun _ => false) s.linkMap (8 * n + g) down)
    (hne : 8 * m + x ≠ 8 * n + g) : t.isDown m x = s.isDown m x := by
  rw [State.isDown, h, get_set_other _ _ _ _ _ hne, State.isDown]

/-- The link manager has told of port g: the map has its mark and the port's count of notices is one more. -/
structure Noticed (s t : State) (g : Nat) (down : Bool) : Prop where
  regs : RegsOnly s t Reg.CountsFabric
  linkMap : t.linkMap = Tab.set (fun _ => false) s.linkMap (8 * s.pkg + g) down
  port : s.portTakes g = false → t.port g = { s.port g with notices := (s.port g).notices + 1 }

theorem Noticed.isDown {g : Nat} {down : Bool} (h : Noticed s t g down) : t.isDown s.pkg g = down := State.isDown_of_marked h.linkMap

theorem State.ownNotice_noticed (s : State) (g : Nat) (down : Bool) : Noticed s (s.ownNotice g down) g down := by
  have hmark := RegsOnly.mark (s.setPort g { s.port g with notices := (s.port g).notices + 1 }) s.pkg g down
  have hsent := PacketsOnly.sendNotice ((s.setPort g { s.port g with notices := (s.port g).notices + 1 }).mark s.pkg g down) s.pkg g down
    ((s.port g).notices + 1) g
  refine ⟨hmark.trans hsent.regs, hsent.linkMap.trans (State.mark_linkMap _ _ _ _), fun htakes => ?_⟩
  refine (hsent.port g ?_).trans ?_
  · exact (State.portTakes_of_reg (hmark _ (Reg.portStatus_not_counts g))).trans htakes
  · exact (State.port_of_ports (State.mark_ports _ _ _ _) g).trans (State.port_setPort_self _ _ _)

/-! ### A port drops what it holds, and goes down -/

theorem State.dropPort_packets (s : State) (g : Nat) :
    PacketsOnly (s.setPort g { s.port g with txq := [], begun := [], unacked := [], sent := 0 }) (s.dropPort g) :=
  PacketsOnly.foldl (fun _ _ => .blocked _ _ _) _ _

/-- The registers of port g as it goes down: DOWN with no width, its drop counted, and no retrain under way (R411). -/
def State.cutRegs (s : State) (g : Nat) : State :=
  (((s.setFld (Reg.portStatus g) 0 3 4).setFld (Reg.portStatus g) 3 2 3).bump (Reg.portStatus g) 32 32).setFld (Reg.portCtrl g) 5 1 0

/-- Port g cut: with its registers, it has no lanes. -/
def State.portCut (s : State) (g : Nat) : State :=
  (s.cutRegs g).setPort g { (s.cutRegs g).port g with since := (s.cutRegs g).ns, lanes := none, used := 0 }

/-- Port g cut and recorded with 0x601, before its notice. -/
def State.portLost (s : State) (g : Nat) : State := (s.portCut g).portFault g 0x601 (s.portWidth g) 3 0

/-- Port g as it is down, before a kept GO starts. -/
def State.portFell (s : State) (g : Nat) : State := ((s.portLost g).ownNotice g true).dropPort g

theorem State.portDown_eq (s : State) (g : Nat) : s.portDown g = (s.portFell g).startKept g := rfl

/-- What a port that is down shows: its state and width, the map, its queues, and a GO kept as before. -/
structure PortFell (s t : State) (g : Nat) : Prop where
  state : t.portState g = 4
  width : t.portWidth g = 3
  cfg : t.reg (Reg.portCfg g) = s.reg (Reg.portCfg g)
  pkgId : t.reg Reg.pkgId = s.reg Reg.pkgId
  isDown : t.isDown s.pkg g = true
  txq : (t.port g).txq = []
  unacked : (t.port g).unacked = []
  kept : (t.port g).kept = (s.port g).kept

theorem State.portFault_only (s : State) (g code d1 d2 d3 : Nat) : RecordOnly s (s.portFault g code d1 d2 d3) := .record _ _ _ _ _ _ _ _ _

theorem State.portLost_only (s : State) (g : Nat) : RecordOnly (s.portCut g) (s.portLost g) := .record _ _ _ _ _ _ _ _ _

theorem State.cutRegs_only (s : State) (g : Nat) : SetupOnly s (s.cutRegs g) :=
  ((SetupOnly.setFld _ _ _ _ _).trans (.setFld _ _ _ _ _)).trans ((SetupOnly.bump _ _ _ _).trans (.setFld _ _ _ _ _))

theorem State.portCut_port (s : State) (g : Nat) : (s.portCut g).port g = { s.port g with since := s.ns, lanes := none, used := 0 } := by
  rw [State.portCut, State.port_setPort_self, State.port_of_ports (s.cutRegs_only g).ports, (s.cutRegs_only g).ns]

theorem State.portCut_state (s : State) (g : Nat) : (s.portCut g).portState g = 4 := by
  simp only [State.portState, State.portCut, State.fld_setPort, State.cutRegs, State.bump]
  simp [State.fld_setFld_same, State.fld_setFld_other, State.fld_setFld_apart]

theorem State.portCut_width (s : State) (g : Nat) : (s.portCut g).portWidth g = 3 := by
  simp only [State.portWidth, State.portCut, State.fld_setPort, State.cutRegs, State.bump]
  simp [State.fld_setFld_same, State.fld_setFld_other, State.fld_setFld_apart]

theorem RegsOnly.portCut (s : State) (g : Nat) : RegsOnly s (s.portCut g) (fun off => off = Reg.portStatus g ∨ off = Reg.portCtrl g) := by
  intro off hoff
  obtain ⟨hstatus, hctrl⟩ := not_or.mp hoff
  rw [State.portCut, State.reg_setPort, State.cutRegs, State.reg_setFld _ _ _ _ _ _ hctrl, State.bump, State.reg_setFld _ _ _ _ _ _ hstatus,
    State.reg_setFld _ _ _ _ _ _ hstatus, State.reg_setFld _ _ _ _ _ _ hstatus]

theorem State.portFell_spec (s : State) (g : Nat) : PortFell s (s.portFell g) g := by
  have hlost := s.portLost_only g
  have hlostReg (off : Nat) := State.reg_of_regs hlost.regs off
  have htakes : (s.portLost g).portTakes g = false := by
    rw [State.portTakes_of_reg (hlostReg _), State.portTakes, State.portCut_state]; rfl
  have htold := (s.portLost g).ownNotice_noticed g true
  have hdrop := ((s.portLost g).ownNotice g true).dropPort_packets g
  have hregs : RegsOnly (s.portCut g) (s.portFell g) Reg.CountsFabric := fun off h =>
    (hdrop.regs off h).trans ((State.reg_setPort _ _ _ off).trans ((htold.regs off h).trans (hlostReg off)))
  have htakes' : ((s.portLost g).ownNotice g true).portTakes g = false :=
    (State.portTakes_of_reg (htold.regs _ (Reg.portStatus_not_counts g))).trans htakes
  have hpkgId : (s.portLost g).reg Reg.pkgId = s.reg Reg.pkgId := (hlostReg _).trans (RegsOnly.portCut s g _ (by simp))
  have hport : (s.portFell g).port g =
      { s.port g with since := s.ns, lanes := none, used := 0, notices := (s.port g).notices + 1, txq := [], begun := [], unacked := [], sent := 0 } := by
    rw [State.portFell, hdrop.port g ((State.portTakes_of_reg (State.reg_setPort _ _ _ _)).trans htakes'), State.port_setPort_self, htold.port htakes,
      State.port_of_ports hlost.ports, State.portCut_port]
  refine ⟨?_, ?_, ?_, ?_, ?_, ?_, ?_, ?_⟩
  · exact (State.fld_of_reg (hregs _ (Reg.portStatus_not_counts g)) _ _).trans (s.portCut_state g)
  · exact (State.fld_of_reg (hregs _ (Reg.portStatus_not_counts g)) _ _).trans (s.portCut_width g)
  · exact (hregs _ (Reg.portCfg_not_counts g)).trans (RegsOnly.portCut s g _ (by simp))
  · exact (hregs _ Reg.pkgId_not_counts).trans (RegsOnly.portCut s g _ (by simp))
  · refine State.isDown_of_marked (s := s.portLost g) ?_
    rw [← State.pkg_congr hpkgId]
    exact hdrop.linkMap.trans htold.linkMap
  all_goals rw [hport]

/-! ### Training, and a kept GO -/

theorem State.trainPort_state (s : State) (g : Nat) : (s.trainPort g).portState g = 1 := by
  simp only [State.portState, State.trainPort, State.fld_setPort]
  simp [State.fld_setFld_same, State.fld_setFld_apart]

theorem State.trainPort_ctrl (s : State) (g : Nat) : (s.trainPort g).fld (Reg.portCtrl g) 5 1 = 1 := by
  simp only [State.trainPort, State.fld_setPort]
  simp [State.fld_setFld_same]

theorem State.trainPort_lanes (s : State) (g : Nat) : (s.trainPort g).fld (Reg.portCtrl g) 0 4 = s.fld (Reg.portCtrl g) 0 4 := by
  simp only [State.trainPort, State.fld_setPort]
  simp [State.fld_setFld_other, State.fld_setFld_apart]

theorem State.trainPort_linkMap (s : State) (g : Nat) : (s.trainPort g).linkMap = s.linkMap :=
  (State.setPort_linkMap _ _ _).trans ((SetupOnly.setFld _ _ _ _ _).trans (.setFld _ _ _ _ _)).linkMap

theorem State.trainPort_kept (s : State) (g : Nat) : ((s.trainPort g).port g).kept = (s.port g).kept := by
  rw [State.trainPort, State.port_setPort_self, State.port_setFld, State.port_setFld]

/-- A port that is down trains (R415); one that is not used stays. -/
theorem State.startRetrain_down {g : Nat} (h : s.portState g = 4) (lanes : Nat) :
    s.startRetrain g lanes = if s.portUsed g = true then s.trainPort g else s := by
  unfold State.startRetrain
  cases s.portUsed g <;> simp [h]

theorem State.startKept_none {g : Nat} (h : (s.port g).kept = none) : s.startKept g = s := by
  unfold State.startKept; rw [h]

theorem State.startKept_some {g l : Nat} (h : (s.port g).kept = some l) :
    s.startKept g = ((s.setFld (Reg.portCtrl g) 4 1 0).setPort g { s.port g with kept := none }).startRetrain g l := by
  unfold State.startKept; rw [h]

/-- A port goes down with no GO kept. -/
theorem State.portDown_of_none {g : Nat} (h : (s.port g).kept = none) : s.portDown g = s.portFell g := by
  rw [State.portDown_eq, State.startKept_none ((s.portFell_spec g).kept.trans h)]

end Sys2Proof.Machine
end

section
/-! Frames received, resends and the router's step (R387 to R391, R393, R396). -/
namespace Sys2Proof.Machine
open Sys2Proof.Laws.Tab

variable {s : State} {g : Fin 8} {bs : List Byte}

/-! ### A frame arrives -/

/-- The check of a frame's trailer over its flits and the trailer's other half (R388). -/
def frameCrcOk (bs : List Byte) : Bool := bitsOf (fieldAt bs 2048 8) 0 32 == crc32 (bs.take 2048 ++ (bs.drop 2052).take 4)

/-- The codewords corrected and uncorrectable of a frame are counted, and its failed check (R387, R389). -/
def State.errorsCounted (s : State) (g corrected uncorrectable : Nat) (crcOk : Bool) : State :=
  let t := s.setFld (Reg.portErrA g) 0 32 (min (s.fld (Reg.portErrA g) 0 32 + corrected) (2 ^ 32 - 1))
  let t := t.setFld (Reg.portErrA g) 32 32 (min (t.fld (Reg.portErrA g) 32 32 + uncorrectable) (2 ^ 32 - 1))
  if crcOk then t else t.bump (Reg.portErrB g) 0 32

/-- The flits of a frame in sequence are taken, with their times and the credit that its trailer returns (R389, R391). -/
def Port.takesFrame (p : Port) (bs : List Byte) (time : W64) : Port :=
  let tr := fieldAt bs 2048 8
  { p with rx := p.rx ++ bs.take 2048, rxAt := p.rxAt ++ List.replicate 32 time, rxNext := (p.rxNext + 1) % 1024, lost := false,
           credit := Tab.set (fun _ => 256) p.credit (bitsOf tr 53 2) (p.creditOf (bitsOf tr 53 2) + bitsOf tr 55 8) }

theorem State.errorsCounted_only (s : State) (g corrected uncorrectable : Nat) (crcOk : Bool) :
    SetupOnly s (s.errorsCounted g corrected uncorrectable crcOk) := by
  unfold State.errorsCounted
  extract_lets t u
  have hcount : SetupOnly s u := SetupOnly.trans (t := t) (.setFld _ _ _ _ _) (.setFld _ _ _ _ _)
  split
  · exact hcount
  · exact hcount.trans (.bump _ _ _ _)

theorem State.errorsCounted_port (s : State) (g corrected uncorrectable : Nat) (crcOk : Bool) :
    (s.errorsCounted g corrected uncorrectable crcOk).port g = s.port g := State.port_of_ports (s.errorsCounted_only _ _ _ _).ports g

theorem State.errorsCounted_corrected (s : State) (g corrected uncorrectable : Nat) :
    (s.errorsCounted g corrected uncorrectable true).fld (Reg.portErrA g) 0 32 = min (s.fld (Reg.portErrA g) 0 32 + corrected) (2 ^ 32 - 1) := by
  rw [State.errorsCounted, if_pos rfl, State.fld_setFld_other _ _ _ _ _ _ _ (by decide) (by decide), State.fld_setFld_same _ _ _ _ _ (by decide)]
  omega

theorem State.errorsCounted_failed (s : State) (g corrected uncorrectable : Nat) :
    (s.errorsCounted g corrected uncorrectable false).fld (Reg.portErrB g) 0 32 = satInc (s.fld (Reg.portErrB g) 0 32) 32 := by
  have hapart := Reg.portErrB_ne_portErrA g g
  rw [State.errorsCounted, if_neg Bool.false_ne_true, State.fld_bump_same _ _ _ _ (by decide), State.fld_setFld_apart _ hapart,
    State.fld_setFld_apart _ hapart]

/-- A frame of 2,056 bytes on a port that takes packets: its counts, then what becomes of it. -/
theorem execFrameReceive_of_takes (htakes : s.portTakes g = true) (hlen : bs.length = 2056) (corrected uncorrectable : Nat) :
    execFrameReceive g corrected uncorrectable bs s =
      let t := s.errorsCounted g corrected uncorrectable (frameCrcOk bs)
      let tr := fieldAt bs 2048 8
      if !frameCrcOk bs ∨ uncorrectable ≠ 0 ∨ (!tr.testBit 63 ∧ bitsOf tr 32 10 ≠ (t.port g).rxNext) then .next (t.setPort g (t.port g).discard)
      else
        let u := t.setPort g ((if tr.testBit 63 then t.port g else (t.port g).takesFrame bs t.time).acked (bitsOf tr 42 10) t.ns)
        .next (if tr.testBit 52 then u.replay g else u) :=
  if_neg (by simp [htakes, hlen])

theorem execFrameReceive_accepted (htakes : s.portTakes g = true) (hlen : bs.length = 2056) (corrected : Nat) (hcrc : frameCrcOk bs = true)
    (hidle : (fieldAt bs 2048 8).testBit 63 = false) (hseq : bitsOf (fieldAt bs 2048 8) 32 10 = (s.port g).rxNext)
    (hnak : (fieldAt bs 2048 8).testBit 52 = false) :
    execFrameReceive g corrected 0 bs s = .next ((s.errorsCounted g corrected 0 true).setPort g
      (((s.port g).takesFrame bs s.time).acked (bitsOf (fieldAt bs 2048 8) 42 10) s.ns)) := by
  have honly := s.errorsCounted_only g corrected 0 true
  rw [execFrameReceive_of_takes htakes hlen]
  simp only [hcrc, hidle, hnak, hseq, State.errorsCounted_port, honly.time, honly.ns]
  simp

theorem execFrameReceive_discarded (htakes : s.portTakes g = true) (hlen : bs.length = 2056) (corrected uncorrectable : Nat)
    (hbad : frameCrcOk bs = false ∨ uncorrectable ≠ 0 ∨
      ((fieldAt bs 2048 8).testBit 63 = false ∧ bitsOf (fieldAt bs 2048 8) 32 10 ≠ (s.port g).rxNext)) :
    execFrameReceive g corrected uncorrectable bs s =
      .next ((s.errorsCounted g corrected uncorrectable (frameCrcOk bs)).setPort g (s.port g).discard) := by
  rw [execFrameReceive_of_takes htakes hlen]
  simp only [State.errorsCounted_port]
  exact if_pos (by simpa using hbad)

/-- Acknowledgements touch the unacknowledged frames and the resend timer only. -/
theorem Port.acked_eq (p : Port) (fack now : Nat) :
    p.acked fack now = { p with unacked := (p.acked fack now).unacked, sent := (p.acked fack now).sent, ackAt := (p.acked fack now).ackAt } := by
  unfold Port.acked
  split
  · rfl
  · dsimp only
    split <;> rfl

theorem Port.acked_unacked_of_same {p q : Port} (h : q.unacked = p.unacked) (fack now : Nat) : (q.acked fack now).unacked = (p.acked fack now).unacked := by
  unfold Port.acked
  rw [h]
  split
  · exact h
  · dsimp only
    split
    · rfl
    · exact h

theorem Port.discard_spec (p : Port) : p.discard.rx = p.rx ∧ p.discard.rxNext = p.rxNext ∧ p.discard.unacked = p.unacked ∧ p.discard.lost = true ∧
    (p.lost = false → p.discard.nak = true) := by
  unfold Port.discard
  split
  · next h => exact ⟨rfl, rfl, rfl, h, fun h' => by rw [h'] at h; cases h⟩
  · exact ⟨rfl, rfl, rfl, rfl, fun _ => rfl⟩

/-! ### Frames sent again -/

theorem State.replay_again {f : Frame} {rest : List Frame} {n : Nat} (h : (s.port n).unacked = f :: rest) (hf : f.resends < 8) :
    s.replay n = s.setPort n { s.port n with sent := 0, ackAt := s.ns } := by
  unfold State.replay
  dsimp only
  rw [h]
  exact if_neg (Nat.not_le_of_lt hf)

theorem State.replay_lost {f : Frame} {rest : List Frame} {n : Nat} (h : (s.port n).unacked = f :: rest) (hf : 8 ≤ f.resends) :
    s.replay n = (s.portFault n 0x603 (s.portWidth n) 3 0).portDown n := by
  unfold State.replay
  dsimp only
  rw [h]
  exact if_pos hf

theorem execReplayTimeout_of_due {f : Frame} {rest : List Frame} (hstate : s.portState g = 2 ∨ s.portState g = 6)
    (h : (s.port g).unacked = f :: rest) (hdue : (s.port g).ackAt + 4000 ≤ s.ns) : execReplayTimeout g s = .next (s.replay g) :=
  if_pos ⟨hstate, by rw [h]; exact List.cons_ne_nil _ _, hdue⟩

/-! ### The router's step -/

/-- The packet at the front of port g's accepted flits, as its header gives it before it is cut to its length. -/
def State.atFront (s : State) (g : Nat) : Pkt := { bytes := (s.port g).rx, gin := g }

/-- The packet that the router takes, stamped with the time its last flit was accepted (R420, R441). -/
def State.frontPkt (s : State) (g : Nat) : Pkt :=
  { s.atFront g with bytes := (s.port g).rx.take (64 * (s.atFront g).flits), stamp := ((s.port g).rxAt[(s.atFront g).flits - 1]?).getD 0 }

/-- The state with that packet taken from the port, its flits owed as credit and its payload counted. -/
def State.frontTaken (s : State) (g : Nat) : State :=
  let p := s.port g
  let n := (s.atFront g).flits
  let q := s.frontPkt g
  (s.setPort g { p with rx := p.rx.drop (64 * n), rxAt := p.rxAt.drop q.flits, owed := Tab.set (fun _ => 0) p.owed q.vc (p.owes q.vc + q.flits) }).dieCount
    (24 + g) q.payload.length

theorem execPacketForward_of_whole (hlen : 64 ≤ (s.port g).rx.length) (htyp : (s.atFront g).typ ≠ 0)
    (hwhole : 64 * (s.atFront g).flits ≤ (s.port g).rx.length) : execPacketForward g s = .next ((s.frontTaken g).forward (s.frontPkt g)) := by
  unfold execPacketForward
  dsimp only
  rw [if_neg (Nat.not_lt_of_le hlen)]
  exact (if_neg htyp).trans (if_neg (Nat.not_lt_of_le hwhole))

/-! ### What the taken packet leaves as it was -/

theorem State.frontTaken_reg (s : State) (g : Nat) {off : Nat} (h : off ≠ Reg.dieCnt (24 + g)) : (s.frontTaken g).reg off = s.reg off :=
  (RegsOnly.dieCount _ _ _ off h).trans (State.reg_setPort _ _ _ _)

theorem Reg.portStatus_ne_dieCnt (x : Nat) (g : Fin 8) : Reg.portStatus x ≠ Reg.dieCnt (24 + g) := by
  simp only [Reg.portStatus, Reg.port, Reg.guy, Reg.dieCnt]; omega

theorem Reg.pkgId_ne_dieCnt (g : Fin 8) : Reg.pkgId ≠ Reg.dieCnt (24 + g) := by
  simp only [Reg.pkgId, Reg.dieCnt]; omega

theorem Reg.guyDrops_ne_dieCnt (die : Nat) (g : Fin 8) : Reg.guyDrops die ≠ Reg.dieCnt (24 + g) := by
  simp only [Reg.guyDrops, Reg.guy, Reg.dieCnt]; omega

theorem State.frontTaken_port (s : State) (g : Nat) : (s.frontTaken g).port g =
    { s.port g with rx := (s.port g).rx.drop (64 * (s.atFront g).flits), rxAt := (s.port g).rxAt.drop (s.frontPkt g).flits,
                    owed := Tab.set (fun _ => 0) (s.port g).owed (s.frontPkt g).vc ((s.port g).owes (s.frontPkt g).vc + (s.frontPkt g).flits) } :=
  (State.port_dieCount _ _ _ _).trans (State.port_setPort_self _ _ _)

theorem State.frontTaken_port_other (s : State) {g x : Nat} (h : x ≠ g) : (s.frontTaken g).port x = s.port x :=
  (State.port_dieCount _ _ _ _).trans (State.port_setPort_other _ _ h)

theorem State.frontTaken_txq (s : State) (g x : Nat) : ((s.frontTaken g).port x).txq = (s.port x).txq := by
  by_cases hx : x = g
  · rw [hx, State.frontTaken_port]
  · rw [State.frontTaken_port_other _ hx]

theorem State.frontTaken_inbox (s : State) (g : Nat) : (s.frontTaken g).inbox = s.inbox :=
  (SetupOnly.dieCount _ _ _).inbox.trans (State.setPort_inbox _ _ _)

theorem State.frontTaken_mem (s : State) (g : Nat) : (s.frontTaken g).mem = s.mem :=
  (SetupOnly.dieCount _ _ _).mem.trans (State.setPort_mem _ _ _)

theorem State.deliver_inbox (s : State) {p : Pkt} (h : p.gin < 8) : (s.deliver p).inbox = s.inbox ++ [p] := by
  rw [State.deliver, if_pos h]

theorem State.deliver_mem (s : State) (p : Pkt) : (s.deliver p).mem = s.mem := rfl

theorem State.deliver_port (s : State) (p : Pkt) (x : Nat) : (s.deliver p).port x = s.port x := rfl

end Sys2Proof.Machine

open Sys2Proof Sys2Proof.Machine

/-- Settles O38: a frame's branches are `execFrameReceive_accepted` and `execFrameReceive_discarded`, a resend's `State.replay_again` and, with the
port down, `State.portFell_spec`; the router's are those of `State.forward` on the packet taken from the port. -/
theorem fabricFrames : Obligations.FabricFrames := by
  intro g s p
  refine ⟨?frames, fun f rest hstate hunacked hdue => ⟨fun hf => ?again, fun hf hkept => ?lost⟩, ?routed, fun hshort => if_pos hshort⟩
  case frames =>
    intro corrected uncorrectable bs tr crcOk htakes hlen
    refine ⟨fun hcrc hunc hidle hseq hnak => ?_, fun hbad => ?_⟩
    · subst hunc
      have honly := s.errorsCounted_only g corrected 0 true
      have hacked := Port.acked_eq (p.takesFrame bs s.time) (bitsOf tr 42 10) s.ns
      have hport : ((s.errorsCounted g corrected 0 true).setPort g ((p.takesFrame bs s.time).acked (bitsOf tr 42 10) s.ns)).port g = _ :=
        (State.port_setPort_self _ _ _).trans hacked
      refine ⟨_, execFrameReceive_accepted htakes hlen corrected hcrc hidle hseq hnak, ?_, ?_, ?_, ?_, ?_, ?_, ?_,
        (State.setPort_mem _ _ _).trans honly.mem, (State.setPort_cores _ _ _).trans honly.cores⟩
      · rw [hport]; rfl
      · rw [hport]; rfl
      · rw [hport]; rfl
      · rw [hport]; rfl
      · rw [State.port_setPort_self]; exact Port.acked_unacked_of_same (by rfl) _ _
      · rw [hport]; exact Sys2Proof.Laws.Tab.get_set_self _ _ _ _
      · exact (State.fld_setPort _ _ _ _ _ _).trans (s.errorsCounted_corrected g corrected 0)
    · have honly := s.errorsCounted_only g corrected uncorrectable crcOk
      obtain ⟨hrx, hrxNext, hunacked, hlost, hnak⟩ := p.discard_spec
      refine ⟨_, execFrameReceive_discarded htakes hlen corrected uncorrectable hbad, ?_, ?_, ?_, ?_, ?_, fun hfail => ?_,
        (State.setPort_mem _ _ _).trans honly.mem⟩
      case refine_6 =>
        rw [State.fld_setPort, show frameCrcOk bs = false from hfail]
        exact s.errorsCounted_failed g corrected uncorrectable
      all_goals rw [State.port_setPort_self]; assumption
  case again =>
    exact (execReplayTimeout_of_due hstate hunacked hdue).trans (congrArg Host.Outcome.next (State.replay_again hunacked hf))
  case lost =>
    have hrec := s.portFault_only g 0x603 (s.portWidth g) 3 0
    have hpkg : (s.portFault g 0x603 (s.portWidth g) 3 0).pkg = s.pkg := State.pkg_congr (State.reg_of_regs hrec.regs _)
    have hfell := (s.portFault g 0x603 (s.portWidth g) 3 0).portFell_spec g
    have hkept' : ((s.portFault g 0x603 (s.portWidth g) 3 0).port g).kept = none := by rw [State.port_of_ports hrec.ports]; exact hkept
    have hexec : exec (.replayTimeout g) s = .next ((s.portFault g 0x603 (s.portWidth g) 3 0).portFell g) := by
      rw [← State.portDown_of_none hkept', ← State.replay_lost hunacked hf]
      exact execReplayTimeout_of_due hstate hunacked hdue
    exact ⟨_, hexec, hfell.state, hfell.unacked, hfell.txq, hpkg ▸ hfell.isDown⟩
  case routed =>
    intro k q hlen htyp hwhole
    have hexec : exec (.packetForward g) s = .next ((s.frontTaken g).forward q) := execPacketForward_of_whole hlen htyp hwhole
    have hgin : q.gin = g := rfl
    have hpkgId := s.frontTaken_reg g (Reg.pkgId_ne_dieCnt g)
    have hexit : (s.frontTaken g).exitPort (s.frontTaken g).pkg q.dst q.route = s.exitPort s.pkg q.dst q.route := by
      rw [State.exitPort_congr hpkgId, State.pkg_congr hpkgId]
    have hrx : ((s.frontTaken g).port g).rx = p.rx.drop (64 * k.flits) := congrArg Port.rx (s.frontTaken_port g)
    refine ⟨fun hr hhere => ?_, fun hr => ?_, fun x hr hne hx htakes => ?_⟩
    · rw [State.forward_here hr (by rwa [hexit])] at hexec
      have hport := (s.frontTaken g).deliver_port q g
      refine ⟨_, hexec, ?_, ?_, (State.deliver_mem _ _).trans (s.frontTaken_mem g), ?_⟩
      · rw [hport]; exact hrx
      · rw [State.deliver_inbox _ (p := q) g.isLt, s.frontTaken_inbox g]
      · rw [hport]; exact s.frontTaken_txq g g
    · rw [State.forward_reserved hr] at hexec
      have honly := SetupOnly.bump (s.frontTaken g) (Reg.guyDrops (guyDie (q.gin % 8))) 0 32
      have hport (x : Nat) := State.port_of_ports honly.ports x
      refine ⟨_, hexec, ?_, honly.inbox.trans (s.frontTaken_inbox g), honly.mem.trans (s.frontTaken_mem g), fun x => ?_, ?_⟩
      · rw [hport]; exact hrx
      · rw [hport]; exact s.frontTaken_txq g x
      · rw [hgin, Nat.mod_eq_of_lt g.isLt, State.fld_bump_same _ _ _ _ (by decide), State.fld_of_reg (s.frontTaken_reg g (Reg.guyDrops_ne_dieCnt _ g))]
    · have htakes' := (State.portTakes_of_reg (s.frontTaken_reg g (Reg.portStatus_ne_dieCnt x g))).trans htakes
      rw [State.forward_on hr hne (hexit.trans hx) htakes', State.queueFor, State.vcFor_congr hpkgId] at hexec
      refine ⟨_, hexec, ?_, (State.setPort_inbox _ _ _).trans (s.frontTaken_inbox g), (State.setPort_mem _ _ _).trans (s.frontTaken_mem g), ?_⟩
      · by_cases hgx : (g : Nat) = x
        · subst hgx; rw [State.port_setPort_self]; exact hrx
        · rw [State.port_setPort_other _ _ hgx]; exact hrx
      · rw [State.port_setPort_self, s.frontTaken_txq g x]

end

section
/-! Port states (R383, R410 to R416): what narrowing, training, a kept GO and the link manager's marks leave of a port. -/
namespace Sys2Proof.Machine
open Sys2Proof.Laws.Tab

variable {s t : State} {g : Fin 8}

/-! ### Codes of widths, and a port's records -/

theorem widthOf_le (lanes : Nat) : widthOf lanes ≤ 3 := by
  unfold widthOf
  split
  · decide
  · split
    · decide
    · split <;> decide

theorem Recorded.portFault (s : State) (g code d1 d2 d3 : Nat) :
    Recorded s (s.portFault g code d1 d2 d3) (guyDie g) code 2 (s.unitDie (guyDie g)) g d1 := .record _ _ _ _ _ _ _ _ _

/-! ### Lanes lost, and narrowing -/

/-- The state in which the loss of lanes is judged. -/
def State.lanesLost (s : State) (g good : Nat) : State := s.setFld (Reg.portStatus g) 6 4 good

theorem State.lanesLost_only (s : State) (g good : Nat) : SetupOnly s (s.lanesLost g good) := .setFld _ _ _ _ _

theorem State.lanesLost_state (s : State) (g good : Nat) : (s.lanesLost g good).portState g = s.portState g :=
  State.fld_setFld_other _ _ _ _ _ _ _ (by decide) (by decide)

theorem State.lanesLost_width (s : State) (g good : Nat) : (s.lanesLost g good).portWidth g = s.portWidth g :=
  State.fld_setFld_other _ _ _ _ _ _ _ (by decide) (by decide)

theorem State.lanesLost_good (s : State) (g : Nat) (good : BitVec 4) : (s.lanesLost g good.toNat).fld (Reg.portStatus g) 6 4 = good.toNat :=
  (State.fld_setFld_same _ _ _ _ _ (by decide)).trans (Nat.mod_eq_of_lt good.isLt)

theorem State.lanesLost_minWidth (s : State) (g good : Nat) : (s.lanesLost g good).minWidth g = s.minWidth g :=
  State.fld_setFld_apart _ (Reg.portCfg_ne_portStatus g g) _ _ _ _ _

theorem State.lanesLost_port (s : State) (g good : Nat) : (s.lanesLost g good).port g = s.port g :=
  State.port_of_ports (s.lanesLost_only g good).ports g

theorem State.lanesLost_pkg (s : State) (g good : Nat) : (s.lanesLost g good).pkg = s.pkg :=
  State.pkg_congr (State.reg_setFld _ _ _ _ _ _ (Reg.pkgId_ne_portStatus g))

/-- Port g narrowing since now. -/
def State.narrowing (s : State) (g : Nat) : State :=
  (s.setFld (Reg.portStatus g) 0 3 3).setPort g { s.port g with since := s.ns }

theorem execPortLossOfLock_eq (h : s.portTakes g = true) (good : BitVec 4) : execPortLossOfLock g good s =
    if (s.port g).used &&& good.toNat = (s.port g).used ∧ s.portState g ≠ 3 then .next (s.lanesLost g good.toNat)
    else if 3 ≤ max (widthOf good.toNat) (s.portWidth g + 1) ∨ s.minWidth g < max (widthOf good.toNat) (s.portWidth g + 1) then
      .next ((s.lanesLost g good.toNat).portDown g)
    else .next ((s.lanesLost g good.toNat).narrowing g) := by
  rw [← s.lanesLost_port g good.toNat, ← s.lanesLost_width g good.toNat, ← s.lanesLost_minWidth g good.toNat, ← s.lanesLost_state g good.toNat]
  exact if_pos h

/-- Port g as it returns to width w on its good lanes, before it is recorded. -/
def State.narrowed (s : State) (g w : Nat) : State :=
  let t := (s.setFld (Reg.portStatus g) 0 3 (s.upState g)).setFld (Reg.portStatus g) 3 2 w
  t.setPort g { t.port g with sent := 0, ackAt := t.ns, used := lanesAt (s.fld (Reg.portStatus g) 6 4) w, cwVal := 0, cwLen := 0, cwLane := 0 }

theorem execPortNarrowDone_eq {width : Fin 4} {w : Nat} (hw : w = max width.val (widthOf (s.fld (Reg.portStatus g) 6 4))) (hstate : s.portState g = 3)
    (h3 : w ≠ 3) (hmin : w ≤ s.minWidth g) :
    execPortNarrowDone g width s = .next (((s.narrowed g w).portFault g 0x602 (s.portWidth g) w 0).setFallBack (guyDie g)) := by
  subst hw
  exact (if_pos hstate).trans (if_neg (not_or.mpr ⟨h3, Nat.not_lt_of_le hmin⟩))

theorem State.upState_lt (s : State) (g : Nat) : s.upState g < 8 := by
  unfold State.upState
  split <;> decide

theorem State.narrowed_state (s : State) (g w : Nat) : (s.narrowed g w).portState g = s.upState g := by
  rw [State.portState, State.narrowed, State.fld_setPort, State.fld_setFld_other _ _ _ _ _ _ _ (by decide) (by decide),
    State.fld_setFld_same _ _ _ _ _ (by decide)]
  exact Nat.mod_eq_of_lt (s.upState_lt g)

theorem State.narrowed_width (s : State) (g : Nat) {w : Nat} (h : w < 4) : (s.narrowed g w).portWidth g = w := by
  rw [State.portWidth, State.narrowed, State.fld_setPort, State.fld_setFld_same _ _ _ _ _ (by decide)]
  exact Nat.mod_eq_of_lt h

theorem State.narrowed_only (s : State) (g w : Nat) :
    SetupOnly s ((s.setFld (Reg.portStatus g) 0 3 (s.upState g)).setFld (Reg.portStatus g) 3 2 w) := (SetupOnly.setFld _ _ _ _ _).trans (.setFld _ _ _ _ _)

theorem State.narrowed_port (s : State) (g w : Nat) : (s.narrowed g w).port g =
    { s.port g with sent := 0, ackAt := s.ns, used := lanesAt (s.fld (Reg.portStatus g) 6 4) w, cwVal := 0, cwLen := 0, cwLane := 0 } := by
  rw [State.narrowed, State.port_setPort_self, State.port_of_ports (s.narrowed_only g w).ports, (s.narrowed_only g w).ns]

theorem State.narrowed_reg (s : State) {g off : Nat} (w : Nat) (h : off ≠ Reg.portStatus g) : (s.narrowed g w).reg off = s.reg off := by
  rw [State.narrowed, State.reg_setPort, State.reg_setFld _ _ _ _ _ _ h, State.reg_setFld _ _ _ _ _ _ h]

/-- FB of channels is set in their own registers. -/
theorem State.setFallBack_only (s : State) (die : Nat) : SetupOnly s (s.setFallBack die) := by
  unfold State.setFallBack
  split
  · exact .refl s
  · exact .foldl (fun _ _ => .setFld _ _ _ _ _) _ _

theorem RegsOnly.setFallBack (s : State) (die : Nat) : RegsOnly s (s.setFallBack die) (fun off => ∃ c < 64, off = Reg.red c) := by
  unfold State.setFallBack
  split
  · exact fun _ _ => rfl
  · next hhome =>
    clear hhome
    intro off hoff
    generalize hl : (List.range 64).filter _ = l
    have hlt : ∀ c ∈ l, c < 64 := fun c hc => List.mem_range.mp (List.mem_filter.mp (hl ▸ hc)).1
    clear hl
    induction l generalizing s with
    | nil => rfl
    | cons c l ih =>
      rw [List.foldl_cons, ih _ fun d hd => hlt d (List.mem_cons_of_mem _ hd)]
      exact State.reg_setFld _ _ _ _ _ _ fun he => hoff ⟨c, hlt c List.mem_cons_self, he⟩

theorem Reg.portStatus_not_red (g : Nat) : ¬ ∃ c < 64, Reg.portStatus g = Reg.red c := by
  rintro ⟨c, hc, h⟩
  simp only [Reg.portStatus, Reg.port, Reg.guy, Reg.red, Reg.redDie] at h
  omega

/-! ### A port that goes down, with a GO kept or without -/

theorem State.portUsed_congr {g : Nat} (hcfg : t.reg (Reg.portCfg g) = s.reg (Reg.portCfg g)) (hpkgId : t.reg Reg.pkgId = s.reg Reg.pkgId) :
    t.portUsed g = s.portUsed g := by
  rw [State.portUsed, State.fld_of_reg hcfg, State.dim_congr hpkgId, State.portUsed]

/-- A kept GO is given up as its retrain starts. -/
def State.keptTaken (s : State) (g : Nat) : State := (s.setFld (Reg.portCtrl g) 4 1 0).setPort g { s.port g with kept := none }

theorem State.keptTaken_state (s : State) (g : Nat) : (s.keptTaken g).portState g = s.portState g :=
  (State.fld_setPort _ _ _ _ _ _).trans (State.fld_setFld_apart _ (Reg.portStatus_ne_portCtrl g g) _ _ _ _ _)

theorem State.keptTaken_kept (s : State) (g : Nat) : ((s.keptTaken g).port g).kept = none := by
  rw [State.keptTaken, State.port_setPort_self]

theorem State.keptTaken_linkMap (s : State) (g : Nat) : (s.keptTaken g).linkMap = s.linkMap :=
  (State.setPort_linkMap _ _ _).trans (SetupOnly.setFld _ _ _ _ _).linkMap

theorem State.keptTaken_used (s : State) (g : Nat) : (s.keptTaken g).portUsed g = s.portUsed g :=
  State.portUsed_congr ((State.reg_setPort _ _ _ _).trans (State.reg_setFld _ _ _ _ _ _ (Reg.portCfg_ne_portCtrl g g)))
    ((State.reg_setPort _ _ _ _).trans (State.reg_setFld _ _ _ _ _ _ (Reg.pkgId_ne_portCtrl g)))

theorem State.startKept_down {g l : Nat} (hkept : (s.port g).kept = some l) (hstate : s.portState g = 4) :
    s.startKept g = if s.portUsed g = true then (s.keptTaken g).trainPort g else s.keptTaken g := by
  rw [State.startKept_some hkept, ← State.keptTaken_used]
  exact State.startRetrain_down ((s.keptTaken_state g).trans hstate) l

theorem State.portDown_spec (s : State) (g : Nat) :
    (s.portDown g).isDown s.pkg g = true ∧ ((s.portDown g).port g).kept = none ∧
    (s.portDown g).portState g = if (s.port g).kept = none ∨ s.portUsed g = false then 4 else 1 := by
  have hfell := s.portFell_spec g
  cases hkept : (s.port g).kept with
  | none =>
    rw [State.portDown_of_none hkept]
    exact ⟨hfell.isDown, hfell.kept.trans hkept, by rw [hfell.state]; simp⟩
  | some l =>
    have hmap := (s.portFell g).keptTaken_linkMap g
    have hdown (t : State) (h : t.linkMap = (s.portFell g).linkMap) : t.isDown s.pkg g = true := by
      rw [State.isDown, h]; exact hfell.isDown
    rw [State.portDown_eq, State.startKept_down (hfell.kept.trans hkept) hfell.state, State.portUsed_congr hfell.cfg hfell.pkgId]
    cases s.portUsed g with
    | true =>
      exact ⟨hdown _ ((State.trainPort_linkMap _ _).trans hmap), (State.trainPort_kept _ _).trans (State.keptTaken_kept _ _),
        State.trainPort_state _ _⟩
    | false => exact ⟨hdown _ hmap, State.keptTaken_kept _ _, (State.keptTaken_state _ _).trans hfell.state⟩

/-! ### A write to GUY_PORT_CTRL -/

theorem State.portUsed_setCtrl (s : State) (g lo len v : Nat) : (s.setFld (Reg.portCtrl g) lo len v).portUsed g = s.portUsed g :=
  State.portUsed_congr (State.reg_setFld _ _ _ _ _ _ (Reg.portCfg_ne_portCtrl g g)) (State.reg_setFld _ _ _ _ _ _ (Reg.pkgId_ne_portCtrl g))

theorem State.portState_setCtrl (s : State) (g lo len v : Nat) : (s.setFld (Reg.portCtrl g) lo len v).portState g = s.portState g :=
  State.fld_setFld_apart _ (Reg.portStatus_ne_portCtrl g g) _ _ _ _ _

/-- GO at a port that is down and not in a retrain trains it (R415). -/
theorem State.portCtrlWrite_trains {g v : Nat} (hgo : v.testBit 4 = true) (hidle : s.fld (Reg.portCtrl g) 5 1 = 0) (hused : s.portUsed g = true)
    (hstate : s.portState g = 4) : s.portCtrlWrite g v = (s.setFld (Reg.portCtrl g) 0 4 (bitsOf v 0 4)).trainPort g := by
  have hidle' : (s.setFld (Reg.portCtrl g) 0 4 (bitsOf v 0 4)).fld (Reg.portCtrl g) 5 1 = 0 :=
    (State.fld_setFld_other _ _ _ _ _ _ _ (by decide) (by decide)).trans hidle
  have hgo' : ¬ (!v.testBit 4) = true := by rw [hgo]; decide
  unfold State.portCtrlWrite
  dsimp only
  rw [if_neg hgo', if_neg (by rw [hidle']; decide), State.startRetrain_down ((State.portState_setCtrl _ _ _ _ _).trans hstate),
    State.portUsed_setCtrl, if_pos hused]

/-- GO in a retrain is kept (R415). -/
theorem State.portCtrlWrite_kept {g v : Nat} (hgo : v.testBit 4 = true) (hbusy : s.fld (Reg.portCtrl g) 5 1 = 1) :
    s.portCtrlWrite g v = ((s.setFld (Reg.portCtrl g) 0 4 (bitsOf v 0 4)).setFld (Reg.portCtrl g) 4 1 1).setPort g
      { (s.setFld (Reg.portCtrl g) 0 4 (bitsOf v 0 4)).port g with kept := some (bitsOf v 0 4) } := by
  have hgo' : ¬ (!v.testBit 4) = true := by rw [hgo]; decide
  unfold State.portCtrlWrite
  dsimp only
  rw [if_neg hgo']
  exact if_pos ((State.fld_setFld_other _ _ _ _ _ _ _ (by decide) (by decide)).trans hbusy)

/-- The port asks its partner for the retrain it was told to start (log entry 101). -/
def State.asked (s : State) (g lanes : Nat) : State := { s with notices := s.notices ++ [[0x415, g, lanes]] }

theorem State.asked_fld (s : State) (g lanes off lo len : Nat) : (s.asked g lanes).fld off lo len = s.fld off lo len := rfl

theorem State.asked_portState (s : State) (g lanes x : Nat) : (s.asked g lanes).portState x = s.portState x := rfl

theorem State.asked_port (s : State) (g lanes x : Nat) : (s.asked g lanes).port x = s.port x := rfl

theorem State.asked_notices (s : State) (g lanes : Nat) : [0x415, g, lanes] ∈ (s.asked g lanes).notices := by simp [State.asked]

theorem execPortRetrain_go {path : Path} {v : BitVec 32} (hmay : s.mayWrite path (Reg.portCtrl g) = true) (hgo : v.getLsbD 4 = true) :
    execPortRetrain g (some path) v s = .next (((s.accessed path).portCtrlWrite g v.toNat).asked g (bitsOf v.toNat 0 4)) := by
  unfold execPortRetrain
  dsimp only
  rw [State.guarded_of_mayWrite hmay, if_pos hgo, State.asked]

theorem State.accessed_ports (s : State) (path : Path) : (s.accessed path).ports = s.ports := by
  obtain ⟨l, hl⟩ := s.accessed_eq path
  rw [hl]

/-! ### Training ends -/

/-- What a training writes before its outcome shows: lanes, lane order, partner, rate, and the port's queues as new. -/
def State.trainingEnded (s : State) (g lanes peer peerG w : Nat) (reversed : Bool) : State :=
  let st := Reg.portStatus g
  let t := (((s.setFld st 6 4 lanes).setFld st 10 1 (boolNat reversed)).setFld st 16 13 peer).setFld st 29 3 peerG
  let t := (t.setFld st 5 1 (t.fld (Reg.portCfg g) 1 1)).setFld (Reg.portCtrl g) 5 1 0
  let p := t.port g
  t.setPort g { notices := p.notices, kept := p.kept, depth := p.depth, flags := p.flags, since := t.ns, due := 100 * t.ns, used := lanesAt lanes w }

/-- The state and width that a training's outcome gives port g. -/
def State.portSet (s : State) (g state width : Nat) : State := (s.setFld (Reg.portStatus g) 0 3 state).setFld (Reg.portStatus g) 3 2 width

theorem State.trained_eq (s : State) (g lanes width peer peerG shape : Nat) (reversed : Bool) :
    s.trained g lanes width peer peerG shape reversed =
      let w := if s.refLost g then 3 else max width (widthOf lanes)
      let t := s.trainingEnded g lanes peer peerG w reversed
      if w = 3 ∨ t.minWidth g < w then t.portSet g 4 3
      else if shape ≠ t.fld Reg.pkgId 16 16 ∨ peer ≠ t.partner g ∨ peerG ≠ partnerPort g then
        if (t.portSet g 5 3).bu.ready then (t.portSet g 5 3).portFault g 0x611 3 3 peer
        else (t.portSet g 5 3).note 0x0A03 0x611 ((t.portSet g 5 3).unitDie (guyDie g)) g peer
      else t.portSet g (t.upState g) w := rfl

/-! What a training writes, and what it leaves alone. -/

theorem State.trainingEnded_only (s : State) (g lanes peer peerG w : Nat) (reversed : Bool) : s.trainingEnded g lanes peer peerG w reversed =
    { s with regs := (s.trainingEnded g lanes peer peerG w reversed).regs, ports := (s.trainingEnded g lanes peer peerG w reversed).ports } := by
  unfold State.trainingEnded
  extract_lets st t u p
  have honly : SetupOnly s u := (((SetupOnly.setFld _ _ _ _ _).trans (.setFld _ _ _ _ _)).trans ((SetupOnly.setFld _ _ _ _ _).trans
    (.setFld _ _ _ _ _))).trans ((SetupOnly.setFld t _ _ _ _).trans (.setFld _ _ _ _ _))
  clear_value u
  rw [honly]
  rfl

section
variable (s : State) (g lanes peer peerG w : Nat) (reversed : Bool)

theorem State.trainingEnded_port : ∃ n, (s.trainingEnded g lanes peer peerG w reversed).port g =
    { notices := (s.port g).notices, kept := (s.port g).kept, depth := (s.port g).depth, flags := (s.port g).flags, since := n, due := 100 * n,
      used := lanesAt lanes w } := by
  unfold State.trainingEnded
  extract_lets st t u p
  refine ⟨u.ns, ?_⟩
  have hport : p = s.port g := by
    simp only [p, u, t, State.port_setFld]
  rw [State.port_setPort_self, hport]

theorem State.trainingEnded_reg {off : Nat} (hstatus : off ≠ Reg.portStatus g) (hctrl : off ≠ Reg.portCtrl g) :
    (s.trainingEnded g lanes peer peerG w reversed).reg off = s.reg off := by
  simp only [State.trainingEnded, State.reg_setPort, State.reg_setFld _ _ _ _ _ _ hstatus, State.reg_setFld _ _ _ _ _ _ hctrl]

theorem State.trainingEnded_peer (h : peer < 2 ^ 13) : (s.trainingEnded g lanes peer peerG w reversed).fld (Reg.portStatus g) 16 13 = peer := by
  simp only [State.trainingEnded, State.fld_setPort, State.fld_setFld_apart _ (Reg.portStatus_ne_portCtrl g g)]
  rw [State.fld_setFld_other _ _ _ _ _ _ _ (by decide) (by decide), State.fld_setFld_other _ _ _ _ _ _ _ (by decide) (by decide),
    State.fld_setFld_same _ _ _ _ _ (by decide), Nat.mod_eq_of_lt h]

theorem State.trainingEnded_ctrl : (s.trainingEnded g lanes peer peerG w reversed).fld (Reg.portCtrl g) 5 1 = 0 := by
  simp only [State.trainingEnded, State.fld_setPort]
  rw [State.fld_setFld_same _ _ _ _ _ (by decide), Nat.zero_mod]

theorem State.trainingEnded_pkgId : (s.trainingEnded g lanes peer peerG w reversed).reg Reg.pkgId = s.reg Reg.pkgId :=
  s.trainingEnded_reg g lanes peer peerG w reversed (Reg.pkgId_ne_portStatus g) (Reg.pkgId_ne_portCtrl g)

theorem State.trainingEnded_minWidth : (s.trainingEnded g lanes peer peerG w reversed).minWidth g = s.minWidth g :=
  State.fld_of_reg (s.trainingEnded_reg g lanes peer peerG w reversed (Reg.portCfg_ne_portStatus g g) (Reg.portCfg_ne_portCtrl g g)) _ _

theorem State.trainingEnded_upState : (s.trainingEnded g lanes peer peerG w reversed).upState = s.upState :=
  State.upState_congr (s.trainingEnded_pkgId g lanes peer peerG w reversed) (by rw [State.trainingEnded_only])

end

theorem State.portSet_only (s : State) (g state width : Nat) : SetupOnly s (s.portSet g state width) :=
  (SetupOnly.setFld _ _ _ _ _).trans (.setFld _ _ _ _ _)

theorem State.portSet_state (s : State) (g width : Nat) {state : Nat} (h : state < 8) : (s.portSet g state width).portState g = state := by
  rw [State.portState, State.portSet, State.fld_setFld_other _ _ _ _ _ _ _ (by decide) (by decide), State.fld_setFld_same _ _ _ _ _ (by decide)]
  exact Nat.mod_eq_of_lt h

theorem State.portSet_width (s : State) (g state : Nat) {width : Nat} (h : width < 4) : (s.portSet g state width).portWidth g = width := by
  rw [State.portWidth, State.portSet, State.fld_setFld_same _ _ _ _ _ (by decide)]
  exact Nat.mod_eq_of_lt h

theorem State.portSet_peer (s : State) (g state width : Nat) :
    (s.portSet g state width).fld (Reg.portStatus g) 16 13 = s.fld (Reg.portStatus g) 16 13 := by
  rw [State.portSet, State.fld_setFld_other _ _ _ _ _ _ _ (by decide) (by decide), State.fld_setFld_other _ _ _ _ _ _ _ (by decide) (by decide)]

theorem State.portSet_reg (s : State) {g off : Nat} (state width : Nat) (h : off ≠ Reg.portStatus g) : (s.portSet g state width).reg off = s.reg off := by
  rw [State.portSet, State.reg_setFld _ _ _ _ _ _ h, State.reg_setFld _ _ _ _ _ _ h]

/-! The outcomes of a training where the reference clock runs. -/

section
variable {g lanes width peer peerG shape w : Nat} {reversed : Bool} (hw : w = max width (widthOf lanes)) (href : s.refLost g = false)
include hw href

theorem State.trained_down (h : w = 3 ∨ s.minWidth g < w) :
    s.trained g lanes width peer peerG shape reversed = (s.trainingEnded g lanes peer peerG w reversed).portSet g 4 3 := by
  subst hw
  rw [State.trained_eq, href]
  exact if_pos (by simpa [State.trainingEnded_minWidth] using h)

theorem State.trained_held (h3 : w ≠ 3) (hmin : w ≤ s.minWidth g) (hpeer : peer ≠ s.partner g) :
    s.trained g lanes width peer peerG shape reversed =
      let t := (s.trainingEnded g lanes peer peerG w reversed).portSet g 5 3
      if t.bu.ready then t.portFault g 0x611 3 3 peer else t.note 0x0A03 0x611 (t.unitDie (guyDie g)) g peer := by
  subst hw
  have hpartner := State.partner_congr (s.trainingEnded_pkgId g lanes peer peerG (max width (widthOf lanes)) reversed)
  rw [State.trained_eq, href]
  refine (if_neg ?_).trans (if_pos (.inr (.inl ?_)))
  · rw [if_neg Bool.false_ne_true, State.trainingEnded_minWidth]
    exact not_or.mpr ⟨h3, Nat.not_lt_of_le hmin⟩
  · rwa [if_neg Bool.false_ne_true, hpartner]

theorem State.trained_up (h3 : w ≠ 3) (hmin : w ≤ s.minWidth g) (hshape : shape = s.fld Reg.pkgId 16 16) (hpeer : peer = s.partner g)
    (hpeerG : peerG = partnerPort g) :
    s.trained g lanes width peer peerG shape reversed = (s.trainingEnded g lanes peer peerG w reversed).portSet g (s.upState g) w := by
  subst hw
  have hpkgId := s.trainingEnded_pkgId g lanes peer peerG (max width (widthOf lanes)) reversed
  rw [State.trained_eq, href, ← s.trainingEnded_upState g lanes peer peerG (max width (widthOf lanes)) reversed]
  refine (if_neg ?_).trans (if_neg ?_)
  · rw [if_neg Bool.false_ne_true, State.trainingEnded_minWidth]
    exact not_or.mpr ⟨h3, Nat.not_lt_of_le hmin⟩
  · rw [if_neg Bool.false_ne_true, State.partner_congr hpkgId, State.fld_of_reg hpkgId]
    simp [hshape, hpeer, hpeerG]

end

/-- Port g held (R21) leaves the logbook, the fault buffers, the time and the package's place as they were. -/
theorem State.held_rest (s : State) (g lanes peer peerG w : Nat) (reversed : Bool) (t : State)
    (ht : t = (s.trainingEnded g lanes peer peerG w reversed).portSet g 5 3) :
    t.bu = s.bu ∧ t.fbufs = s.fbufs ∧ t.time = s.time ∧ t.unitDie = s.unitDie := by
  have hset := (s.trainingEnded g lanes peer peerG w reversed).portSet_only g 5 3
  have hpkgId := s.trainingEnded_pkgId g lanes peer peerG w reversed
  subst ht
  refine ⟨hset.bu.trans ?_, hset.fbufs.trans ?_, hset.time.trans ?_, State.unitDie_congr ?_⟩
  · rw [State.trainingEnded_only]
  · rw [State.trainingEnded_only]
  · rw [State.trainingEnded_only]
  · exact (State.portSet_reg _ _ _ (Reg.pkgId_ne_portStatus g)).trans hpkgId

theorem execPortRetrainDone_of_training {lanes : BitVec 4} {width : Fin 4} {rev : Bool} {peer : BitVec 13} {peerG : Fin 8} {shape : BitVec 16}
    (hstate : s.portState g = 1) (hkept : ((s.trained g lanes.toNat width peer.toNat peerG shape.toNat rev).port g).kept = none) :
    execPortRetrainDone g lanes width rev peer peerG shape s = .next (s.trained g lanes.toNat width peer.toNat peerG shape.toNat rev) :=
  (if_pos hstate).trans (congrArg Host.Outcome.next (State.startKept_none hkept))

end Sys2Proof.Machine

open Sys2Proof Sys2Proof.Machine

/-- Settles O39: a port goes down by `State.portDown_spec`, trains by `State.trainPort` and comes out of a training by `State.trained_up`,
`State.trained_held` and `State.trained_down`. -/
theorem portStates : Obligations.PortStates := by
  intro g s p
  refine ⟨?lossOfLock, ?narrowDone, fun hstate hdue => ?narrowTimeout, fun hstate hdue => ?upHold, fun hstate hauto hused hidle hdue => ?autoRetry,
    fun path v hmay hgo => ⟨fun hidle hused hstate => ?goTrains, fun hbusy => ?goKept⟩,
    fun v => ⟨fun hbusy => ?askedBusy, fun hidle hused hstate => ?askedTrains⟩, ?retrainDone⟩
  case lossOfLock =>
    intro good w kept htakes
    have hexec : exec (.portLossOfLock g good) s = _ := execPortLossOfLock_eq htakes good
    refine ⟨fun hkept => ?_, fun hlost hdown hnone => ?_, fun hlost h3 hmin => ?_⟩
    · rw [if_pos hkept] at hexec
      exact ⟨_, hexec, s.lanesLost_state g _, s.lanesLost_good g good, (s.lanesLost_only g _).ports⟩
    · have hfell := (s.lanesLost g good.toNat).portFell_spec g
      rw [if_neg hlost, if_pos hdown, State.portDown_of_none ((congrArg Port.kept (s.lanesLost_port g _)).trans hnone)] at hexec
      exact ⟨_, hexec, hfell.state, hfell.width, s.lanesLost_pkg g good.toNat ▸ hfell.isDown, hfell.txq, hfell.unacked⟩
    · rw [if_neg hlost, if_neg (not_or.mpr ⟨Nat.not_le_of_lt h3, Nat.not_lt_of_le hmin⟩)] at hexec
      refine ⟨_, hexec, ?_, ?_, ?_, ?_⟩
      · rw [State.portState, State.narrowing, State.fld_setPort, State.fld_setFld_same _ _ _ _ _ (by decide), Nat.mod_eq_of_lt (by decide)]
      · rw [State.narrowing, State.fld_setPort, State.fld_setFld_other _ _ _ _ _ _ _ (by decide) (by decide), State.lanesLost_good]
      · rw [State.narrowing, State.port_setPort_self]
        exact (s.lanesLost_only g good.toNat).ns
      · exact (State.setPort_linkMap _ _ _).trans ((s.lanesLost_only g _).trans (.setFld _ _ _ _ _)).linkMap
  case narrowDone =>
    intro width w hstate h3 hmin
    have hw : w < 4 := by
      have := widthOf_le (s.fld (Reg.portStatus g) 6 4)
      omega
    have hrec := (s.narrowed g w).portFault_only g 0x602 (s.portWidth g) w 0
    have hfb := ((s.narrowed g w).portFault g 0x602 (s.portWidth g) w 0).setFallBack_only (guyDie g)
    have hstatus : (((s.narrowed g w).portFault g 0x602 (s.portWidth g) w 0).setFallBack (guyDie g)).reg (Reg.portStatus g) = _ :=
      (RegsOnly.setFallBack _ _ _ (Reg.portStatus_not_red g)).trans (State.reg_of_regs hrec.regs _)
    have hport := (State.port_of_ports (hfb.ports.trans hrec.ports) g).trans (s.narrowed_port g w)
    have honly := s.narrowed_only g w
    refine ⟨_, execPortNarrowDone_eq rfl hstate h3 hmin, (State.fld_of_reg hstatus _ _).trans (s.narrowed_state g w),
      (State.fld_of_reg hstatus _ _).trans (s.narrowed_width g hw), by rw [hport], by rw [hport], by rw [hport], ?_⟩
    rw [← State.unitDie_congr (s.narrowed_reg w (Reg.pkgId_ne_portStatus g))]
    exact (Recorded.portFault (s.narrowed g w) g 0x602 (s.portWidth g) w 0).between
      ((State.setPort_bu _ _ _).trans honly.bu) ((State.setPort_fbufs _ _ _).trans honly.fbufs) ((State.setPort_time _ _ _).trans honly.time) hfb.fbufs
  case narrowTimeout =>
    obtain ⟨hdown, hkept, hstate'⟩ := s.portDown_spec g
    exact ⟨_, if_pos ⟨hstate, hdue⟩, hdown, hkept, hstate'⟩
  case upHold =>
    have htold := (s.setFld (Reg.portStatus g) 0 3 2).ownNotice_noticed g false
    refine ⟨_, if_pos ⟨hstate, hdue⟩, ?_, ?_⟩
    · rw [State.portState, State.fld_of_reg (htold.regs _ (Reg.portStatus_not_counts g)), State.fld_setFld_same _ _ _ _ _ (by decide),
        Nat.mod_eq_of_lt (by decide)]
    · rw [← State.pkg_congr (State.reg_setFld s _ 0 3 2 _ (Reg.pkgId_ne_portStatus g))]
      exact htold.isDown
  case autoRetry =>
    exact ⟨_, if_pos ⟨hstate, hauto, hused, hidle, hdue⟩, s.trainPort_state g, s.trainPort_ctrl g⟩
  case goTrains =>
    have hports := s.accessed_ports path
    have hreg (off : Nat) := s.accessed_reg path off
    have hwrite := State.portCtrlWrite_trains (s := s.accessed path) (g := g) (v := v.toNat) hgo ((State.fld_of_reg (hreg _) _ _).trans hidle)
      ((State.portUsed_congr (hreg _) (hreg _)).trans hused) ((State.fld_of_reg (hreg _) _ _).trans hstate)
    have hexec : exec (.portRetrain g (some path) v) s = _ := execPortRetrain_go hmay hgo
    rw [hwrite] at hexec
    refine ⟨_, hexec, (State.asked_portState _ _ _ _).trans (State.trainPort_state _ _), (State.asked_fld _ _ _ _ _ _).trans (State.trainPort_ctrl _ _),
      ?_, State.asked_notices _ _ _⟩
    rw [State.asked_fld, State.trainPort_lanes, State.fld_setFld_same _ _ _ _ _ (by decide)]
    exact Nat.mod_mod _ _
  case goKept =>
    have hreg (off : Nat) := s.accessed_reg path off
    have hwrite := State.portCtrlWrite_kept (s := s.accessed path) (g := g) (v := v.toNat) hgo ((State.fld_of_reg (hreg _) _ _).trans hbusy)
    have hexec : exec (.portRetrain g (some path) v) s = _ := execPortRetrain_go hmay hgo
    rw [hwrite] at hexec
    refine ⟨_, hexec, ?_, ?_, ?_⟩
    · rw [State.asked_portState, State.portState, State.fld_setPort]
      exact (State.portState_setCtrl _ _ _ _ _).trans ((State.portState_setCtrl _ _ _ _ _).trans (State.fld_of_reg (hreg _) _ _))
    · rw [State.asked_port, State.port_setPort_self]
    · rw [State.asked_fld, State.fld_setPort, State.fld_setFld_same _ _ _ _ _ (by decide), Nat.mod_eq_of_lt (by decide)]
  case askedBusy => exact congrArg Host.Outcome.next (if_pos hbusy)
  case askedTrains =>
    have hexec : exec (.portRetrain g none v) s = .next (s.trainPort g) := by
      refine congrArg Host.Outcome.next ((if_neg (by rw [hidle]; decide)).trans ?_)
      rw [State.startRetrain_down hstate, if_pos hused]
    exact ⟨_, hexec, s.trainPort_state g, s.trainPort_ctrl g⟩
  case retrainDone =>
    intro lanes width rev peer peerG shape w hstate hnone href
    have hw : w < 4 := by
      have := widthOf_le lanes.toNat
      omega
    obtain ⟨n, hport⟩ := s.trainingEnded_port g lanes.toNat peer.toNat peerG w rev
    have hset (state width' : Nat) := (s.trainingEnded g lanes.toNat peer.toNat peerG w rev).portSet_only g state width'
    have hportSet (state width' : Nat) := (State.port_of_ports (hset state width').ports g).trans hport
    have hkept (state width' : Nat) := (congrArg Port.kept (hportSet state width')).trans hnone
    have hdone (h) : exec (.portRetrainDone g lanes width rev peer peerG shape) s = _ := execPortRetrainDone_of_training hstate h
    refine ⟨fun h3 hmin hshape hpeer hpeerG => ?_, fun h3 hmin hpeer => ?_, fun hbad => ?_⟩
    · rw [State.trained_up rfl href h3 hmin hshape hpeer hpeerG] at hdone
      refine ⟨_, hdone (hkept _ _), State.portSet_state _ _ _ (s.upState_lt g), State.portSet_width _ _ _ hw, by rw [hportSet],
        (State.portSet_peer _ _ _ _).trans (State.trainingEnded_peer _ _ _ _ _ _ _ peer.isLt),
        (State.fld_of_reg (State.portSet_reg _ _ _ (Reg.portCtrl_ne_portStatus g g)) _ _).trans (State.trainingEnded_ctrl _ _ _ _ _ _ _), by rw [hportSet]⟩
    · rw [State.trained_held rfl href h3 hmin hpeer] at hdone
      dsimp only at hdone
      generalize ht : (s.trainingEnded g lanes.toNat peer.toNat peerG w rev).portSet g 5 3 = t at hdone
      obtain ⟨hbu, hfbufs, htime, hunit⟩ := s.held_rest g lanes.toNat peer.toNat peerG w rev t ht.symm
      have hstate' : t.portState g = 5 := ht ▸ State.portSet_state _ _ _ (by decide)
      have hwidth : t.portWidth g = 3 := ht ▸ State.portSet_width _ _ _ (by decide)
      have hkept' : (t.port g).kept = none := ht ▸ hkept 5 3
      have honly : RecordOnly t (if t.bu.ready then t.portFault g 0x611 3 3 peer.toNat else t.note 0x0A03 0x611 (t.unitDie (guyDie g)) g peer.toNat) := by
        split
        · exact t.portFault_only _ _ _ _ _
        · exact .note _ _ _ _ _ _
      have hreg := State.reg_of_regs honly.regs (Reg.portStatus g)
      refine ⟨_, hdone ((congrArg Port.kept (State.port_of_ports honly.ports g)).trans hkept'), (State.fld_of_reg hreg _ _).trans hstate',
        (State.fld_of_reg hreg _ _).trans hwidth, fun hready => ?_⟩
      rw [if_pos (hbu ▸ hready), ← hunit]
      exact (Recorded.portFault t g 0x611 3 3 peer.toNat).between hbu hfbufs htime rfl hready
    · rw [State.trained_down rfl href hbad] at hdone
      exact ⟨_, hdone (hkept _ _), State.portSet_state _ _ _ (by decide), State.portSet_width _ _ _ (by decide)⟩

end

section
/-! The link-state notices of other packages (R412) and the time base (R418 to R422). -/
namespace Sys2Proof.Machine
open Sys2Proof.Laws.Tab

variable {s t : State}

/-! ### Packets taken from the inbox -/

theorem State.takePkt_eq {typ n : Nat} {p : Pkt} (h : (s.inbox.filter (fun x => x.typ == typ))[n]? = some p) :
    s.takePkt typ n = some (p, { s with inbox := s.inbox.erase p }) := by
  rw [State.takePkt, h]
  rfl

/-- A delivered packet passes where its header check and, for the types that have one, its control-payload check agree (R549, R550). -/
theorem State.checked_eq_none_iff {p : Pkt} : s.checked p = none ↔ p.checkOk = true ∧ (ctlChecked p.typ = true →
    check32c (((s.clear p ++ p.bytes.drop (32 + p.len)).take 64).take 60) (ctlFold p.tag p.src p.dst) =
      fieldAt ((s.clear p ++ p.bytes.drop (32 + p.len)).take 64) 60 4) := by
  unfold State.checked
  dsimp only
  cases p.checkOk <;> cases ctlChecked p.typ <;> simp

theorem State.checked_of_inbox {p : Pkt} (h : s.checked p = none) (l : List Pkt) : ({ s with inbox := l } : State).checked p = none := by
  have hclear : ({ s with inbox := l } : State).clear p = s.clear p := rfl
  rw [State.checked_eq_none_iff, hclear, ← State.checked_eq_none_iff]
  exact h

/-! ### Notices -/

/-- A newer notice applied: it is the newest seen of its port, the port has its mark, and the notice is counted. -/
def State.noticeApplied (s : State) (n g : Nat) (down : Bool) (seq : Nat) : State :=
  [5, 6].foldl (fun (u : State) d => u.setFld (Reg.mapStatus d) 32 32 (u.fld (Reg.mapStatus d) 32 32 + 1))
    (({ s with lsSeen := Tab.set (fun _ => 0) s.lsSeen (8 * n + g) (seq + 1) } : State).mark n g down)

theorem State.noticeApplied_linkMap (s : State) (n g : Nat) (down : Bool) (seq : Nat) :
    (s.noticeApplied n g down seq).linkMap = Tab.set (fun _ => false) s.linkMap (8 * n + g) down :=
  (SetupOnly.foldl (fun _ _ => .setFld _ _ _ _ _) _ _).linkMap.trans (State.mark_linkMap _ _ _ _)

theorem State.noticeApplied_rest (s : State) (n g : Nat) (down : Bool) (seq : Nat) :
    (s.noticeApplied n g down seq).lsSeen = Tab.set (fun _ => 0) s.lsSeen (8 * n + g) (seq + 1) ∧
    (s.noticeApplied n g down seq).mem = s.mem ∧ (s.noticeApplied n g down seq).cores = s.cores := by
  have honly : SetupOnly _ (s.noticeApplied n g down seq) := SetupOnly.foldl (fun _ _ => .setFld _ _ _ _ _) _ _
  rw [honly, State.mark_rest]
  exact ⟨rfl, rfl, rfl⟩

theorem execLinkstate_newer {n : Nat} {pkg : BitVec 13} {g : Fin 8} {down : Bool} {seq : Nat} {p : Pkt}
    (h : (s.inbox.filter (fun x => x.typ == 9))[n]? = some p) (hok : s.checked p = none)
    (hseq : Tab.get (fun _ => 0) s.lsSeen (8 * pkg.toNat + g.val) ≤ seq) (hpkg : pkg.toNat ≠ s.pkg) :
    execLinkstate n pkg g down seq s =
      .next ((({ s with inbox := s.inbox.erase p } : State).noticeApplied pkg.toNat g down seq).sendNotice pkg.toNat g down seq p.gin) := by
  unfold execLinkstate
  rw [State.takePkt_eq h]
  dsimp only
  rw [State.checked_of_inbox hok]
  exact if_neg (not_or.mpr ⟨Nat.not_lt_of_le hseq, hpkg⟩)

theorem execLinkstate_older {n : Nat} {pkg : BitVec 13} {g : Fin 8} {down : Bool} {seq : Nat} {p : Pkt}
    (h : (s.inbox.filter (fun x => x.typ == 9))[n]? = some p) (hok : s.checked p = none)
    (hseq : seq < Tab.get (fun _ => 0) s.lsSeen (8 * pkg.toNat + g.val)) :
    execLinkstate n pkg g down seq s = .next { s with inbox := s.inbox.erase p } := by
  unfold execLinkstate
  rw [State.takePkt_eq h]
  dsimp only
  rw [State.checked_of_inbox hok]
  exact if_pos (.inl hseq)

/-! ### SYNC packets -/

/-- The virtual channel of a packet is not its type. -/
theorem Pkt.typ_onVc (p : Pkt) (vc : Nat) : (p.onVc vc).typ = p.typ := by
  unfold Pkt.typ Pkt.onVc Pkt.field fieldAt
  dsimp only
  rw [List.drop_set, if_neg (by decide), List.take_set_of_le (by decide)]

theorem Head.typ_packet (h : Head) (pay : List Byte) : ({ bytes := h.packet pay } : Pkt).typ = h.typ % 256 := by
  simp [Pkt.typ, Pkt.field, fieldAt, Head.packet, leBytes, leNat]

theorem execSyncSend_due {g : Fin 8} (htakes : s.portTakes g = true) (hdue : (s.port g).syncNext ≤ s.ns) :
    ∃ k, k.typ = 0x20 ∧ execSyncSend g s = .next (s.setPort g { s.port g with txq := (s.port g).txq ++ [k], syncNext := s.ns + 10000 }) :=
  ⟨_, (Pkt.typ_onVc _ _).trans (Head.typ_packet _ _), if_pos ⟨htakes, hdue⟩⟩

/-! ### Registers of the time base -/

theorem Reg.timStatus_ne_timLink (g : Nat) : Reg.timStatus ≠ Reg.timLink g := by
  simp only [Reg.timStatus, Reg.timLink, Reg.guy]; omega

theorem Reg.timMaster_ne_timLink (g : Nat) : Reg.timMaster ≠ Reg.timLink g := by
  simp only [Reg.timMaster, Reg.timLink, Reg.guy]; omega

theorem Reg.pkgId_ne_timLink (g : Nat) : Reg.pkgId ≠ Reg.timLink g := by
  simp only [Reg.pkgId, Reg.timLink, Reg.guy]; omega

theorem Reg.portStatus_ne_timLink (x g : Nat) : Reg.portStatus x ≠ Reg.timLink g := by
  simp only [Reg.portStatus, Reg.port, Reg.timLink, Reg.guy]; omega

theorem Reg.pkgId_ne_timStatus : Reg.pkgId ≠ Reg.timStatus := by decide

/-! ### The parent -/

theorem State.master_congr (hmaster : t.reg Reg.timMaster = s.reg Reg.timMaster) (hstatus : t.reg Reg.timStatus = s.reg Reg.timStatus) :
    t.masterOf t.onBackup = s.masterOf s.onBackup := by
  have hback : t.onBackup = s.onBackup := by rw [State.onBackup, State.fld_of_reg hstatus, State.onBackup]
  rw [hback, State.masterOf, State.fld_of_reg hmaster, State.fld_of_reg hmaster, State.masterOf]

theorem State.parentPort_congr (hpkgId : t.reg Reg.pkgId = s.reg Reg.pkgId) (hmap : t.linkMap = s.linkMap)
    (hmaster : t.masterOf t.onBackup = s.masterOf s.onBackup) (hports : ∀ x, t.reg (Reg.portStatus x) = s.reg (Reg.portStatus x))
    (hdepth : ∀ x, (t.port x).depth = (s.port x).depth) : t.parentPort = s.parentPort := by
  have htakes (x : Nat) : t.portTakes x = s.portTakes x := State.portTakes_of_reg (hports x)
  simp only [State.parentPort, hmaster, State.route_congr hpkgId hmap, State.coord_congr hpkgId, State.pkg_congr hpkgId, htakes, hdepth]

/-- The time base and its discipline set. -/
def State.timSet (s : State) (time : W64) (x : Tim) : State := { s with time := time, tim := x }

theorem State.timSet_reg (s : State) (time : W64) (x : Tim) (off : Nat) : (s.timSet time x).reg off = s.reg off := State.reg_of_regs rfl off

/-- The offset to the parent, the parent's port and the depth below it, as TIM_STATUS shows them (R419). -/
def State.parentShown (s : State) (g : Nat) (offset8 : Int) (depth : Nat) : State :=
  ((s.setFld Reg.timStatus 32 16 (offset8 % 65536).toNat).setFld Reg.timStatus 8 3 g).setFld Reg.timStatus 3 5 (min (depth + 1) 31)

theorem State.parentShown_only (s : State) (g : Nat) (offset8 : Int) (depth : Nat) : SetupOnly s (s.parentShown g offset8 depth) :=
  ((SetupOnly.setFld _ _ _ _ _).trans (.setFld _ _ _ _ _)).trans (.setFld _ _ _ _ _)

theorem State.parentShown_state (s : State) (g : Nat) (offset8 : Int) (depth : Nat) :
    (s.parentShown g offset8 depth).fld Reg.timStatus 0 2 = s.fld Reg.timStatus 0 2 := by
  rw [State.parentShown, State.fld_setFld_other _ _ _ _ _ _ _ (by decide) (by decide), State.fld_setFld_other _ _ _ _ _ _ _ (by decide) (by decide),
    State.fld_setFld_other _ _ _ _ _ _ _ (by decide) (by decide)]

theorem State.parentShown_reg (s : State) (g : Nat) (offset8 : Int) (depth : Nat) {off : Nat} (h : off ≠ Reg.timStatus) :
    (s.parentShown g offset8 depth).reg off = s.reg off := by
  rw [State.parentShown, State.reg_setFld _ _ _ _ _ _ h, State.reg_setFld _ _ _ _ _ _ h, State.reg_setFld _ _ _ _ _ _ h]

/-- The one step of the time base (R418): a package that locks in step 11, with three exchanges made, takes the correction of a locked parent. -/
theorem State.discipline_of_step {u : State} {g depth : Nat} {offset8 : Int} (hu : s.parentShown g offset8 depth = u)
    (hlocking : s.fld Reg.timStatus 0 2 = 1) (hstep : s.bu.step = 11) (hstate : s.bu.state = 1) (hexch : 3 ≤ s.tim.exchanges)
    (hfirst : s.tim.stepped = false) :
    s.discipline g offset8 true depth = (u.timSet (u.time + BitVec.ofInt 64 (offset8 / 8))
      { u.tim with exchanges := u.tim.exchanges + 1, stepped := true, ruledAt := u.ns }).setFld Reg.timStatus 0 2 2 := by
  have honly : SetupOnly s u := hu ▸ s.parentShown_only g offset8 depth
  have hlocking' : u.fld Reg.timStatus 0 2 = 1 := hu ▸ (s.parentShown_state g offset8 depth).trans hlocking
  have hrunning : ¬ (u.bu.step ≠ 11 ∨ u.bu.state ≠ 1) := by rw [honly.bu, hstep, hstate]; decide
  have hexch' : 4 ≤ u.tim.exchanges + 1 := by rw [honly.tim]; omega
  have hfirst' : ¬ u.tim.stepped = true := by rw [honly.tim, hfirst]; decide
  unfold State.discipline
  dsimp only
  rw [← State.parentShown, hu, if_pos hlocking', if_neg hrunning, if_pos ⟨rfl, hexch'⟩, if_neg hfirst', State.timSet]

/-- The package is locked, its step taken and its time corrected; no register but TIM_STATUS has changed. -/
structure Stepped (s t : State) (offset8 : Int) : Prop where
  locked : t.fld Reg.timStatus 0 2 = 2
  stepped : t.tim.stepped = true
  time : t.time = s.time + BitVec.ofInt 64 (offset8 / 8)
  regs : RegsOnly s t (fun off => off = Reg.timStatus)

theorem Stepped.discipline {g depth : Nat} {offset8 : Int} (hlocking : s.fld Reg.timStatus 0 2 = 1) (hstep : s.bu.step = 11)
    (hstate : s.bu.state = 1) (hexch : 3 ≤ s.tim.exchanges) (hfirst : s.tim.stepped = false) :
    Stepped s (s.discipline g offset8 true depth) offset8 := by
  have honly := s.parentShown_only g offset8 depth
  have hreg (off : Nat) (h : off ≠ Reg.timStatus) := s.parentShown_reg g offset8 depth h
  generalize hu : s.parentShown g offset8 depth = u at honly hreg
  rw [State.discipline_of_step hu hlocking hstep hstate hexch hfirst]
  refine ⟨?_, ?_, ?_, fun off h => ?_⟩
  · rw [State.fld_setFld_same _ _ _ _ _ (by decide), Nat.mod_eq_of_lt (by decide)]
  · rw [(SetupOnly.setFld _ _ _ _ _).tim, State.timSet]
  · rw [(SetupOnly.setFld _ _ _ _ _).time, ← honly.time, State.timSet]
  · rw [State.reg_setFld _ _ _ _ _ _ h, State.timSet_reg, hreg off h]

/-! ### A SYNC arrives -/

/-- The arrival of a SYNC is kept at its port: the time it carries, the time it was accepted, and its sender's depth and flags (R419). -/
def State.syncKept (s : State) (k : Pkt) : State :=
  ({ s with inbox := s.inbox.erase k } : State).setPort (k.gin % 8) { s.port (k.gin % 8) with
    syncPeer := BitVec.ofNat 64 (fieldAt k.payload 0 8), syncAt := k.stamp, depth := fieldAt k.payload 24 1, flags := fieldAt k.payload 25 1 }

/-- The link's delay by a SYNC's exchange, in eighths of a nanosecond (R420). -/
def Pkt.syncDelay8 (k : Pkt) : Int :=
  let w := fun (i : Nat) => BitVec.ofNat 64 (fieldAt k.payload i 8)
  (timeDiff k.stamp (w 8) - timeDiff (w 0) (w 16)) * 4

/-- The offset of the two time bases by a SYNC's exchange, in eighths of a nanosecond (R420). -/
def Pkt.syncOffset8 (k : Pkt) : Int :=
  let w := fun (i : Nat) => BitVec.ofNat 64 (fieldAt k.payload i 8)
  (timeDiff (w 16) (w 8) + timeDiff (w 0) k.stamp) * 4

/-- The link's delay, and the count of its exchanges (R420). -/
def State.syncMeasured (s : State) (k : Pkt) : State :=
  ((s.syncKept k).setFld (Reg.timLink (k.gin % 8)) 0 32 (k.syncDelay8 % 2 ^ 32).toNat).setFld (Reg.timLink (k.gin % 8)) 32 32
    ((s.syncKept k).fld (Reg.timLink (k.gin % 8)) 32 32 + 1)

theorem execSync_first {n : Nat} {k : Pkt} (h : (s.inbox.filter (fun x => x.typ == 0x20))[n]? = some k) (hok : k.checkOk = true)
    (hw : BitVec.ofNat 64 (fieldAt k.payload 8 8) = 0) : execSync n s = .next (s.syncKept k) := by
  have hok' : ¬ (!k.checkOk) = true := by rw [hok]; decide
  unfold execSync
  rw [State.takePkt_eq h]
  dsimp only
  rw [if_neg hok']
  exact if_pos hw

theorem State.syncMeasured_only (s : State) (k : Pkt) : SetupOnly (s.syncKept k) (s.syncMeasured k) :=
  (SetupOnly.setFld _ _ _ _ _).trans (.setFld _ _ _ _ _)

theorem State.syncKept_reg (s : State) (k : Pkt) (off : Nat) : (s.syncKept k).reg off = s.reg off :=
  (State.reg_setPort _ _ _ _).trans (State.reg_of_regs rfl off)

theorem State.syncKept_port (s : State) (k : Pkt) : (s.syncKept k).port (k.gin % 8) = { s.port (k.gin % 8) with
    syncPeer := BitVec.ofNat 64 (fieldAt k.payload 0 8), syncAt := k.stamp, depth := fieldAt k.payload 24 1, flags := fieldAt k.payload 25 1 } :=
  State.port_setPort_self _ _ _

theorem State.syncMeasured_reg (s : State) (k : Pkt) {off : Nat} (h : off ≠ Reg.timLink (k.gin % 8)) :
    (s.syncMeasured k).reg off = s.reg off := by
  rw [State.syncMeasured, State.reg_setFld _ _ _ _ _ _ h, State.reg_setFld _ _ _ _ _ _ h, State.syncKept_reg]

theorem State.syncMeasured_count (s : State) (k : Pkt) : (s.syncMeasured k).fld (Reg.timLink (k.gin % 8)) 32 32 =
    (s.fld (Reg.timLink (k.gin % 8)) 32 32 + 1) % 2 ^ 32 := by
  rw [State.syncMeasured, State.fld_setFld_same _ _ _ _ _ (by decide), State.fld_of_reg (s.syncKept_reg k _)]

/-- The parent of a package does not change by a SYNC that repeats its sender's depth. -/
theorem State.syncMeasured_parent (s : State) (k : Pkt) (hdepth : (s.port (k.gin % 8)).depth = fieldAt k.payload 24 1) :
    (s.syncMeasured k).masterOf (s.syncMeasured k).onBackup = s.masterOf s.onBackup ∧
    (s.syncMeasured k).pkg = s.pkg ∧ (s.syncMeasured k).parentPort = s.parentPort := by
  have hpkgId := s.syncMeasured_reg k (Reg.pkgId_ne_timLink _)
  have hmaster := State.master_congr (s.syncMeasured_reg k (Reg.timMaster_ne_timLink _)) (s.syncMeasured_reg k (Reg.timStatus_ne_timLink _))
  have honly := s.syncMeasured_only k
  refine ⟨hmaster, State.pkg_congr hpkgId, State.parentPort_congr hpkgId (honly.linkMap.trans (State.setPort_linkMap _ _ _)) hmaster
    (fun x => s.syncMeasured_reg k (Reg.portStatus_ne_timLink x _)) fun x => ?_⟩
  rw [State.port_of_ports honly.ports]
  by_cases hx : x = k.gin % 8
  · rw [hx, State.syncKept_port, hdepth]
  · exact congrArg Port.depth (State.port_setPort_other _ _ hx)

theorem State.syncMeasured_rest (s : State) (k : Pkt) : (s.syncMeasured k).bu = s.bu ∧
    (s.syncMeasured k).tim = s.tim ∧ (s.syncMeasured k).time = s.time := by
  have honly := s.syncMeasured_only k
  exact ⟨honly.bu.trans (State.setPort_bu _ _ _), honly.tim.trans (State.setPort_tim _ _ _), honly.time.trans (State.setPort_time _ _ _)⟩

/-- The parent's SYNC disciplines the time base. -/
theorem execSync_parent {n : Nat} {k : Pkt} (h : (s.inbox.filter (fun x => x.typ == 0x20))[n]? = some k) (hok : k.checkOk = true)
    (hw : BitVec.ofNat 64 (fieldAt k.payload 8 8) ≠ 0) (hdepth : (s.port (k.gin % 8)).depth = fieldAt k.payload 24 1)
    (hmaster : s.masterOf s.onBackup ≠ s.pkg) (hparent : s.parentPort = some (k.gin % 8)) (hknown : fieldAt k.payload 24 1 ≠ 0xFF) :
    execSync n s = .next ((s.syncMeasured k).discipline (k.gin % 8) k.syncOffset8 ((fieldAt k.payload 25 1).testBit 1)
      (fieldAt k.payload 24 1)) := by
  have hok' : ¬ (!k.checkOk) = true := by rw [hok]; decide
  have hcond : (s.syncMeasured k).masterOf (s.syncMeasured k).onBackup ≠ (s.syncMeasured k).pkg ∧
      (s.syncMeasured k).parentPort = some (k.gin % 8) ∧ fieldAt k.payload 24 1 ≠ 0xFF := by
    obtain ⟨hmaster', hpkg', hparent'⟩ := s.syncMeasured_parent k hdepth
    rw [hmaster', hpkg', hparent']
    exact ⟨hmaster, hparent, hknown⟩
  unfold execSync
  rw [State.takePkt_eq h]
  dsimp only
  rw [if_neg hok']
  exact (if_neg hw).trans (if_pos hcond)

/-! ### Holdover and the backup master -/

theorem execTimHoldover_due {m : Nat} (hpath : s.tim.noPath = some m) (hlocked : s.timLocked = true) (hdue : m + 100000 ≤ s.ns) :
    execTimHoldover s = .next ((s.setFld Reg.timStatus 0 2 3).record 0 0x621 2 (s.unitDie 0) 0 0 0 0) := by
  unfold execTimHoldover
  rw [hpath]
  exact if_pos ⟨hlocked, hdue⟩

/-- The package follows the backup from now on; the backup itself takes its own time as the master's (R422). -/
def State.followsBackup (s : State) : State :=
  let t := s.setFld Reg.timStatus 2 1 1
  if t.masterOf true = t.pkg then
    ((t.timSet t.time { t.tim with slew := 0, rate := 0 }).setFld Reg.timStatus 0 2 2).setFld Reg.timStatus 3 5 0
  else t

theorem execTimMasterLost_due {m : Nat} (hprimary : s.tim.noPrimary = some m) (hover : s.fld Reg.timStatus 0 2 = 3) (hback : s.onBackup = false)
    (hdue : m + 1000000 ≤ s.ns) (hnamed : s.fld Reg.timMaster 31 1 = 1) (hpath : s.pathTo (s.masterOf true) = true) :
    execTimMasterLost s = .next ((s.followsBackup.record 0 0x622 2 (s.followsBackup.unitDie 0) 0 0 0 0).refreshPath) := by
  have hback' : (!s.onBackup) = true := by rw [hback]; rfl
  unfold execTimMasterLost
  rw [hprimary]
  exact if_pos ⟨hover, hback', hdue, hnamed, hpath⟩

theorem State.refreshPath_regs (s : State) : s.refreshPath.regs = s.regs := rfl

theorem State.refreshPath_fbufs (s : State) : s.refreshPath.fbufs = s.fbufs := rfl

theorem State.followsBackup_spec (s : State) : s.followsBackup.onBackup = true ∧ s.followsBackup.unitDie = s.unitDie ∧
    s.followsBackup.bu = s.bu ∧ s.followsBackup.fbufs = s.fbufs ∧ s.followsBackup.time = s.time := by
  unfold State.followsBackup
  extract_lets t
  have honly : SetupOnly s t := .setFld _ _ _ _ _
  have hback : t.fld Reg.timStatus 2 1 = 1 := (State.fld_setFld_same _ _ _ _ _ (by decide)).trans (Nat.mod_eq_of_lt (by decide))
  have hpkgId : t.reg Reg.pkgId = s.reg Reg.pkgId := State.reg_setFld _ _ _ _ _ _ Reg.pkgId_ne_timStatus
  clear_value t
  split
  · have htop := (SetupOnly.setFld (t.timSet t.time { t.tim with slew := 0, rate := 0 }) Reg.timStatus 0 2 2).trans (.setFld _ Reg.timStatus 3 5 0)
    refine ⟨?_, State.unitDie_congr ?_, htop.bu.trans honly.bu, htop.fbufs.trans honly.fbufs, htop.time.trans honly.time⟩
    · rw [State.onBackup, State.fld_setFld_other _ _ _ _ _ _ _ (by decide) (by decide),
        State.fld_setFld_other _ _ _ _ _ _ _ (by decide) (by decide), State.fld_of_reg (State.timSet_reg _ _ _ _), hback]
      rfl
    · rw [State.reg_setFld _ _ _ _ _ _ Reg.pkgId_ne_timStatus, State.reg_setFld _ _ _ _ _ _ Reg.pkgId_ne_timStatus, State.timSet_reg, hpkgId]
  · refine ⟨?_, State.unitDie_congr hpkgId, honly.bu, honly.fbufs, honly.time⟩
    rw [State.onBackup, hback]; rfl

end Sys2Proof.Machine

open Sys2Proof Sys2Proof.Machine

/-- Settles O41: a notice is applied by `State.noticeApplied`, a SYNC kept by `State.syncKept` and the time base stepped by `State.discipline_steps`;
holdover and the change to the backup master are their events' own branches. -/
theorem linkStateAndTime : Obligations.LinkStateAndTime := by
  intro s
  refine ⟨?notice, fun g htakes => ⟨fun hdue => ?syncDue, fun hearly => ?syncEarly⟩, ?sync, fun m hpath hlocked hdue => ?holdover,
    fun m hprimary hover hback hdue hnamed hpath => ?backup⟩
  case notice =>
    intro n pkg g down seq p k hp hok
    refine ⟨fun hseq hpkg => ?_, fun hseq => execLinkstate_older hp hok hseq⟩
    have hsent := PacketsOnly.sendNotice (({ s with inbox := s.inbox.erase p } : State).noticeApplied pkg.toNat g down seq) pkg.toNat g down seq p.gin
    obtain ⟨hseen, hmem, hcores⟩ := ({ s with inbox := s.inbox.erase p } : State).noticeApplied_rest pkg.toNat g down seq
    have hmap := hsent.linkMap.trans (State.noticeApplied_linkMap _ _ _ _ _)
    refine ⟨_, execLinkstate_newer hp hok hseq hpkg, State.isDown_of_marked hmap, ?_, fun m x hx hne => State.isDown_of_marked_other hmap fun he => hne ?_,
      hsent.mem.trans hmem, hsent.cores.trans hcores⟩
    · rw [hsent.lsSeen, hseen]
      exact Sys2Proof.Laws.Tab.get_set_self _ _ _ _
    · have hg := g.isLt
      exact Prod.ext (by dsimp only; omega) (by dsimp only; omega)
  case syncDue =>
    obtain ⟨k, htyp, hexec⟩ := execSyncSend_due htakes hdue
    refine ⟨_, k, hexec, ?_, htyp, ?_, State.setPort_regs _ _ _, State.setPort_mem _ _ _⟩
    · rw [State.port_setPort_self]
    · rw [State.port_setPort_self]
  case syncEarly => exact if_neg fun h => Nat.not_le_of_lt hearly h.2
  case sync =>
    intro n k
    dsimp only
    intro hk hok
    refine ⟨fun hw => ⟨_, execSync_first hk hok hw, ?_, ?_, State.setPort_time _ _ _, State.setPort_regs _ _ _⟩,
      fun hw hmaster hparent hdepth hknown hlocking hstep hstate hlocked hexch hfirst => ?_⟩
    · rw [State.syncKept_port]
    · rw [State.syncKept_port]
    · have hexec := execSync_parent hk hok hw hdepth hmaster hparent hknown
      obtain ⟨hbu, htim, htime⟩ := s.syncMeasured_rest k
      have hstatus := s.syncMeasured_reg k (Reg.timStatus_ne_timLink (k.gin % 8))
      have hstepped := Stepped.discipline (g := k.gin % 8) (depth := fieldAt k.payload 24 1) (offset8 := k.syncOffset8)
        ((State.fld_of_reg hstatus 0 2).trans hlocking) (by rw [hbu]; exact hstep) (by rw [hbu]; exact hstate) (by rw [htim]; exact hexch)
        (by rw [htim]; exact hfirst)
      rw [hlocked] at hexec
      refine ⟨_, hexec, hstepped.locked, hstepped.stepped, ?_, hstepped.time.trans (by rw [htime]; rfl)⟩
      exact (State.fld_of_reg (hstepped.regs _ (Reg.timStatus_ne_timLink (k.gin % 8)).symm) _ _).trans (s.syncMeasured_count k)
  case holdover =>
    have honly := SetupOnly.setFld s Reg.timStatus 0 2 3
    have hrec := RecordOnly.record (s.setFld Reg.timStatus 0 2 3) 0 0x621 2 (s.unitDie 0) 0 0 0 0
    refine ⟨_, execTimHoldover_due hpath hlocked hdue, ?_, hrec.time.trans honly.time,
      (Recorded.record _ _ _ _ _ _ _ _ _).between honly.bu honly.fbufs honly.time rfl⟩
    rw [State.fld_of_reg (State.reg_of_regs hrec.regs _), State.fld_setFld_same _ _ _ _ _ (by decide), Nat.mod_eq_of_lt (by decide)]
  case backup =>
    obtain ⟨hfollows, hunit, hbu, hfbufs, htime⟩ := s.followsBackup_spec
    have hrec := RecordOnly.record s.followsBackup 0 0x622 2 (s.followsBackup.unitDie 0) 0 0 0 0
    have hrecorded := Recorded.record s.followsBackup 0 0x622 2 (s.followsBackup.unitDie 0) 0 0 0 0
    rw [hunit] at hrec hrecorded
    have hexec := execTimMasterLost_due hprimary hover hback hdue hnamed hpath
    rw [hunit] at hexec
    refine ⟨_, hexec, ?_, hrecorded.between hbu hfbufs htime (State.refreshPath_fbufs _)⟩
    rw [State.onBackup, State.fld_of_reg (State.reg_of_regs ((State.refreshPath_regs _).trans hrec.regs) _)]
    exact hfollows

end
